-- ==== Sys2Proof/Word.lean ====
section
/-! DEFINITION. The word types: registers of 64 and 2,048 bits, bytes, instruction words, and the
fields of a word (R11, R24, R41). -/
namespace Sys2Proof

/-- A scalar register (R41). -/
abbrev Word := BitVec 64
/-- A vector register (R41). -/
abbrev VWord := BitVec 2048
/-- One byte of memory or scratchpad. -/
abbrev Byte := BitVec 8
/-- One instruction word (R11). -/
abbrev IWord := BitVec 32
/-- A register field: 0 to 27 name a register, 28 to 31 a latch (R24). -/
abbrev Reg := BitVec 5
/-- The token field: bit 3 WP, bit 2 WS, bit 1 SP, bit 0 SS (R11, R12). -/
abbrev Tok := BitVec 4

end Sys2Proof
end

