-- ==== Sys2Proof/Syntax.lean ====
section
/-! DEFINITION. The instructions and the steps of the part: one constructor for each row of
spec/opcode_table.json (R34, R35 for the words; spec/95 for the steps that no word encodes).
The operands are the raw fields of the word (R20), as bit vectors: a field is read, not interpreted, here. -/
namespace Sys2Proof

/-- Who writes an Atlas register: a host master (R464) or a Steward. -/
inductive Master where
  | host (m : Nat)
  | steward
  deriving DecidableEq, Repr

/-- What a host access names (R461): the window, 0 for BAR0, 2 for BAR2 and 1 for the HDM range of CXL, and the offset in it. -/
structure HostAddress where
  win : Nat
  off : Nat
  deriving DecidableEq, Repr

/-- The rows of spec/opcode_table.json. `tk` is the token field [31:28] of R11 and R12. -/
inductive Instr where
  /-- NOP (R65): Has no effect; its token bits act as on any instruction. -/
  | nop (tk : Tok)
  /-- TRAP (R66): Raises Software Trap (0x50), class 1, freezes the gang and may fire the snapshot trigger. -/
  | trap (tk : Tok) (code : BitVec 12)
  /-- SAFEPT (R67): Marks a safe point, waits for in-flight fixed results, and parks the stream if a pre-emption is pending. -/
  | safept (tk : Tok) (imm : BitVec 12)
  /-- ENDLEG (R68): Ends the stream once its results have landed and its outstanding writes have completed. -/
  | endleg (tk : Tok)
  /-- WAITL (R69): Stalls the stream until at most n variable-latency writes are outstanding. -/
  | waitl (tk : Tok) (n : BitVec 12)
  /-- ERET (R403): Returns from a Steward exception to SEPC and clears EIN. -/
  | eret
  /-- WFE (R403): Holds the Steward until an enabled SEVENT bit is set. -/
  | wfe
  /-- TLBI (R403): Removes the covered translations from every TLB of the package and waits for walks begun before it. -/
  | tlbi (kind : BitVec 4) (r : Reg)
  /-- IPI (R403): Releases at SYSTEM, then sets the IPI event bit of a Steward on the same I/O die. -/
  | ipi (n : BitVec 4)
  /-- CSRR (R70): Reads a CSR into a register with a latency of 1. -/
  | csrr (tk : Tok) (d : Reg) (num : BitVec 11)
  /-- CSRW (R72): Writes a CSR from a register; the write takes effect from the next slot. -/
  | csrw (tk : Tok) (a : Reg) (num : BitVec 11)
  /-- ADD (R73): Integer add, also on 128-, 256- or 512-bit register groups. -/
  | add (tk : Tok) (d : Reg) (a : Reg) (b : Reg) (w : BitVec 2) (nw : BitVec 1)
  /-- SUB (R73): Integer subtract, also on register groups. -/
  | sub (tk : Tok) (d : Reg) (a : Reg) (b : Reg) (w : BitVec 2) (nw : BitVec 1)
  /-- AND (R73): Bitwise AND, also on register groups. -/
  | and (tk : Tok) (d : Reg) (a : Reg) (b : Reg) (w : BitVec 2) (nw : BitVec 1)
  /-- OR (R73): Bitwise OR, also on register groups. -/
  | or (tk : Tok) (d : Reg) (a : Reg) (b : Reg) (w : BitVec 2) (nw : BitVec 1)
  /-- XOR (R73): Bitwise XOR, also on register groups. -/
  | xor (tk : Tok) (d : Reg) (a : Reg) (b : Reg) (w : BitVec 2) (nw : BitVec 1)
  /-- ANDN (R73): a AND NOT b, also on register groups. -/
  | andn (tk : Tok) (d : Reg) (a : Reg) (b : Reg) (w : BitVec 2) (nw : BitVec 1)
  /-- SLL (R73): Logical shift left by b[5:0]. -/
  | sll (tk : Tok) (d : Reg) (a : Reg) (b : Reg) (nw : BitVec 1)
  /-- SRL (R73): Logical shift right by b[5:0]. -/
  | srl (tk : Tok) (d : Reg) (a : Reg) (b : Reg) (nw : BitVec 1)
  /-- SRA (R73): Arithmetic shift right by b[5:0]. -/
  | sra (tk : Tok) (d : Reg) (a : Reg) (b : Reg) (nw : BitVec 1)
  /-- SLT (R73): Signed set-less-than. -/
  | slt (tk : Tok) (d : Reg) (a : Reg) (b : Reg) (nw : BitVec 1)
  /-- SLTU (R73): Unsigned set-less-than. -/
  | sltu (tk : Tok) (d : Reg) (a : Reg) (b : Reg) (nw : BitVec 1)
  /-- MIN (R73): Signed minimum. -/
  | min (tk : Tok) (d : Reg) (a : Reg) (b : Reg) (nw : BitVec 1)
  /-- MAX (R73): Signed maximum. -/
  | max (tk : Tok) (d : Reg) (a : Reg) (b : Reg) (nw : BitVec 1)
  /-- MINU (R73): Unsigned minimum. -/
  | minu (tk : Tok) (d : Reg) (a : Reg) (b : Reg) (nw : BitVec 1)
  /-- MAXU (R73): Unsigned maximum. -/
  | maxu (tk : Tok) (d : Reg) (a : Reg) (b : Reg) (nw : BitVec 1)
  /-- ROTR (R73): Rotate right by b[5:0]. -/
  | rotr (tk : Tok) (d : Reg) (a : Reg) (b : Reg) (nw : BitVec 1)
  /-- MUL (R76): Low 64 bits of a product, latency 3. -/
  | mul (tk : Tok) (d : Reg) (a : Reg) (b : Reg) (nw : BitVec 1)
  /-- MULH (R76): High 64 bits of the signed product. -/
  | mulh (tk : Tok) (d : Reg) (a : Reg) (b : Reg) (nw : BitVec 1)
  /-- MULHU (R76): High 64 bits of the unsigned product. -/
  | mulhu (tk : Tok) (d : Reg) (a : Reg) (b : Reg) (nw : BitVec 1)
  /-- MADD (R76): d + a × b, low 64 bits. -/
  | madd (tk : Tok) (d : Reg) (a : Reg) (b : Reg) (nw : BitVec 1)
  /-- DIV (R77): Signed division truncated toward zero, latency 18, without faults. -/
  | div (tk : Tok) (d : Reg) (a : Reg) (b : Reg) (nw : BitVec 1)
  /-- DIVU (R77): Unsigned division. -/
  | divu (tk : Tok) (d : Reg) (a : Reg) (b : Reg) (nw : BitVec 1)
  /-- REM (R77): Signed remainder with the sign of a. -/
  | rem (tk : Tok) (d : Reg) (a : Reg) (b : Reg) (nw : BitVec 1)
  /-- REMU (R77): Unsigned remainder. -/
  | remu (tk : Tok) (d : Reg) (a : Reg) (b : Reg) (nw : BitVec 1)
  /-- CLZ (R76): Counts leading zero bits. -/
  | clz (tk : Tok) (d : Reg) (a : Reg) (nw : BitVec 1)
  /-- CTZ (R76): Counts trailing zero bits. -/
  | ctz (tk : Tok) (d : Reg) (a : Reg) (nw : BitVec 1)
  /-- POPC (R76): Counts set bits. -/
  | popc (tk : Tok) (d : Reg) (a : Reg) (nw : BitVec 1)
  /-- BREV (R76): Reverses the bit order. -/
  | brev (tk : Tok) (d : Reg) (a : Reg) (nw : BitVec 1)
  /-- BSWP (R76): Reverses the byte order. -/
  | bswp (tk : Tok) (d : Reg) (a : Reg) (nw : BitVec 1)
  /-- SELZ (R76): Selects a if b is zero, otherwise keeps d. -/
  | selz (tk : Tok) (d : Reg) (a : Reg) (b : Reg) (nw : BitVec 1)
  /-- ADDI (R78): Adds a sign-extended immediate. -/
  | addi (tk : Tok) (d : Reg) (a : Reg) (imm : BitVec 12)
  /-- ANDI (R78): AND with a sign-extended immediate. -/
  | andi (tk : Tok) (d : Reg) (a : Reg) (imm : BitVec 12)
  /-- ORI (R78): OR with a sign-extended immediate. -/
  | ori (tk : Tok) (d : Reg) (a : Reg) (imm : BitVec 12)
  /-- XORI (R78): XOR with a sign-extended immediate. -/
  | xori (tk : Tok) (d : Reg) (a : Reg) (imm : BitVec 12)
  /-- SLTI (R78): Signed compare with an immediate. -/
  | slti (tk : Tok) (d : Reg) (a : Reg) (imm : BitVec 12)
  /-- SLTIU (R78): Unsigned compare with a sign-extended immediate. -/
  | sltiu (tk : Tok) (d : Reg) (a : Reg) (imm : BitVec 12)
  /-- SLLI (R79): Shift left by an immediate amount. -/
  | slli (tk : Tok) (d : Reg) (a : Reg) (amt : BitVec 6)
  /-- SRLI (R79): Logical shift right by an immediate amount. -/
  | srli (tk : Tok) (d : Reg) (a : Reg) (amt : BitVec 6)
  /-- SRAI (R79): Arithmetic shift right by an immediate amount. -/
  | srai (tk : Tok) (d : Reg) (a : Reg) (amt : BitVec 6)
  /-- LHI (R80): Loads sext(imm17) << 12. -/
  | lhi (tk : Tok) (d : Reg) (imm : BitVec 17)
  /-- LSI (R80): Shifts d left by 17 and ORs in imm17. -/
  | lsi (tk : Tok) (d : Reg) (imm : BitVec 17)
  /-- LPC (R80): Loads a PC-relative ring index. -/
  | lpc (tk : Tok) (d : Reg) (imm : BitVec 17)
  /-- BEQ (R81): Branches if a = b. -/
  | beq (tk : Tok) (a : Reg) (b : Reg) (off : BitVec 9)
  /-- BNE (R81): Branches if a ≠ b. -/
  | bne (tk : Tok) (a : Reg) (b : Reg) (off : BitVec 9)
  /-- BLT (R81): Branches if a < b, signed. -/
  | blt (tk : Tok) (a : Reg) (b : Reg) (off : BitVec 9)
  /-- BGE (R81): Branches if a ≥ b, signed. -/
  | bge (tk : Tok) (a : Reg) (b : Reg) (off : BitVec 9)
  /-- BLTU (R81): Branches if a < b, unsigned. -/
  | bltu (tk : Tok) (a : Reg) (b : Reg) (off : BitVec 9)
  /-- BGEU (R81): Branches if a ≥ b, unsigned. -/
  | bgeu (tk : Tok) (a : Reg) (b : Reg) (off : BitVec 9)
  /-- BSET (R81): Branches if a AND b is nonzero. -/
  | bset (tk : Tok) (a : Reg) (b : Reg) (off : BitVec 9)
  /-- BCLR (R81): Branches if a AND b is zero. -/
  | bclr (tk : Tok) (a : Reg) (b : Reg) (off : BitVec 9)
  /-- J (R82): Jumps by a signed word offset. -/
  | j (tk : Tok) (off : BitVec 22)
  /-- JL (R82): Jumps and lands the link in x26. -/
  | jl (tk : Tok) (off : BitVec 22)
  /-- JR (R83): Jumps to register plus immediate; a target outside the ring raises Ring Bounds. -/
  | jr (tk : Tok) (a : Reg) (imm : BitVec 12)
  /-- LOOP (R84): Sets LOOPSTATE for the hardware loop, or skips the body when the count is 0. -/
  | loop (tk : Tok) (a : Reg) (imm : BitVec 12)
  /-- LD (R302): Global signed load through the TLB and the L1. -/
  | ld (tk : Tok) (d : Reg) (a : Reg) (off : BitVec 10) (sz : BitVec 2)
  /-- LDU (R302): Global zero-extending load. -/
  | ldu (tk : Tok) (d : Reg) (a : Reg) (off : BitVec 10) (sz : BitVec 2)
  /-- ST (R303): Global store, performed at the home slice. -/
  | st (tk : Tok) (d : Reg) (a : Reg) (off : BitVec 10) (sz : BitVec 2)
  /-- SPLD (R201): Signed scratchpad load, own or peer. -/
  | spld (tk : Tok) (d : Reg) (a : Reg) (off : BitVec 10) (sz : BitVec 2)
  /-- SPLDU (R201): Zero-extending scratchpad load. -/
  | spldu (tk : Tok) (d : Reg) (a : Reg) (off : BitVec 10) (sz : BitVec 2)
  /-- SPST (R201): Scratchpad store, own or peer. -/
  | spst (tk : Tok) (d : Reg) (a : Reg) (off : BitVec 10) (sz : BitVec 2)
  /-- AADD (R307): Atomic add at the home slice. -/
  | aadd (tk : Tok) (a : Reg) (b : Reg) (scope : BitVec 6) (sz : BitVec 2)
  /-- ASWP (R307): Atomic swap. -/
  | aswp (tk : Tok) (a : Reg) (b : Reg) (scope : BitVec 6) (sz : BitVec 2)
  /-- ACAS (R307): Atomic compare and swap on a register pair. -/
  | acas (tk : Tok) (a : Reg) (b : Reg) (scope : BitVec 6) (sz : BitVec 2)
  /-- AAND (R307): Atomic AND. -/
  | aand (tk : Tok) (a : Reg) (b : Reg) (scope : BitVec 6) (sz : BitVec 2)
  /-- AOR (R307): Atomic OR. -/
  | aor (tk : Tok) (a : Reg) (b : Reg) (scope : BitVec 6) (sz : BitVec 2)
  /-- AXOR (R307): Atomic XOR. -/
  | axor (tk : Tok) (a : Reg) (b : Reg) (scope : BitVec 6) (sz : BitVec 2)
  /-- AMAX (R307): Atomic signed maximum. -/
  | amax (tk : Tok) (a : Reg) (b : Reg) (scope : BitVec 6) (sz : BitVec 2)
  /-- AMIN (R307): Atomic signed minimum. -/
  | amin (tk : Tok) (a : Reg) (b : Reg) (scope : BitVec 6) (sz : BitVec 2)
  /-- AMAXU (R307): Atomic unsigned maximum. -/
  | amaxu (tk : Tok) (a : Reg) (b : Reg) (scope : BitVec 6) (sz : BitVec 2)
  /-- AMINU (R307): Atomic unsigned minimum. -/
  | aminu (tk : Tok) (a : Reg) (b : Reg) (scope : BitVec 6) (sz : BitVec 2)
  /-- AINCW (R307): Atomic increment that wraps to 0 at a bound. -/
  | aincw (tk : Tok) (a : Reg) (b : Reg) (scope : BitVec 6) (sz : BitVec 2)
  /-- AFAB (R307): Atomic fetch-and-add, applied only if the sum stays within a bound. -/
  | afab (tk : Tok) (a : Reg) (b : Reg) (scope : BitVec 6) (sz : BitVec 2)
  /-- DACC (R311): Adds a value exactly into the slice's datum accumulator entry for a word. -/
  | dacc (tk : Tok) (a : Reg) (b : Reg) (scope : BitVec 6)
  /-- DRD (R312): Closes a datum entry, rounds it once and writes the word. -/
  | drd (tk : Tok) (a : Reg) (b : Reg) (scope : BitVec 6)
  /-- DCLR (R313): Frees a datum entry without writing the word. -/
  | dclr (tk : Tok) (a : Reg) (b : Reg) (scope : BitVec 6)
  /-- FENCE_ACQ (R280): Acquire fence at a scope; invalidates the L1 when the core is in scope. -/
  | fenceAcq (tk : Tok) (scope : BitVec 6)
  /-- FENCE_REL (R280): Release fence at a scope. -/
  | fenceRel (tk : Tok) (scope : BitVec 6)
  /-- FENCE_AR (R280): Release then acquire at a scope. -/
  | fenceAr (tk : Tok) (scope : BitVec 6)
  /-- FENCE_SC (R283): Release and acquire that also holds later loads behind earlier stores. -/
  | fenceSc (tk : Tok) (scope : BitVec 6)
  /-- FENCE_BW (R317): Writes dirty region-B lines of the scope's slices back to DRAM for the bank units. -/
  | fenceBw (tk : Tok) (scope : BitVec 6)
  /-- FENCE_BR (R318): Waits for earlier bank commands to retire, then acquires. -/
  | fenceBr (tk : Tok) (scope : BitVec 6)
  /-- SINC (R210): Increments a semaphore, own or peer, as a release. -/
  | sinc (tk : Tok) (sem : BitVec 5) (a : Reg) (t : Reg)
  /-- SACQ (R210): Waits until a semaphore reaches n and subtracts n, as an acquire. -/
  | sacq (tk : Tok) (sem : BitVec 5) (n : BitVec 13)
  /-- SWAIT (R210): Waits until a semaphore reaches n, as an acquire. -/
  | swait (tk : Tok) (sem : BitVec 5) (n : BitVec 13)
  /-- SSET (R210): Sets an own semaphore and its scope tag to CORE. -/
  | sset (tk : Tok) (sem : BitVec 5) (a : Reg)
  /-- SRD (R210): Reads a semaphore. -/
  | srd (tk : Tok) (sem : BitVec 5) (a : Reg) (t : Reg)
  /-- SINCW (R210): Increments a semaphore with wrap at a bound and returns the old value. -/
  | sincw (tk : Tok) (sem : BitVec 5) (a : Reg) (t : Reg)
  /-- SFAB (R210): Adds to a semaphore if the sum stays within a bound, returning the old value and success. -/
  | sfab (tk : Tok) (sem : BitVec 5) (a : Reg) (t : Reg)
  /-- RCFG (R216): Writes a ring's configuration and resets its status. -/
  | rcfg (tk : Tok) (ring : BitVec 3) (a : Reg)
  /-- RCLAIM (R100): Claims the next ring slot, waiting while the ring is full. -/
  | rclaim (tk : Tok) (ring : BitVec 3) (d : Reg)
  /-- RPUB (R216): Publishes a claimed slot. -/
  | rpub (tk : Tok) (ring : BitVec 3) (a : Reg)
  /-- RWAITF (R100): Waits for a filled slot and returns HEAD. -/
  | rwaitf (tk : Tok) (ring : BitVec 3) (d : Reg)
  /-- RFREE (R100): Frees the slot at HEAD. -/
  | rfree (tk : Tok) (ring : BitVec 3)
  /-- RWAITE (R100): Waits for room in the ring without claiming. -/
  | rwaite (tk : Tok) (ring : BitVec 3)
  /-- RPOPO (R101): Owner pops the tail of a deque ring, returning its index and first doubleword. -/
  | rpopo (tk : Tok) (ring : BitVec 3) (d : Reg)
  /-- RSTEAL (R101): Steals the head of a deque ring. -/
  | rsteal (tk : Tok) (ring : BitVec 3) (d : Reg) (t : Reg)
  /-- RSTAT (R216): Returns a ring's status. -/
  | rstat (tk : Tok) (ring : BitVec 3) (d : Reg) (t : Reg)
  /-- WMINIT (R219): Initialises a waymark's counts and phase. -/
  | wminit (tk : Tok) (d : Reg) (a : Reg) (b : Reg)
  /-- WMARRIVE (R219): Applies one arrival decrement to a waymark, as a release. -/
  | wmarrive (tk : Tok) (a : Reg)
  /-- WMEXPECT (R219): Adds expected sectors to the current phase. -/
  | wmexpect (tk : Tok) (a : Reg) (b : Reg)
  /-- WMWAIT (R219): Waits until the waymark phase differs from a value, as an acquire. -/
  | wmwait (tk : Tok) (a : Reg) (b : Reg)
  /-- WMTEST (R219): Reads the low 64 bits of a waymark. -/
  | wmtest (tk : Tok) (d : Reg) (a : Reg)
  /-- CPY (R224): Porter copy between scratchpad and virtual memory, sector by sector. -/
  | cpy (tk : Tok) (d : Reg) (a : Reg) (b : Reg) (k : BitVec 2)
  /-- TLD (R226): Porter tensor-box load into scratchpad. -/
  | tld (tk : Tok) (d : Reg) (a : Reg) (b : Reg) (k : BitVec 2)
  /-- TST (R227): Porter tensor-box store to memory. -/
  | tst (tk : Tok) (d : Reg) (a : Reg) (b : Reg) (k : BitVec 2)
  /-- TLDM (R243): Multicast tensor load into the same offset of all four cluster scratchpads. -/
  | tldm (tk : Tok) (d : Reg) (a : Reg) (b : Reg) (k : BitVec 2)
  /-- PFT (R228): Prefetches a tensor box's lines into the LLC. -/
  | pft (tk : Tok) (a : Reg) (b : Reg) (k : BitVec 2)
  /-- MIG (R332): Requests migration of pages to a target die through the Steward. -/
  | mig (tk : Tok) (a : Reg) (b : Reg) (k : BitVec 2)
  /-- WAITSEQ (R231): Waits until a command has retired and settles it for the stream. -/
  | waitseq (tk : Tok) (a : Reg)
  /-- PRED (R232): Names the predecessors of the stream's next command. -/
  | pred (tk : Tok) (a : Reg) (b : Reg) (bv : BitVec 1) (av : BitVec 1)
  /-- DRAIN (R116): Waits until the core's earlier copies are complete on a path. -/
  | drain (tk : Tok) (p : BitVec 3)
  /-- SPAWN (R335): Releases at PACKAGE, adds to the join count and pushes a continuation record into a leg queue. -/
  | spawn (tk : Tok) (a : Reg)
  /-- JOINW (R337): Waits until a join object's count is 0 and returns its status. -/
  | joinw (tk : Tok) (d : Reg) (a : Reg)
  /-- GSYNC (R338): Waits until the gang's schedule counter reaches a tick. -/
  | gsync (tk : Tok) (a : Reg)
  /-- CBAR (R246): Cluster barrier arrival; issues when every participant has arrived. -/
  | cbar (tk : Tok) (n : BitVec 2)
  /-- SCPW (R320): Writes a software scope entry and holds until the update retires. -/
  | scpw (tk : Tok) (d : Reg) (a : Reg) (b : Reg)
  /-- SCPR (R322): Reads a scope entry into scratchpad. -/
  | scpr (tk : Tok) (d : Reg) (a : Reg) (b : Reg)
  /-- SCPINV (R321): Invalidates a scope entry and holds until the update retires. -/
  | scpinv (tk : Tok) (d : Reg) (a : Reg)
  /-- BCFG (R324): Writes the core's bank configuration. -/
  | bcfg (tk : Tok) (a : Reg) (b : Reg)
  /-- BGEMV (R325): Bank-unit matrix-vector product for up to eight seat vectors. -/
  | bgemv (tk : Tok) (b : Reg)
  /-- BGEMVA (R325): Bank-unit matrix-vector product that accumulates onto y. -/
  | bgemva (tk : Tok) (b : Reg)
  /-- CSND (R329): Sends a value on a slot-reserved circuit when a credit and the slot are available. -/
  | csnd (tk : Tok) (a : Reg) (b : Reg)
  /-- CRCV (R330): Receives the oldest circuit value from a source core. -/
  | crcv (tk : Tok) (d : Reg) (a : Reg)
  /-- PLATR (R386): Reads a Plat entry into scratchpad. -/
  | platr (tk : Tok) (d : Reg) (a : Reg) (b : Reg)
  /-- PLATW (R387): Writes a Plat entry with a new generation and holds until every die has it. -/
  | platw (tk : Tok) (d : Reg) (a : Reg) (b : Reg)
  /-- REPLAT (R388): Collective re-sharding of a tensor from one Plat entry to another. -/
  | replat (tk : Tok) (a : Reg) (b : Reg)
  /-- BNDCFG (R396): Copies a face set image into the Bounds engine. -/
  | bndcfg (tk : Tok) (a : Reg) (b : Reg)
  /-- BNDX (R397): Bounds engine exchange of halo faces with torus neighbours. -/
  | bndx (tk : Tok) (a : Reg) (b : Reg)
  /-- GMC (R399): Sends 32 bytes to every member of a multicast group. -/
  | gmc (tk : Tok) (a : Reg) (b : Reg)
  /-- SEATMAP (R434): Reloads the core's seat-map cache from memory. -/
  | seatmap (tk : Tok) (a : Reg)
  /-- TRLD (R435): Reads the committed TR of a seat's request into scratchpad. -/
  | trld (tk : Tok) (d : Reg) (a : Reg) (b : Reg)
  /-- TRSET (R435): Stages a token, rows or stop value for a seat at the Coach. -/
  | trset (tk : Tok) (a : Reg) (b : Reg)
  /-- STEPEND (R436): Releases at SYSTEM and sends the step number and digest to the Coach. -/
  | stepend (tk : Tok) (a : Reg)
  /-- KVMAP (R437): Looks up a KV key in the die's map. -/
  | kvmap (tk : Tok) (d : Reg) (a : Reg)
  /-- KVAPP (R438): Appends rows to a sequence's KV pages, allocating pages as needed. -/
  | kvapp (tk : Tok) (b : Reg)
  /-- DIGEST (R439): Absorbs scratchpad bytes into the core's SHAKE256 state. -/
  | digest (tk : Tok) (a : Reg) (b : Reg)
  /-- MCFG (R187): Writes a tile's configuration and tensor-scale word. -/
  | mcfg (tk : Tok) (t : BitVec 5) (a : Reg) (b : Reg)
  /-- MDAT (R188): Sets a tile's datum and rescales its elements. -/
  | mdat (tk : Tok) (t : BitVec 5) (a : Reg)
  /-- MCLR (R189): Clears a tile to +0 or −0. -/
  | mclr (tk : Tok) (t : BitVec 5) (neg : BitVec 1)
  /-- MMA (R190): Accumulates A × B into a tile. -/
  | mma (tk : Tok) (t : BitVec 5) (a : Reg) (b : Reg) (scl : BitVec 1) (rag : BitVec 1)
  /-- MMAZ (R190): Clears a tile, then accumulates A × B. -/
  | mmaz (tk : Tok) (t : BitVec 5) (a : Reg) (b : Reg) (scl : BitVec 1) (rag : BitVec 1)
  /-- MMAS (R190): Subtracts A × B from a tile. -/
  | mmas (tk : Tok) (t : BitVec 5) (a : Reg) (b : Reg) (scl : BitVec 1) (rag : BitVec 1)
  /-- MATT (R198): Runs one attention block: scores, row softmax and P·V into an O tile. -/
  | matt (tk : Tok) (t : BitVec 5) (b : Reg) (first : BitVec 1)
  /-- MSMX (R196): Sets a tile's attention control. -/
  | msmx (tk : Tok) (t : BitVec 5) (a : Reg)
  /-- MRD (R193): Reads a tile out to scratchpad in a format, optionally normalised. -/
  | mrd (tk : Tok) (t : BitVec 5) (a : Reg) (out : BitVec 5) (norm : BitVec 1)
  /-- MACC (R192): Adds one tile into another. -/
  | macc (tk : Tok) (t : BitVec 5) (a : Reg)
  /-- MSTAT (R194): Writes a tile's 32-byte status record. -/
  | mstat (tk : Tok) (t : BitVec 5) (a : Reg)
  /-- VCFG (R154): Sets VTYPE: element type, rounding and saturation. -/
  | vcfg (tk : Tok) (sat : BitVec 1) (rnd : BitVec 2) (ty : BitVec 4)
  /-- VADD (R155): Lane-wise add. -/
  | vadd (tk : Tok) (d : Reg) (a : Reg) (b : Reg) (m : BitVec 2)
  /-- VSUB (R155): Lane-wise subtract. -/
  | vsub (tk : Tok) (d : Reg) (a : Reg) (b : Reg) (m : BitVec 2)
  /-- VMUL (R155): Lane-wise multiply. -/
  | vmul (tk : Tok) (d : Reg) (a : Reg) (b : Reg) (m : BitVec 2)
  /-- VMAC (R155): Fused lane-wise multiply-add. -/
  | vmac (tk : Tok) (d : Reg) (a : Reg) (b : Reg) (m : BitVec 2)
  /-- VMIN (R155): Lane-wise minimum. -/
  | vmin (tk : Tok) (d : Reg) (a : Reg) (b : Reg) (m : BitVec 2)
  /-- VMAX (R155): Lane-wise maximum. -/
  | vmax (tk : Tok) (d : Reg) (a : Reg) (b : Reg) (m : BitVec 2)
  /-- VADDS (R155): Adds a scalar to every lane. -/
  | vadds (tk : Tok) (d : Reg) (a : Reg) (b : Reg) (m : BitVec 2)
  /-- VABS (R155): Lane-wise absolute value. -/
  | vabs (tk : Tok) (d : Reg) (a : Reg) (m : BitVec 2)
  /-- VAND (R158): Lane-wise AND. -/
  | vand (tk : Tok) (d : Reg) (a : Reg) (b : Reg) (m : BitVec 2)
  /-- VOR (R158): Lane-wise OR. -/
  | vor (tk : Tok) (d : Reg) (a : Reg) (b : Reg) (m : BitVec 2)
  /-- VXOR (R158): Lane-wise XOR. -/
  | vxor (tk : Tok) (d : Reg) (a : Reg) (b : Reg) (m : BitVec 2)
  /-- VSHL (R158): Lane-wise shift left. -/
  | vshl (tk : Tok) (d : Reg) (a : Reg) (b : Reg) (m : BitVec 2)
  /-- VSHR (R158): Lane-wise logical shift right. -/
  | vshr (tk : Tok) (d : Reg) (a : Reg) (b : Reg) (m : BitVec 2)
  /-- VSRA (R158): Lane-wise arithmetic shift right. -/
  | vsra (tk : Tok) (d : Reg) (a : Reg) (b : Reg) (m : BitVec 2)
  /-- VNEG (R158): Lane-wise negation. -/
  | vneg (tk : Tok) (d : Reg) (a : Reg) (m : BitVec 2)
  /-- VSEL (R159): Selects lanes from a or b by the mask. -/
  | vsel (tk : Tok) (d : Reg) (a : Reg) (b : Reg) (m : BitVec 2)
  /-- VCMPEQ (R160): Writes a mask of lanes where a = b. -/
  | vcmpeq (tk : Tok) (d : Reg) (a : Reg) (b : Reg) (m : BitVec 2)
  /-- VCMPNE (R160): Writes a mask of lanes where a ≠ b. -/
  | vcmpne (tk : Tok) (d : Reg) (a : Reg) (b : Reg) (m : BitVec 2)
  /-- VCMPLT (R160): Writes a mask of lanes where a < b. -/
  | vcmplt (tk : Tok) (d : Reg) (a : Reg) (b : Reg) (m : BitVec 2)
  /-- VCMPLE (R160): Writes a mask of lanes where a ≤ b. -/
  | vcmple (tk : Tok) (d : Reg) (a : Reg) (b : Reg) (m : BitVec 2)
  /-- VMSK (R161): Sets the first c mask bits. -/
  | vmsk (tk : Tok) (d : Reg) (a : Reg)
  /-- VEXP2 (R162): Correctly rounded 2^a per lane. -/
  | vexp2 (tk : Tok) (d : Reg) (a : Reg) (m : BitVec 2)
  /-- VLOG2 (R162): Correctly rounded log₂ per lane. -/
  | vlog2 (tk : Tok) (d : Reg) (a : Reg) (m : BitVec 2)
  /-- VRCP (R162): Correctly rounded reciprocal per lane. -/
  | vrcp (tk : Tok) (d : Reg) (a : Reg) (m : BitVec 2)
  /-- VRSQ (R162): Correctly rounded reciprocal square root per lane. -/
  | vrsq (tk : Tok) (d : Reg) (a : Reg) (m : BitVec 2)
  /-- VSQRT (R162): Correctly rounded square root per lane. -/
  | vsqrt (tk : Tok) (d : Reg) (a : Reg) (m : BitVec 2)
  /-- VCVT (R163): Converts lanes from a source type to the VTYPE type. -/
  | vcvt (tk : Tok) (d : Reg) (a : Reg) (b : Reg) (m : BitVec 2)
  /-- VPACK (R164): Packs 128 FP32 values into a block-scaled format with chosen scales. -/
  | vpack (tk : Tok) (d : Reg) (a : Reg) (b : Reg)
  /-- VUNPK (R165): Unpacks a block-scaled format to FP32. -/
  | vunpk (tk : Tok) (d : Reg) (a : Reg) (b : Reg)
  /-- VPLANE (R166): Converts element-form groups to plane form. -/
  | vplane (tk : Tok) (d : Reg) (a : Reg) (b : Reg)
  /-- VUNPL (R166): Converts plane-form groups to element form. -/
  | vunpl (tk : Tok) (d : Reg) (a : Reg) (b : Reg)
  /-- VRSUM (R167): Fixed-tree sum of the active lanes. -/
  | vrsum (tk : Tok) (d : Reg) (a : Reg) (m : BitVec 2)
  /-- VRMAX (R167): Maximum of the active lanes. -/
  | vrmax (tk : Tok) (d : Reg) (a : Reg) (m : BitVec 2)
  /-- VRMIN (R167): Minimum of the active lanes. -/
  | vrmin (tk : Tok) (d : Reg) (a : Reg) (m : BitVec 2)
  /-- VBSUM (R141): Adds active FP32 lanes into a binned reproducible sum. -/
  | vbsum (tk : Tok) (d : Reg) (a : Reg) (m : BitVec 2)
  /-- VBFIN (R142): Rounds a binned sum once to FP32. -/
  | vbfin (tk : Tok) (d : Reg) (a : Reg)
  /-- VBCAST (R168): Broadcasts a scalar to every lane. -/
  | vbcast (tk : Tok) (d : Reg) (a : Reg)
  /-- VEXT (R168): Extracts one lane to a scalar register. -/
  | vext (tk : Tok) (d : Reg) (a : Reg) (b : Reg)
  /-- VINS (R168): Inserts a scalar into one lane. -/
  | vins (tk : Tok) (d : Reg) (a : Reg) (b : Reg)
  /-- VSLIDE (R168): Slides lanes by a signed count, filling with 0. -/
  | vslide (tk : Tok) (d : Reg) (a : Reg) (b : Reg) (m : BitVec 2)
  /-- VPERM (R168): Permutes lanes by an index vector. -/
  | vperm (tk : Tok) (d : Reg) (a : Reg) (b : Reg) (m : BitVec 2)
  /-- VLD (R171): Contiguous vector load of 1 to 8 registers from scratchpad. -/
  | vld (tk : Tok) (d : Reg) (a : Reg) (b : Reg) (w : BitVec 2) (m : BitVec 2)
  /-- VST (R172): Contiguous vector store of 1 to 8 registers to scratchpad. -/
  | vst (tk : Tok) (d : Reg) (a : Reg) (b : Reg) (w : BitVec 2) (m : BitVec 2)
  /-- VLDS (R171): Strided vector load. -/
  | vlds (tk : Tok) (d : Reg) (a : Reg) (b : Reg) (m : BitVec 2)
  /-- VSTS (R172): Strided vector store. -/
  | vsts (tk : Tok) (d : Reg) (a : Reg) (b : Reg) (m : BitVec 2)
  /-- VGTH (R171): Indexed vector gather. -/
  | vgth (tk : Tok) (d : Reg) (a : Reg) (b : Reg) (m : BitVec 2)
  /-- VSCT (R172): Indexed vector scatter. -/
  | vsct (tk : Tok) (d : Reg) (a : Reg) (b : Reg) (m : BitVec 2)
  /-- RESULT_LANDING (R50): A fixed-latency result lands in its register and shifts the latches at its slot. -/
  | resultLanding (sid : Nat)
  /-- VARIABLE_LATENCY_WRITE (R52): A global load, peer load, atomic or similar result arrives and is written to its register. -/
  | variableLatencyWrite (sid id : Nat)
  /-- TOKEN_PUSH (R15): A reserved token becomes visible once the instruction's effect is complete and its release at CORE is met. -/
  | tokenPush (cid i : Nat)
  /-- PEER_ACCEPT (R239): A peer operation reaches the target core and is accepted if the target is live, or raises Peer Gone. -/
  | peerAccept (req : Nat)
  /-- PORTER_SECTOR (R223): The Porter performs one 32-byte sector of a copy and decrements the waymark. -/
  | porterSector (cid : Nat) (seq : BitVec 32)
  /-- COMMAND_RETIRE (R108): An asynchronous command retires, applying its semaphore increment and token pushes. -/
  | commandRetire (cid : Nat) (seq : BitVec 32)
  /-- STORE_PERFORM (R303): A store is performed at its line's home slice or at the I/O die. -/
  | storePerform (req : Nat)
  /-- ATOMIC_PERFORM (R307): The home slice performs an atomic read-modify-write. -/
  | atomicPerform (req : Nat)
  /-- L1_FILL (R92): A fill arrives for the L1 and is installed unless a later own store was sent. -/
  | l1Fill (req : Nat)
  /-- TRANSLATION_WALK (R356): A page walk completes, installing a leaf or raising a translation fault. -/
  | translationWalk (sid ctx : Nat) (va : BitVec 64)
  /-- FAULT_ENTRY_POST (R363): A fault entry is written to the die's fault queue and FQTAIL advances, once there is room. -/
  | faultEntryPost (die : Nat)
  /-- RESOLVE_RETRY (R366): Resolves a class 1 entry and its duplicate entries so that the access replays. -/
  | resolveRetry (die : Nat) (seq : BitVec 15)
  /-- RESOLVE_KILL (R366): Resolves an entry by killing its leg and dropping the gang's other entries. -/
  | resolveKill (die : Nat) (seq : BitVec 15)
  /-- RESOLVE_SEAT (R421): Resolves an entry by suppressing the named seat's part, or acts as KILL when no seat is named. -/
  | resolveSeat (die : Nat) (seq : BitVec 15)
  /-- GANG_RESUME (R366): A gang whose entries are all resolved resumes, one gang per arithmetic cycle. -/
  | gangResume (die gang : Nat)
  /-- LEG_END (R68): The leg ends when every stream has performed ENDLEG and every command has retired. -/
  | legEnd (die gang : Nat)
  /-- DISPATCHER_RUN (R346): Once per tick, the dispatcher orders the queue heads and places legs on free rectangles. -/
  | dispatcherRun (die : Nat)
  /-- LEG_START (R349): Once every member has loaded its code image, all streams start together. -/
  | legStart (die gang : Nat)
  /-- CARAVAN_START (R348): When every named die holds a rectangle, IO0 starts all the caravan's gangs. -/
  | caravanStart
  /-- SCHEDULE_COUNTER_TICK (R351): The gang's schedule counter advances after 16 cycles of running time. -/
  | scheduleCounterTick (die gang : Nat)
  /-- DTICK_TICK (R344): The die tick advances every 16 arithmetic cycles. -/
  | dtickTick (die : Nat)
  /-- PTICK_TICK (R466): The package tick advances every 16 arithmetic cycles. -/
  | ptickTick
  /-- STICK_TICK (R401): The Steward tick counter advances every 16 cycles. -/
  | stickTick
  /-- SLOT_COUNTER_ADVANCE (R254): The die's circuit slot counter advances every cycle and wraps at 256. -/
  | slotCounterAdvance (die : Nat)
  /-- PREEMPT_WRITE (R353): A PREEMPT write requests pre-emption of a gang, which parks at safe points. -/
  | preemptWrite (die : Nat) (v : BitVec 64)
  /-- PREEMPT_SAVE (R56): When every stream is parked and every command has retired, the live state is saved and the cores go idle. -/
  | preemptSave (die gang : Nat)
  /-- FORCED_FULL_SAVE (R57): A stream that exceeds 4,096 slots while a pre-emption is pending stops, and the whole state is saved. -/
  | forcedFullSave (die gang : Nat)
  /-- SEND_TABLE_WRITE (R255): A Steward writes a send table, which is accepted only if no segment is used by two circuits. -/
  | sendTableWrite (die core slot : Nat) (v : BitVec 8)
  /-- SEND_TABLE_ACTIVATE (R255): An accepted table takes effect at the next slot 0; a waiting CSND with no slot left raises Slot Unassigned. -/
  | sendTableActivate (die : Nat)
  /-- CIRCUIT_ARRIVAL (R329): A circuit value arrives and enters the receiver's FIFO. -/
  | circuitArrival (die i : Nat)
  /-- CREDIT_RETURN (R330): A credit returned by CRCV arrives at the sender. -/
  | creditReturn (die i : Nat)
  /-- CARVE_WRITE (R265): A write to a slice carve register changes its carved ways, writing back or discarding lines. -/
  | carveWrite (die slice : Nat) (v : BitVec 64)
  /-- FORMAT_WINDOW_WRITE (R267): A checked write to a format window register that first writes back the lines of the old window. -/
  | formatWindowWrite (die n r : Nat) (v : BitVec 64)
  /-- KEY_SLOT_WRITE (R273): A write of an encryption key slot to every vault controller, after write-back of lines under the old key. -/
  | keySlotWrite (die k : Nat) (v : BitVec 512)
  /-- ERRSTAT_WRITE (R261): A write of any value clears the die's Atlas error status. -/
  | errstatWrite (die : Nat) (v : BitVec 64)
  /-- EXSTAT_WRITE (R261): A write of any value clears the execution status. -/
  | exstatWrite (die : Nat) (v : BitVec 64)
  /-- SCRATCHPAD_WINDOW_WRITE (R261): An Atlas write to a core's scratchpad, performed only while the core is idle or frozen. -/
  | scratchpadWindowWrite (cid off : Nat) (v : BitVec 64)
  /-- LQTAIL_WRITE (R344): Advancing LQTAIL pushes a written queue entry, or is ignored when LOG2N is 0. -/
  | lqtailWrite (die q : Nat) (v : BitVec 64)
  /-- LQCTL_WRITE (R343): Writes a queue's enable and size; an invalid LOG2N is ignored. -/
  | lqctlWrite (die q : Nat) (v : BitVec 64)
  /-- REGISTER_WRITE (R261): A Steward or host write to an Atlas register that has no behaviour of its own. -/
  | registerWrite (who : Master) (pa : Nat) (v : BitVec 64)
  /-- LINK_DOWN (R379): A link fails; queued packets are taken back, marked RESENT and re-routed. -/
  | linkDown (die link : Nat)
  /-- LINK_TRAIN (R379): A write of 1 to TRAIN starts training a DOWN link. -/
  | linkTrain (die link : Nat)
  /-- LINK_UP (R379): Training succeeds and both routers start using the link at the same tick. -/
  | linkUp (die link : Nat)
  /-- LINK_TRAIN_TIMEOUT (R379): Training has not succeeded after 1 ms; the failure is recorded and the link returns to DOWN. -/
  | linkTrainTimeout (die link : Nat)
  /-- ROUTER_PACKET (R378): A router receives a packet, checks its sequence window and routes or ejects it. -/
  | routerPacket (i : Nat)
  /-- PACKET_AGE_EXPIRY (R458): A router discards a packet older than 200 µs. -/
  | packetAgeExpiry (i : Nat)
  /-- FLIT_SEND (R452): A sender encrypts and sends a flit, switching to the new key at the switch point. -/
  | flitSend (io link : Nat)
  /-- FLIT_RECEIVE (R453): A receiver accepts a flit in count order, or discards it and sends NAK. -/
  | flitReceive (io link : Nat) (flit : List (BitVec 8))
  /-- NAK_RECEIVE (R454): A sender receives NAK and resends stored flits from the named count. -/
  | nakReceive (io link count : Nat)
  /-- ACK_RECEIVE (R456): A received ACK frees replay entries and may complete a key rollover. -/
  | ackReceive (io link count : Nat)
  /-- SWITCH_WRITE (R455): A SWITCH write arms a key rollover at a switch point. -/
  | switchWrite (io link : Nat) (v : BitVec 64)
  /-- LINK_KEY_WRITE (R455): A write of CURKEY or NEXTKEY of an outward link. -/
  | linkKeyWrite (io link : Nat) (next : Bool) (key : BitVec 256)
  /-- RETRANSMIT_TIMEOUT (R457): A tracked request without a response after 64 µs is resent, or after 8 resends raises Uncorrectable Error. -/
  | retransmitTimeout (req : Nat)
  /-- TRACKED_REQUEST (R458): The home performs a tracked request once, answering duplicates from its record. `v` holds the `n`
  bytes of a write, and an atomic's first operand in its low 64 bits. -/
  | trackedRequest (src seq fn pa n : Nat) (v : BitVec 256) (v2 : BitVec 64)
  /-- TRACKED_RESPONSE (R458): The first response completes a tracked access, and later ones are discarded. -/
  | trackedResponse (req : Nat) (v : BitVec 64)
  /-- FABCFG_WRITE (R448): Writes the package coordinates and shape, ignored while a link is not DOWN. -/
  | fabcfgWrite (v : BitVec 64)
  /-- STEWARD_HALT (R402): A write of HALT = 1 halts a Steward before its next issue. -/
  | stewardHalt (io n : Nat)
  /-- STEWARD_RESUME (R402): A write of HALT = 0 resumes a halted Steward with EIN and DBL cleared. -/
  | stewardResume (io n : Nat)
  /-- DBELL (R463): A doorbell write sets DBVAL and the doorbell event in every Steward. -/
  | dbell (io : Nat) (v : BitVec 64)
  /-- MSIRAISE (R463): A Steward raises MSI-X vector 32 to 63 on the trained host links. -/
  | msiraise (io : Nat) (v : BitVec 64)
  /-- MSIX_UNMASK (R463): Unmasking a vector with its pending bit set sends its message. -/
  | msixUnmask (link vec : Nat)
  /-- CSEM_READ (R465): A read of a free control semaphore grants it to the reading master. -/
  | csemRead (master n : Nat)
  /-- CSEM_WRITE (R465): A write by the owner releases a control semaphore. -/
  | csemWrite (master n : Nat)
  /-- HOST_LINK_RESET (R465): A hot reset, function-level reset or link down releases every semaphore the master holds. -/
  | hostLinkReset (link : Nat)
  /-- HOST_LINK_TRAINED (R461): A host link trains as PCIe or CXL. -/
  | hostLinkTrained (link : Nat) (cxl : Bool)
  /-- HOST_ACCESS (R461): A host read or write through BAR2 or HDM is performed at the home slice. -/
  | hostAccess (link : Nat) (at_ : HostAddress) (n : Nat) (wr : Bool) (v : BitVec 64)
  /-- SNAPSHOT_TRIGGER (R466): SNAPCTL TRIG requests a snapshot, or adds to MISS while one is held. -/
  | snapshotTrigger (src : BitVec 3)
  /-- SNAPSHOT_RELEASE (R466): SNAPCTL REL releases the held snapshot and clears MISS. -/
  | snapshotRelease
  /-- SNAPSHOT_TICK_MATCH (R466): PTICK reaching MATCH triggers a snapshot. -/
  | snapshotTickMatch
  /-- SNAPSHOT_LATCH (R466): At the end of the trigger's tick, every block copies its state into its snapshot registers. -/
  | snapshotLatch
  /-- THERMAL_THROTTLE (R471): Exceeding the power limit or 105 °C inserts idle cycles into the arithmetic clock. -/
  | thermalThrottle (die : Nat)
  /-- THERMAL_TRIP (R471): At 115 °C every die stops, HBM enters self-refresh and the host links go down. -/
  | thermalTrip
  /-- POWER_ON (R468): Steward 0 of IO0 runs the boot ROM, which loads and verifies the Dormos image. -/
  | powerOn
  /-- BOOTGO (R468): A master starts verification of an image written into the staging SRAM. -/
  | bootgo
  /-- REPORTGO (R469): A signed attestation report is produced over a nonce and caller data. -/
  | reportgo
  /-- DIE_JOIN (R404): A JOIN command starts bringing an absent, failed or offline die in. -/
  | dieJoin (die : Nat)
  /-- DIE_JOIN_COMPLETE (R404): Links trained and memory tested; the die becomes ONLINE. -/
  | dieJoinComplete (die : Nat)
  /-- DIE_JOIN_FAIL (R404): A join step fails and the die returns to ABSENT. -/
  | dieJoinFail (die : Nat)
  /-- DIE_LEAVE (R404): A LEAVE command moves an online die to EVACUATING. -/
  | dieLeave (die : Nat)
  /-- DIE_DONE (R405): A DONE command writes back the die's slices and takes its links down; it is ignored while a leg remains. -/
  | dieDone (die : Nat)
  /-- DIE_FAILED (R404): Every link of a die goes DOWN, or its network fails; the die becomes FAILED. -/
  | dieFailed (die : Nat)
  /-- NET_SEND (R460): The network port sends a frame from a descriptor's buffer. -/
  | netSend (io ring : Nat)
  /-- NET_RECEIVE (R460): The network port receives a frame into a descriptor's buffer. -/
  | netReceive (io ring : Nat) (frame : List (BitVec 8))
  /-- STORAGE_READ (R460): The storage port reads NVMe blocks into memory. -/
  | storageRead (io ring : Nat) (data : List (BitVec 8))
  /-- STORAGE_WRITE (R460): The storage port writes memory to NVMe blocks. -/
  | storageWrite (io ring : Nat)
  /-- STORAGE_FLUSH (R460): The storage port issues an NVMe flush. -/
  | storageFlush (io ring : Nat)
  /-- COACH_SUBMISSION (R411): The Coach takes a submission, checks it, writes the TR to both copies and writes the acceptance record. -/
  | coachSubmission
  /-- COACH_BOUNDARY (R415): When a step ends, the Coach commits, applies stop conditions, evicts, completes, admits and launches. -/
  | coachBoundary
  /-- VERDICT_CONCUR (R432): A concurring verdict lets the held step commit. -/
  | verdictConcur (step : BitVec 62)
  /-- VERDICT_DISSENT (R432): A dissent discards and re-runs the step, or on a second dissent marks its requests DIVERGED. -/
  | verdictDissent (step : BitVec 62)
  /-- CMD_EVICT (R420): Evicts a seated request; its REQ operations raise Seat Evicted. -/
  | cmdEvict (slot : Nat)
  /-- CMD_PARK (R419): Parks a seated or queued request, keeping its KV pages. -/
  | cmdPark (slot : Nat)
  /-- CMD_UNPARK (R419): Returns a parked request to QUEUED. -/
  | cmdUnpark (slot : Nat)
  /-- CMD_RELEASE (R419): Returns a diverged request to QUEUED. -/
  | cmdRelease (slot : Nat)
  /-- WARM_RESET (R415): After a warm reset the Coach applies the last complete journal record and discards an incomplete one. -/
  | warmReset
  /-- KV_LEND_REQUEST (R428): A neighbour pool unit receives a borrowing request and lends 64 pages or refuses. -/
  | kvLendRequest (die : Nat)
  /-- KV_LEND_REPLY (R428): The borrower receives a lend or refusal and allocates, asks the next direction, or fails with KV Pool Dry. -/
  | kvLendReply (die : Nat)
  /-- BOUNDS_COMMAND_START (R397): The Bounds engine tests receiver liveness, then writes each face, releases and increments the receiver's semaphore. -/
  | boundsCommandStart (cid : Nat) (seq : BitVec 32)
  /-- GMC_DELIVERY (R399): A multicast sector is written at a live member, released and counted, or the member is skipped. -/
  | gmcDelivery (i : Nat)
  /-- MCAST_GROUP_WRITE (R398): A write of a multicast group entry, completing a generation change only when no old packet is in flight. -/
  | mcastGroupWrite (g r : Nat) (v : BitVec 64)
  /-- REPLAT_RENDEZVOUS (R389): Once every die has issued, the routers compare the participants and look up the schedule slot. -/
  | replatRendezvous (i : Nat)
  /-- REPLAT_STEP (R391): A router performs one schedule step, moving sectors between blocks. -/
  | replatStep (i die : Nat)
  /-- REPLAT_RETIRE (R392): All participants retire together and both generations advance, as a release at PACKAGE. -/
  | replatRetire (i : Nat)
  /-- SCOPE_UPDATE_RETIRE (R295): A scope update retires once no core caches the previous version. -/
  | scopeUpdateRetire (i : Nat)
  /-- PLATW_RETIRE (R387): A Plat update retires once every die's copy holds the new version. -/
  | platwRetire (i : Nat)
  /-- MIG_PAGE_COMPLETE (R332): The Steward writes a migrated page's completion, which may add to SLIP. -/
  | migPageComplete (die i : Nat) (tick : BitVec 48)
  /-- UNCORRECTABLE_ERROR (R367): An uncorrectable error stops the gang, posts 0xF0 and takes the failing unit offline. -/
  | uncorrectableError (cid : Nat) (pa : Nat)
  /-- UE_OUTSIDE_GANG (R368): An uncorrectable error found outside any gang posts an entry and takes its unit offline. -/
  | ueOutsideGang (die : Nat) (pa : Nat)
  /-- SOFT_ERROR_CORRECTED (R367): A soft error that the part corrects is counted in the Atlas and changes no value. -/
  | softErrorCorrected (die : Nat)
  /-- THROTTLING_END (R471): When the power falls back under the PCAP limit and the junction temperature falls below 105 °C, the part stops inserting idle cycles. -/
  | throttlingEnd (die : Nat)
  deriving DecidableEq, Repr

/-- One turn of the model's schedule (log entry 1): a stream issues its next word, or a step of the
part that no word encodes takes place. -/
inductive Turn where
  | issue (sid : Nat)
  | event (e : Instr)
  deriving DecidableEq, Repr, Inhabited

end Sys2Proof
end

