-- ==== Sys2Proof/WellFormed.lean ====
section
/-! DEFINITION. Which instructions are well formed: the encoding rules of R22 to R33 and of the
forms' own descriptions that the word alone decides (R38). What depends on the stream, on VTYPE or on
a register's value is checked when the instruction issues. -/
namespace Sys2Proof

/-- Why a word is no instruction (R38): the check it fails. Every one of them raises Illegal
Encoding (0x01) on the hardware, so which of them is named is the model's own reading aid. -/
inductive Reject where
  | reservedMajor | reservedFunction | nonzeroField | latchDest | nwDest | badGroup | badPair | badQuad
  | badSize | badKind | badImmediate | reservedCsr | badPath | badTile | badOutput | badType | badMaskDest
  | badFormat
  /-- Token bits on a form of the SW stream alone: Illegal Encoding there, and Stream Legality on any other (R38). -/
  | swTokens
  deriving DecidableEq, Repr

/-- A destination field names a register, not a latch (R26). -/
def dst (r : Reg) : Bool := r.toNat < 28
/-- nw = 1 requires d = 0 (R27). -/
def nwOk (nw : BitVec 1) (d : Reg) : Bool := nw == 0#1 || d == 0#5
/-- An aligned pair (R31). -/
def pair (r : Reg) : Bool := r.toNat % 2 == 0 && r.toNat ≤ 26
/-- An aligned quad (R31, R33). -/
def quad (r : Reg) : Bool := r.toNat % 4 == 0 && r.toNat ≤ 24
/-- The register groups of the width field (R31). -/
def group (w : BitVec 2) (r : Reg) : Bool :=
  match w.toNat with
  | 0 => true
  | 1 => pair r
  | 2 => quad r
  | _ => r.toNat % 8 == 0 && r.toNat ≤ 16
/-- Bits of a register field that holds an immediate (R163). -/
def bits5 (b : Reg) (lo n : Nat) : Nat := (b.extractLsb' lo n).toNat

/-- The first of the checks that fails, if one does. -/
def firstFailing : List (Bool × Reject) → Option Reject
  | [] => none
  | (ok, r) :: rest => if ok then firstFailing rest else some r

/-- The check that an instruction fails, or none (R22 to R33, R38). -/
def illFormed (i : Instr) : Option Reject :=
  match i with
  | .nop _ => none
  | .trap _ _ => none
  | .safept _ _ => none
  | .endleg _ => none
  | .waitl _ _ => none
  | .eret => none
  | .wfe => none
  | .tlbi kind r => firstFailing [(kind.toNat ≤ 2, .badKind), (kind != 0#4 || r == 0#5, .nonzeroField)]
  | .ipi _ => none
  | .csrr _ d num => firstFailing [(dst d, .latchDest), (num.toNat < 0x40A, .reservedCsr)]
  | .csrw _ _ num => firstFailing [(num.toNat < 0x40A, .reservedCsr)]
  | .add _ d a b w nw => firstFailing [(nwOk nw d, .nwDest), (dst d, .latchDest), (group w d && group w a && group w b, .badGroup)]
  | .sub _ d a b w nw => firstFailing [(nwOk nw d, .nwDest), (dst d, .latchDest), (group w d && group w a && group w b, .badGroup)]
  | .and _ d a b w nw => firstFailing [(nwOk nw d, .nwDest), (dst d, .latchDest), (group w d && group w a && group w b, .badGroup)]
  | .or _ d a b w nw => firstFailing [(nwOk nw d, .nwDest), (dst d, .latchDest), (group w d && group w a && group w b, .badGroup)]
  | .xor _ d a b w nw => firstFailing [(nwOk nw d, .nwDest), (dst d, .latchDest), (group w d && group w a && group w b, .badGroup)]
  | .andn _ d a b w nw => firstFailing [(nwOk nw d, .nwDest), (dst d, .latchDest), (group w d && group w a && group w b, .badGroup)]
  | .sll _ d _ _ nw => firstFailing [(nwOk nw d, .nwDest), (dst d, .latchDest)]
  | .srl _ d _ _ nw => firstFailing [(nwOk nw d, .nwDest), (dst d, .latchDest)]
  | .sra _ d _ _ nw => firstFailing [(nwOk nw d, .nwDest), (dst d, .latchDest)]
  | .slt _ d _ _ nw => firstFailing [(nwOk nw d, .nwDest), (dst d, .latchDest)]
  | .sltu _ d _ _ nw => firstFailing [(nwOk nw d, .nwDest), (dst d, .latchDest)]
  | .min _ d _ _ nw => firstFailing [(nwOk nw d, .nwDest), (dst d, .latchDest)]
  | .max _ d _ _ nw => firstFailing [(nwOk nw d, .nwDest), (dst d, .latchDest)]
  | .minu _ d _ _ nw => firstFailing [(nwOk nw d, .nwDest), (dst d, .latchDest)]
  | .maxu _ d _ _ nw => firstFailing [(nwOk nw d, .nwDest), (dst d, .latchDest)]
  | .rotr _ d _ _ nw => firstFailing [(nwOk nw d, .nwDest), (dst d, .latchDest)]
  | .mul _ d _ _ nw => firstFailing [(nwOk nw d, .nwDest), (dst d, .latchDest)]
  | .mulh _ d _ _ nw => firstFailing [(nwOk nw d, .nwDest), (dst d, .latchDest)]
  | .mulhu _ d _ _ nw => firstFailing [(nwOk nw d, .nwDest), (dst d, .latchDest)]
  | .madd _ d _ _ nw => firstFailing [(nwOk nw d, .nwDest), (dst d, .latchDest)]
  | .div _ d _ _ nw => firstFailing [(nwOk nw d, .nwDest), (dst d, .latchDest)]
  | .divu _ d _ _ nw => firstFailing [(nwOk nw d, .nwDest), (dst d, .latchDest)]
  | .rem _ d _ _ nw => firstFailing [(nwOk nw d, .nwDest), (dst d, .latchDest)]
  | .remu _ d _ _ nw => firstFailing [(nwOk nw d, .nwDest), (dst d, .latchDest)]
  | .clz _ d _ nw => firstFailing [(nwOk nw d, .nwDest), (dst d, .latchDest)]
  | .ctz _ d _ nw => firstFailing [(nwOk nw d, .nwDest), (dst d, .latchDest)]
  | .popc _ d _ nw => firstFailing [(nwOk nw d, .nwDest), (dst d, .latchDest)]
  | .brev _ d _ nw => firstFailing [(nwOk nw d, .nwDest), (dst d, .latchDest)]
  | .bswp _ d _ nw => firstFailing [(nwOk nw d, .nwDest), (dst d, .latchDest)]
  | .selz _ d _ _ nw => firstFailing [(nwOk nw d, .nwDest), (dst d, .latchDest)]
  | .addi _ d _ _ => firstFailing [(dst d, .latchDest)]
  | .andi _ d _ _ => firstFailing [(dst d, .latchDest)]
  | .ori _ d _ _ => firstFailing [(dst d, .latchDest)]
  | .xori _ d _ _ => firstFailing [(dst d, .latchDest)]
  | .slti _ d _ _ => firstFailing [(dst d, .latchDest)]
  | .sltiu _ d _ _ => firstFailing [(dst d, .latchDest)]
  | .slli _ d _ _ => firstFailing [(dst d, .latchDest)]
  | .srli _ d _ _ => firstFailing [(dst d, .latchDest)]
  | .srai _ d _ _ => firstFailing [(dst d, .latchDest)]
  | .lhi _ d _ => firstFailing [(dst d, .latchDest)]
  | .lsi _ d _ => firstFailing [(dst d, .latchDest)]
  | .lpc _ d _ => firstFailing [(dst d, .latchDest)]
  | .beq _ _ _ _ => none
  | .bne _ _ _ _ => none
  | .blt _ _ _ _ => none
  | .bge _ _ _ _ => none
  | .bltu _ _ _ _ => none
  | .bgeu _ _ _ _ => none
  | .bset _ _ _ _ => none
  | .bclr _ _ _ _ => none
  | .j _ _ => none
  | .jl _ _ => none
  | .jr _ _ _ => none
  | .loop _ _ imm => firstFailing [(1 ≤ imm.toNat && imm.toNat ≤ 2047, .badImmediate)]
  | .ld _ d _ _ _ => firstFailing [(dst d, .latchDest)]
  | .ldu _ d _ _ _ => firstFailing [(dst d, .latchDest)]
  | .st _ _ _ _ _ => none
  | .spld _ d _ _ _ => firstFailing [(dst d, .latchDest)]
  | .spldu _ d _ _ _ => firstFailing [(dst d, .latchDest)]
  | .spst _ _ _ _ _ => none
  | .aadd _ _ b _ sz => firstFailing [(sz.toNat ≤ 1, .badSize), (dst b, .latchDest)]
  | .aswp _ _ b _ sz => firstFailing [(sz.toNat ≤ 1, .badSize), (dst b, .latchDest)]
  | .acas _ _ b _ sz => firstFailing [(sz.toNat ≤ 1, .badSize), (pair b, .badPair)]
  | .aand _ _ b _ sz => firstFailing [(sz.toNat ≤ 1, .badSize), (dst b, .latchDest)]
  | .aor _ _ b _ sz => firstFailing [(sz.toNat ≤ 1, .badSize), (dst b, .latchDest)]
  | .axor _ _ b _ sz => firstFailing [(sz.toNat ≤ 1, .badSize), (dst b, .latchDest)]
  | .amax _ _ b _ sz => firstFailing [(sz.toNat ≤ 1, .badSize), (dst b, .latchDest)]
  | .amin _ _ b _ sz => firstFailing [(sz.toNat ≤ 1, .badSize), (dst b, .latchDest)]
  | .amaxu _ _ b _ sz => firstFailing [(sz.toNat ≤ 1, .badSize), (dst b, .latchDest)]
  | .aminu _ _ b _ sz => firstFailing [(sz.toNat ≤ 1, .badSize), (dst b, .latchDest)]
  | .aincw _ _ b _ sz => firstFailing [(sz.toNat ≤ 1, .badSize), (dst b, .latchDest)]
  | .afab _ _ b _ sz => firstFailing [(sz.toNat ≤ 1, .badSize), (pair b, .badPair)]
  | .dacc _ _ _ _ => none
  | .drd _ _ b _ => firstFailing [(dst b, .latchDest)]
  | .dclr _ _ b _ => firstFailing [(dst b, .latchDest)]
  | .fenceAcq _ _ => none
  | .fenceRel _ _ => none
  | .fenceAr _ _ => none
  | .fenceSc _ _ => none
  | .fenceBw _ _ => none
  | .fenceBr _ _ => none
  | .sinc _ _ _ _ => none
  | .sacq _ _ _ => none
  | .swait _ _ _ => none
  | .sset _ _ _ => none
  | .srd _ _ a _ => firstFailing [(dst a, .latchDest)]
  | .sincw _ _ a _ => firstFailing [(dst a, .latchDest)]
  | .sfab _ _ a _ => firstFailing [(pair a, .badPair)]
  | .rcfg _ _ _ => none
  | .rclaim _ _ d => firstFailing [(dst d, .latchDest)]
  | .rpub _ _ _ => none
  | .rwaitf _ _ d => firstFailing [(dst d, .latchDest)]
  | .rfree _ _ => none
  | .rwaite _ _ => none
  | .rpopo _ _ d => firstFailing [(pair d, .badPair)]
  | .rsteal _ _ d _ => firstFailing [(pair d, .badPair)]
  | .rstat _ _ d _ => firstFailing [(dst d, .latchDest)]
  | .wminit _ _ _ _ => none
  | .wmarrive _ _ => none
  | .wmexpect _ _ _ => none
  | .wmwait _ _ _ => none
  | .wmtest _ d _ => firstFailing [(dst d, .latchDest)]
  | .cpy _ _ _ b _ => firstFailing [(quad b, .badQuad)]
  | .tld _ _ _ b _ => firstFailing [(quad b, .badQuad)]
  | .tst _ _ _ b _ => firstFailing [(quad b, .badQuad)]
  | .tldm _ _ _ b _ => firstFailing [(quad b, .badQuad)]
  | .pft _ _ b k => firstFailing [(quad b, .badQuad), (k == 0#2 || k == 2#2, .badKind)]
  | .mig _ _ b k => firstFailing [(quad b, .badQuad), (k == 0#2 || k == 2#2, .badKind)]
  | .waitseq _ _ => none
  | .pred _ a b bv av => firstFailing [((av == 1#1 || a == 0#5) && (bv == 1#1 || b == 0#5), .nonzeroField)]
  | .drain _ p => firstFailing [(p.toNat ≤ 4, .badPath)]
  | .spawn _ _ => none
  | .joinw _ d _ => firstFailing [(dst d, .latchDest)]
  | .gsync _ _ => none
  | .cbar _ _ => none
  | .scpw _ d _ _ => firstFailing [(dst d, .latchDest)]
  | .scpr _ d _ _ => firstFailing [(dst d, .latchDest)]
  | .scpinv _ d _ => firstFailing [(dst d, .latchDest)]
  | .bcfg _ _ _ => none
  | .bgemv _ b => firstFailing [(quad b, .badQuad)]
  | .bgemva _ b => firstFailing [(quad b, .badQuad)]
  | .csnd _ _ _ => none
  | .crcv _ d _ => firstFailing [(dst d, .latchDest)]
  | .platr _ d _ _ => firstFailing [(dst d, .latchDest)]
  | .platw _ d _ _ => firstFailing [(dst d, .latchDest)]
  | .replat _ _ _ => none
  | .bndcfg _ _ _ => none
  | .bndx _ _ _ => none
  | .gmc _ _ b => firstFailing [(quad b, .badQuad)]
  | .seatmap _ _ => none
  | .trld _ d _ _ => firstFailing [(dst d, .latchDest)]
  | .trset _ _ _ => none
  | .stepend _ _ => none
  | .kvmap _ d _ => firstFailing [(pair d, .badPair)]
  | .kvapp _ b => firstFailing [(quad b, .badQuad)]
  | .digest _ _ _ => none
  | .mcfg _ t _ _ => firstFailing [(t.toNat ≤ 3, .badTile)]
  | .mdat _ t _ => firstFailing [(t.toNat ≤ 3, .badTile)]
  | .mclr _ t _ => firstFailing [(t.toNat ≤ 3, .badTile)]
  | .mma _ t a b scl _ => firstFailing [(t.toNat ≤ 3, .badTile), (scl == 0#1 || (pair a && pair b), .badPair)]
  | .mmaz _ t a b scl _ => firstFailing [(t.toNat ≤ 3, .badTile), (scl == 0#1 || (pair a && pair b), .badPair)]
  | .mmas _ t a b scl _ => firstFailing [(t.toNat ≤ 3, .badTile), (scl == 0#1 || (pair a && pair b), .badPair)]
  | .matt _ t b _ => firstFailing [(t.toNat ≤ 3, .badTile), (quad b, .badQuad), (2 ≤ t.toNat, .badTile)]
  | .msmx _ t _ => firstFailing [(t.toNat ≤ 3, .badTile), (2 ≤ t.toNat, .badTile)]
  | .mrd _ t _ out norm => firstFailing [(t.toNat ≤ 3, .badTile), (out.toNat ≤ 7, .badOutput), (norm == 0#1 || (2 ≤ t.toNat && out != 7#5), .badTile)]
  | .macc _ t a => firstFailing [(t.toNat ≤ 3, .badTile), (a.toNat ≤ 3, .badTile)]
  | .mstat _ t _ => firstFailing [(t.toNat ≤ 3, .badTile)]
  | .vcfg _ _ _ ty => firstFailing [(ty.toNat ≤ 6, .badType)]
  | .vadd _ d _ _ _ => firstFailing [(dst d, .latchDest)]
  | .vsub _ d _ _ _ => firstFailing [(dst d, .latchDest)]
  | .vmul _ d _ _ _ => firstFailing [(dst d, .latchDest)]
  | .vmac _ d _ _ _ => firstFailing [(dst d, .latchDest)]
  | .vmin _ d _ _ _ => firstFailing [(dst d, .latchDest)]
  | .vmax _ d _ _ _ => firstFailing [(dst d, .latchDest)]
  | .vadds _ d _ _ _ => firstFailing [(dst d, .latchDest)]
  | .vabs _ d _ _ => firstFailing [(dst d, .latchDest)]
  | .vand _ d _ _ _ => firstFailing [(dst d, .latchDest)]
  | .vor _ d _ _ _ => firstFailing [(dst d, .latchDest)]
  | .vxor _ d _ _ _ => firstFailing [(dst d, .latchDest)]
  | .vshl _ d _ _ _ => firstFailing [(dst d, .latchDest)]
  | .vshr _ d _ _ _ => firstFailing [(dst d, .latchDest)]
  | .vsra _ d _ _ _ => firstFailing [(dst d, .latchDest)]
  | .vneg _ d _ _ => firstFailing [(dst d, .latchDest)]
  | .vsel _ d _ _ _ => firstFailing [(dst d, .latchDest)]
  | .vcmpeq _ d _ _ _ => firstFailing [(1 ≤ d.toNat && d.toNat ≤ 3, .badMaskDest)]
  | .vcmpne _ d _ _ _ => firstFailing [(1 ≤ d.toNat && d.toNat ≤ 3, .badMaskDest)]
  | .vcmplt _ d _ _ _ => firstFailing [(1 ≤ d.toNat && d.toNat ≤ 3, .badMaskDest)]
  | .vcmple _ d _ _ _ => firstFailing [(1 ≤ d.toNat && d.toNat ≤ 3, .badMaskDest)]
  | .vmsk _ d _ => firstFailing [(1 ≤ d.toNat && d.toNat ≤ 3, .badMaskDest)]
  | .vexp2 _ d _ _ => firstFailing [(dst d, .latchDest)]
  | .vlog2 _ d _ _ => firstFailing [(dst d, .latchDest)]
  | .vrcp _ d _ _ => firstFailing [(dst d, .latchDest)]
  | .vrsq _ d _ _ => firstFailing [(dst d, .latchDest)]
  | .vsqrt _ d _ _ => firstFailing [(dst d, .latchDest)]
  | .vcvt _ d _ b _ => firstFailing [(dst d, .latchDest), (bits5 b 0 3 != 7, .badType)]
  | .vpack _ d a b => firstFailing [(pair d && pair a, .badPair), (0x11 ≤ b.toNat && b.toNat ≤ 0x1B, .badFormat)]
  | .vunpk _ d a b => firstFailing [(pair d && pair a, .badPair), (0x11 ≤ b.toNat && b.toNat ≤ 0x1B, .badFormat)]
  | .vplane _ d _ b => firstFailing [(dst d, .latchDest), (b.toNat ≤ 0x1B, .badFormat)]
  | .vunpl _ d _ b => firstFailing [(dst d, .latchDest), (b.toNat ≤ 0x1B, .badFormat)]
  | .vrsum _ d _ _ => firstFailing [(dst d, .latchDest)]
  | .vrmax _ d _ _ => firstFailing [(dst d, .latchDest)]
  | .vrmin _ d _ _ => firstFailing [(dst d, .latchDest)]
  | .vbsum _ d _ _ => firstFailing [(dst d, .latchDest)]
  | .vbfin _ d _ => firstFailing [(dst d, .latchDest)]
  | .vbcast _ d _ => firstFailing [(dst d, .latchDest)]
  | .vext _ d _ _ => firstFailing [(dst d, .latchDest)]
  | .vins _ d _ _ => firstFailing [(dst d, .latchDest)]
  | .vslide _ d _ _ _ => firstFailing [(dst d, .latchDest)]
  | .vperm _ d _ _ _ => firstFailing [(dst d, .latchDest)]
  | .vld _ d _ _ w _ => firstFailing [(dst d, .latchDest), (group w d, .badGroup)]
  | .vst _ d _ _ w _ => firstFailing [(group w d, .badGroup)]
  | .vlds _ d _ _ _ => firstFailing [(dst d, .latchDest)]
  | .vsts _ _ _ _ _ => none
  | .vgth _ d _ _ _ => firstFailing [(dst d, .latchDest)]
  | .vsct _ _ _ _ _ => none
  | .resultLanding _ => none
  | .variableLatencyWrite _ _ => none
  | .tokenPush _ _ => none
  | .peerAccept _ => none
  | .porterSector _ _ => none
  | .commandRetire _ _ => none
  | .storePerform _ => none
  | .atomicPerform _ => none
  | .l1Fill _ => none
  | .translationWalk _ _ _ => none
  | .faultEntryPost _ => none
  | .resolveRetry _ _ => none
  | .resolveKill _ _ => none
  | .resolveSeat _ _ => none
  | .gangResume _ _ => none
  | .legEnd _ _ => none
  | .dispatcherRun _ => none
  | .legStart _ _ => none
  | .caravanStart => none
  | .scheduleCounterTick _ _ => none
  | .dtickTick _ => none
  | .ptickTick => none
  | .stickTick => none
  | .slotCounterAdvance _ => none
  | .preemptWrite _ _ => none
  | .preemptSave _ _ => none
  | .forcedFullSave _ _ => none
  | .sendTableWrite _ _ _ _ => none
  | .sendTableActivate _ => none
  | .circuitArrival _ _ => none
  | .creditReturn _ _ => none
  | .carveWrite _ _ _ => none
  | .formatWindowWrite _ _ _ _ => none
  | .keySlotWrite _ _ _ => none
  | .errstatWrite _ _ => none
  | .exstatWrite _ _ => none
  | .scratchpadWindowWrite _ _ _ => none
  | .lqtailWrite _ _ _ => none
  | .lqctlWrite _ _ _ => none
  | .registerWrite _ _ _ => none
  | .linkDown _ _ => none
  | .linkTrain _ _ => none
  | .linkUp _ _ => none
  | .linkTrainTimeout _ _ => none
  | .routerPacket _ => none
  | .packetAgeExpiry _ => none
  | .flitSend _ _ => none
  | .flitReceive _ _ _ => none
  | .nakReceive _ _ _ => none
  | .ackReceive _ _ _ => none
  | .switchWrite _ _ _ => none
  | .linkKeyWrite _ _ _ _ => none
  | .retransmitTimeout _ => none
  | .trackedRequest _ _ _ _ _ _ _ => none
  | .trackedResponse _ _ => none
  | .fabcfgWrite _ => none
  | .stewardHalt _ _ => none
  | .stewardResume _ _ => none
  | .dbell _ _ => none
  | .msiraise _ _ => none
  | .msixUnmask _ _ => none
  | .csemRead _ _ => none
  | .csemWrite _ _ => none
  | .hostLinkReset _ => none
  | .hostLinkTrained _ _ => none
  | .hostAccess _ _ _ _ _ => none
  | .snapshotTrigger _ => none
  | .snapshotRelease => none
  | .snapshotTickMatch => none
  | .snapshotLatch => none
  | .thermalThrottle _ => none
  | .thermalTrip => none
  | .powerOn => none
  | .bootgo => none
  | .reportgo => none
  | .dieJoin _ => none
  | .dieJoinComplete _ => none
  | .dieJoinFail _ => none
  | .dieLeave _ => none
  | .dieDone _ => none
  | .dieFailed _ => none
  | .netSend _ _ => none
  | .netReceive _ _ _ => none
  | .storageRead _ _ _ => none
  | .storageWrite _ _ => none
  | .storageFlush _ _ => none
  | .coachSubmission => none
  | .coachBoundary => none
  | .verdictConcur _ => none
  | .verdictDissent _ => none
  | .cmdEvict _ => none
  | .cmdPark _ => none
  | .cmdUnpark _ => none
  | .cmdRelease _ => none
  | .warmReset => none
  | .kvLendRequest _ => none
  | .kvLendReply _ => none
  | .boundsCommandStart _ _ => none
  | .gmcDelivery _ => none
  | .mcastGroupWrite _ _ _ => none
  | .replatRendezvous _ => none
  | .replatStep _ _ => none
  | .replatRetire _ => none
  | .scopeUpdateRetire _ => none
  | .platwRetire _ => none
  | .migPageComplete _ _ _ => none
  | .uncorrectableError _ _ => none
  | .ueOutsideGang _ _ => none
  | .softErrorCorrected _ => none
  | .throttlingEnd _ => none

/-- The instruction passes every check of its word (R38). -/
def WellFormed (i : Instr) : Prop := illFormed i = none

end Sys2Proof
end

