-- ==== Sys2Proof/Decode.lean ====
section
/-! DEFINITION. Decoding a word (R11, R20 to R38) and, after it, the encoder, from the same tables.
Decoding is total: a word that is no instruction is rejected by the name of the check it fails (R38). -/
namespace Sys2Proof

/-- Bits [lo+n-1 : lo] of a word (R4). -/
def bits (w : IWord) (lo n : Nat) : BitVec n := w.extractLsb' lo n

/-- The instruction, if the bits that its row requires hold what they must; else the rejection. -/
def need (c : Bool) (r : Reject) (i : Instr) : Except Reject Instr :=
  if c then .ok i else .error r

/-- A form of the SW stream alone (R403): its own fields first, then its token bits (R38). -/
def privileged (w : IWord) (c : Bool) (i : Instr) : Except Reject Instr :=
  if !c then .error .nonzeroField
  else match illFormed i with
    | some r => .error r
    | none => need (bits w 28 4 == 0#4) .swTokens i

/-- Major 0x00, selector bits [21:12] (R35). -/
def decodeSys (w : IWord) : Except Reject Instr :=
  match (bits w 12 10).toNat with
  | 0x0 => need (bits w 0 12 == 0#12) .nonzeroField (.nop (bits w 28 4))
  | 0x1 => .ok (.trap (bits w 28 4) (bits w 0 12))
  | 0x2 => .ok (.safept (bits w 28 4) (bits w 0 12))
  | 0x3 => need (bits w 0 12 == 0#12) .nonzeroField (.endleg (bits w 28 4))
  | 0x4 => .ok (.waitl (bits w 28 4) (bits w 0 12))
  | 0x100 => privileged w (bits w 0 12 == 0#12) .eret
  | 0x101 => privileged w (bits w 0 12 == 0#12) .wfe
  | 0x102 => privileged w (bits w 5 3 == 0#3) (.tlbi (bits w 8 4) (bits w 0 5))
  | 0x103 => privileged w (bits w 4 8 == 0#8) (.ipi (bits w 0 4))
  | _ => .error .reservedFunction

/-- Major 0x01, selector bits [21:18] (R35). -/
def decodeSem (w : IWord) : Except Reject Instr :=
  match (bits w 18 4).toNat with
  | 0x0 => need (bits w 0 3 == 0#3) .nonzeroField (.sinc (bits w 28 4) (bits w 13 5) (bits w 8 5) (bits w 3 5))
  | 0x1 => .ok (.sacq (bits w 28 4) (bits w 13 5) (bits w 0 13))
  | 0x2 => .ok (.swait (bits w 28 4) (bits w 13 5) (bits w 0 13))
  | 0x3 => need (bits w 0 8 == 0#8) .nonzeroField (.sset (bits w 28 4) (bits w 13 5) (bits w 8 5))
  | 0x4 => need (bits w 0 3 == 0#3) .nonzeroField (.srd (bits w 28 4) (bits w 13 5) (bits w 8 5) (bits w 3 5))
  | 0x5 => need (bits w 0 3 == 0#3) .nonzeroField (.sincw (bits w 28 4) (bits w 13 5) (bits w 8 5) (bits w 3 5))
  | 0x6 => need (bits w 0 3 == 0#3) .nonzeroField (.sfab (bits w 28 4) (bits w 13 5) (bits w 8 5) (bits w 3 5))
  | _ => .error .reservedFunction

/-- Major 0x02, selector bits [3:0] (R35). -/
def decodeAlu (w : IWord) : Except Reject Instr :=
  match (bits w 0 4).toNat with
  | 0x0 => .ok (.add (bits w 28 4) (bits w 17 5) (bits w 12 5) (bits w 7 5) (bits w 5 2) (bits w 4 1))
  | 0x1 => .ok (.sub (bits w 28 4) (bits w 17 5) (bits w 12 5) (bits w 7 5) (bits w 5 2) (bits w 4 1))
  | 0x2 => .ok (.and (bits w 28 4) (bits w 17 5) (bits w 12 5) (bits w 7 5) (bits w 5 2) (bits w 4 1))
  | 0x3 => .ok (.or (bits w 28 4) (bits w 17 5) (bits w 12 5) (bits w 7 5) (bits w 5 2) (bits w 4 1))
  | 0x4 => .ok (.xor (bits w 28 4) (bits w 17 5) (bits w 12 5) (bits w 7 5) (bits w 5 2) (bits w 4 1))
  | 0x5 => .ok (.andn (bits w 28 4) (bits w 17 5) (bits w 12 5) (bits w 7 5) (bits w 5 2) (bits w 4 1))
  | 0x6 => need (bits w 5 2 == 0#2) .nonzeroField (.sll (bits w 28 4) (bits w 17 5) (bits w 12 5) (bits w 7 5) (bits w 4 1))
  | 0x7 => need (bits w 5 2 == 0#2) .nonzeroField (.srl (bits w 28 4) (bits w 17 5) (bits w 12 5) (bits w 7 5) (bits w 4 1))
  | 0x8 => need (bits w 5 2 == 0#2) .nonzeroField (.sra (bits w 28 4) (bits w 17 5) (bits w 12 5) (bits w 7 5) (bits w 4 1))
  | 0x9 => need (bits w 5 2 == 0#2) .nonzeroField (.slt (bits w 28 4) (bits w 17 5) (bits w 12 5) (bits w 7 5) (bits w 4 1))
  | 0xA => need (bits w 5 2 == 0#2) .nonzeroField (.sltu (bits w 28 4) (bits w 17 5) (bits w 12 5) (bits w 7 5) (bits w 4 1))
  | 0xB => need (bits w 5 2 == 0#2) .nonzeroField (.min (bits w 28 4) (bits w 17 5) (bits w 12 5) (bits w 7 5) (bits w 4 1))
  | 0xC => need (bits w 5 2 == 0#2) .nonzeroField (.max (bits w 28 4) (bits w 17 5) (bits w 12 5) (bits w 7 5) (bits w 4 1))
  | 0xD => need (bits w 5 2 == 0#2) .nonzeroField (.minu (bits w 28 4) (bits w 17 5) (bits w 12 5) (bits w 7 5) (bits w 4 1))
  | 0xE => need (bits w 5 2 == 0#2) .nonzeroField (.maxu (bits w 28 4) (bits w 17 5) (bits w 12 5) (bits w 7 5) (bits w 4 1))
  | 0xF => need (bits w 5 2 == 0#2) .nonzeroField (.rotr (bits w 28 4) (bits w 17 5) (bits w 12 5) (bits w 7 5) (bits w 4 1))
  | _ => .error .reservedFunction

/-- Major 0x03, selector bits [3:0] (R35). -/
def decodeAlu2 (w : IWord) : Except Reject Instr :=
  match (bits w 0 4).toNat with
  | 0x0 => need (bits w 5 2 == 0#2) .nonzeroField (.mul (bits w 28 4) (bits w 17 5) (bits w 12 5) (bits w 7 5) (bits w 4 1))
  | 0x1 => need (bits w 5 2 == 0#2) .nonzeroField (.mulh (bits w 28 4) (bits w 17 5) (bits w 12 5) (bits w 7 5) (bits w 4 1))
  | 0x2 => need (bits w 5 2 == 0#2) .nonzeroField (.mulhu (bits w 28 4) (bits w 17 5) (bits w 12 5) (bits w 7 5) (bits w 4 1))
  | 0x3 => need (bits w 5 2 == 0#2) .nonzeroField (.madd (bits w 28 4) (bits w 17 5) (bits w 12 5) (bits w 7 5) (bits w 4 1))
  | 0x4 => need (bits w 5 2 == 0#2) .nonzeroField (.div (bits w 28 4) (bits w 17 5) (bits w 12 5) (bits w 7 5) (bits w 4 1))
  | 0x5 => need (bits w 5 2 == 0#2) .nonzeroField (.divu (bits w 28 4) (bits w 17 5) (bits w 12 5) (bits w 7 5) (bits w 4 1))
  | 0x6 => need (bits w 5 2 == 0#2) .nonzeroField (.rem (bits w 28 4) (bits w 17 5) (bits w 12 5) (bits w 7 5) (bits w 4 1))
  | 0x7 => need (bits w 5 2 == 0#2) .nonzeroField (.remu (bits w 28 4) (bits w 17 5) (bits w 12 5) (bits w 7 5) (bits w 4 1))
  | 0x8 => need (bits w 5 7 == 0#7) .nonzeroField (.clz (bits w 28 4) (bits w 17 5) (bits w 12 5) (bits w 4 1))
  | 0x9 => need (bits w 5 7 == 0#7) .nonzeroField (.ctz (bits w 28 4) (bits w 17 5) (bits w 12 5) (bits w 4 1))
  | 0xA => need (bits w 5 7 == 0#7) .nonzeroField (.popc (bits w 28 4) (bits w 17 5) (bits w 12 5) (bits w 4 1))
  | 0xB => need (bits w 5 7 == 0#7) .nonzeroField (.brev (bits w 28 4) (bits w 17 5) (bits w 12 5) (bits w 4 1))
  | 0xC => need (bits w 5 7 == 0#7) .nonzeroField (.bswp (bits w 28 4) (bits w 17 5) (bits w 12 5) (bits w 4 1))
  | 0xD => need (bits w 5 2 == 0#2) .nonzeroField (.selz (bits w 28 4) (bits w 17 5) (bits w 12 5) (bits w 7 5) (bits w 4 1))
  | _ => .error .reservedFunction

/-- Major 0x0A, selector bits [11:10] (R35). -/
def decodeShi (w : IWord) : Except Reject Instr :=
  match (bits w 10 2).toNat with
  | 0x0 => need (bits w 6 4 == 0#4) .nonzeroField (.slli (bits w 28 4) (bits w 17 5) (bits w 12 5) (bits w 0 6))
  | 0x1 => need (bits w 6 4 == 0#4) .nonzeroField (.srli (bits w 28 4) (bits w 17 5) (bits w 12 5) (bits w 0 6))
  | 0x2 => need (bits w 6 4 == 0#4) .nonzeroField (.srai (bits w 28 4) (bits w 17 5) (bits w 12 5) (bits w 0 6))
  | _ => .error .reservedFunction

/-- Major 0x0E, selector bits [21:19] (R35). -/
def decodeBr (w : IWord) : Except Reject Instr :=
  match (bits w 19 3).toNat with
  | 0x0 => .ok (.beq (bits w 28 4) (bits w 14 5) (bits w 9 5) (bits w 0 9))
  | 0x1 => .ok (.bne (bits w 28 4) (bits w 14 5) (bits w 9 5) (bits w 0 9))
  | 0x2 => .ok (.blt (bits w 28 4) (bits w 14 5) (bits w 9 5) (bits w 0 9))
  | 0x3 => .ok (.bge (bits w 28 4) (bits w 14 5) (bits w 9 5) (bits w 0 9))
  | 0x4 => .ok (.bltu (bits w 28 4) (bits w 14 5) (bits w 9 5) (bits w 0 9))
  | 0x5 => .ok (.bgeu (bits w 28 4) (bits w 14 5) (bits w 9 5) (bits w 0 9))
  | 0x6 => .ok (.bset (bits w 28 4) (bits w 14 5) (bits w 9 5) (bits w 0 9))
  | 0x7 => .ok (.bclr (bits w 28 4) (bits w 14 5) (bits w 9 5) (bits w 0 9))
  | _ => .error .reservedFunction

/-- Major 0x13, selector bits [11:11] (R35). -/
def decodeCsr (w : IWord) : Except Reject Instr :=
  match (bits w 11 1).toNat with
  | 0x0 => need (bits w 12 5 == 0#5) .nonzeroField (.csrr (bits w 28 4) (bits w 17 5) (bits w 0 11))
  | 0x1 => need (bits w 17 5 == 0#5) .nonzeroField (.csrw (bits w 28 4) (bits w 12 5) (bits w 0 11))
  | _ => .error .reservedFunction

/-- Major 0x1A, selector bits [21:18] (R35). -/
def decodeAtom (w : IWord) : Except Reject Instr :=
  match (bits w 18 4).toNat with
  | 0x0 => .ok (.aadd (bits w 28 4) (bits w 13 5) (bits w 8 5) (bits w 2 6) (bits w 0 2))
  | 0x1 => .ok (.aswp (bits w 28 4) (bits w 13 5) (bits w 8 5) (bits w 2 6) (bits w 0 2))
  | 0x2 => .ok (.acas (bits w 28 4) (bits w 13 5) (bits w 8 5) (bits w 2 6) (bits w 0 2))
  | 0x3 => .ok (.aand (bits w 28 4) (bits w 13 5) (bits w 8 5) (bits w 2 6) (bits w 0 2))
  | 0x4 => .ok (.aor (bits w 28 4) (bits w 13 5) (bits w 8 5) (bits w 2 6) (bits w 0 2))
  | 0x5 => .ok (.axor (bits w 28 4) (bits w 13 5) (bits w 8 5) (bits w 2 6) (bits w 0 2))
  | 0x6 => .ok (.amax (bits w 28 4) (bits w 13 5) (bits w 8 5) (bits w 2 6) (bits w 0 2))
  | 0x7 => .ok (.amin (bits w 28 4) (bits w 13 5) (bits w 8 5) (bits w 2 6) (bits w 0 2))
  | 0x8 => .ok (.amaxu (bits w 28 4) (bits w 13 5) (bits w 8 5) (bits w 2 6) (bits w 0 2))
  | 0x9 => .ok (.aminu (bits w 28 4) (bits w 13 5) (bits w 8 5) (bits w 2 6) (bits w 0 2))
  | 0xA => .ok (.aincw (bits w 28 4) (bits w 13 5) (bits w 8 5) (bits w 2 6) (bits w 0 2))
  | 0xB => .ok (.afab (bits w 28 4) (bits w 13 5) (bits w 8 5) (bits w 2 6) (bits w 0 2))
  | 0xC => need (bits w 0 2 == 1#2) .badSize (.dacc (bits w 28 4) (bits w 13 5) (bits w 8 5) (bits w 2 6))
  | 0xD => need (bits w 0 2 == 1#2) .badSize (.drd (bits w 28 4) (bits w 13 5) (bits w 8 5) (bits w 2 6))
  | 0xE => need (bits w 0 2 == 1#2) .badSize (.dclr (bits w 28 4) (bits w 13 5) (bits w 8 5) (bits w 2 6))
  | _ => .error .reservedFunction

/-- Major 0x1B, selector bits [21:18] (R35). -/
def decodeFence (w : IWord) : Except Reject Instr :=
  match (bits w 18 4).toNat with
  | 0x0 => need (bits w 0 12 == 0#12) .nonzeroField (.fenceAcq (bits w 28 4) (bits w 12 6))
  | 0x1 => need (bits w 0 12 == 0#12) .nonzeroField (.fenceRel (bits w 28 4) (bits w 12 6))
  | 0x2 => need (bits w 0 12 == 0#12) .nonzeroField (.fenceAr (bits w 28 4) (bits w 12 6))
  | 0x3 => need (bits w 0 12 == 0#12) .nonzeroField (.fenceSc (bits w 28 4) (bits w 12 6))
  | 0x4 => need (bits w 0 12 == 0#12) .nonzeroField (.fenceBw (bits w 28 4) (bits w 12 6))
  | 0x5 => need (bits w 0 12 == 0#12) .nonzeroField (.fenceBr (bits w 28 4) (bits w 12 6))
  | _ => .error .reservedFunction

/-- Major 0x1C, selector bits [21:18] (R35). -/
def decodeRing (w : IWord) : Except Reject Instr :=
  match (bits w 18 4).toNat with
  | 0x0 => need (bits w 10 5 == 0#5 && bits w 0 5 == 0#5) .nonzeroField (.rcfg (bits w 28 4) (bits w 15 3) (bits w 5 5))
  | 0x1 => need (bits w 0 10 == 0#10) .nonzeroField (.rclaim (bits w 28 4) (bits w 15 3) (bits w 10 5))
  | 0x2 => need (bits w 10 5 == 0#5 && bits w 0 5 == 0#5) .nonzeroField (.rpub (bits w 28 4) (bits w 15 3) (bits w 5 5))
  | 0x3 => need (bits w 0 10 == 0#10) .nonzeroField (.rwaitf (bits w 28 4) (bits w 15 3) (bits w 10 5))
  | 0x4 => need (bits w 0 15 == 0#15) .nonzeroField (.rfree (bits w 28 4) (bits w 15 3))
  | 0x5 => need (bits w 0 15 == 0#15) .nonzeroField (.rwaite (bits w 28 4) (bits w 15 3))
  | 0x6 => need (bits w 0 10 == 0#10) .nonzeroField (.rpopo (bits w 28 4) (bits w 15 3) (bits w 10 5))
  | 0x7 => need (bits w 5 5 == 0#5) .nonzeroField (.rsteal (bits w 28 4) (bits w 15 3) (bits w 10 5) (bits w 0 5))
  | 0x8 => need (bits w 5 5 == 0#5) .nonzeroField (.rstat (bits w 28 4) (bits w 15 3) (bits w 10 5) (bits w 0 5))
  | _ => .error .reservedFunction

/-- Major 0x1D, selector bits [3:0] (R35). -/
def decodeWmk (w : IWord) : Except Reject Instr :=
  match (bits w 0 4).toNat with
  | 0x0 => need (bits w 4 3 == 0#3) .nonzeroField (.wminit (bits w 28 4) (bits w 17 5) (bits w 12 5) (bits w 7 5))
  | 0x1 => need (bits w 17 5 == 0#5 && bits w 4 8 == 0#8) .nonzeroField (.wmarrive (bits w 28 4) (bits w 12 5))
  | 0x2 => need (bits w 17 5 == 0#5 && bits w 4 3 == 0#3) .nonzeroField (.wmexpect (bits w 28 4) (bits w 12 5) (bits w 7 5))
  | 0x3 => need (bits w 17 5 == 0#5 && bits w 4 3 == 0#3) .nonzeroField (.wmwait (bits w 28 4) (bits w 12 5) (bits w 7 5))
  | 0x4 => need (bits w 4 8 == 0#8) .nonzeroField (.wmtest (bits w 28 4) (bits w 17 5) (bits w 12 5))
  | _ => .error .reservedFunction

/-- Major 0x1E, selector bits [6:4] (R35). -/
def decodeAsync (w : IWord) : Except Reject Instr :=
  match (bits w 4 3).toNat with
  | 0x0 => need (bits w 0 2 == 0#2) .nonzeroField (.cpy (bits w 28 4) (bits w 17 5) (bits w 12 5) (bits w 7 5) (bits w 2 2))
  | 0x1 => need (bits w 0 2 == 0#2) .nonzeroField (.tld (bits w 28 4) (bits w 17 5) (bits w 12 5) (bits w 7 5) (bits w 2 2))
  | 0x2 => need (bits w 0 2 == 0#2) .nonzeroField (.tst (bits w 28 4) (bits w 17 5) (bits w 12 5) (bits w 7 5) (bits w 2 2))
  | 0x3 => need (bits w 0 2 == 0#2) .nonzeroField (.tldm (bits w 28 4) (bits w 17 5) (bits w 12 5) (bits w 7 5) (bits w 2 2))
  | 0x4 => need (bits w 17 5 == 0#5 && bits w 0 2 == 0#2) .nonzeroField (.pft (bits w 28 4) (bits w 12 5) (bits w 7 5) (bits w 2 2))
  | 0x5 => need (bits w 17 5 == 0#5 && bits w 0 2 == 0#2) .nonzeroField (.mig (bits w 28 4) (bits w 12 5) (bits w 7 5) (bits w 2 2))
  | _ => .error .reservedFunction

/-- Major 0x1F, selector bits [3:0] (R35). -/
def decodeCtl (w : IWord) : Except Reject Instr :=
  match (bits w 0 4).toNat with
  | 0x0 => need (bits w 17 5 == 0#5 && bits w 4 8 == 0#8) .nonzeroField (.waitseq (bits w 28 4) (bits w 12 5))
  | 0x1 => need (bits w 17 5 == 0#5 && bits w 6 1 == 0#1) .nonzeroField (.pred (bits w 28 4) (bits w 12 5) (bits w 7 5) (bits w 5 1) (bits w 4 1))
  | 0x2 => need (bits w 7 15 == 0#15) .nonzeroField (.drain (bits w 28 4) (bits w 4 3))
  | 0x3 => need (bits w 17 5 == 0#5 && bits w 4 8 == 0#8) .nonzeroField (.spawn (bits w 28 4) (bits w 12 5))
  | 0x4 => need (bits w 4 8 == 0#8) .nonzeroField (.joinw (bits w 28 4) (bits w 17 5) (bits w 12 5))
  | 0x5 => need (bits w 17 5 == 0#5 && bits w 4 8 == 0#8) .nonzeroField (.gsync (bits w 28 4) (bits w 12 5))
  | 0x6 => need (bits w 6 16 == 0#16) .nonzeroField (.cbar (bits w 28 4) (bits w 4 2))
  | _ => .error .reservedFunction

/-- Major 0x20, selector bits [3:0] (R35). -/
def decodeScope (w : IWord) : Except Reject Instr :=
  match (bits w 0 4).toNat with
  | 0x0 => need (bits w 4 3 == 0#3) .nonzeroField (.scpw (bits w 28 4) (bits w 17 5) (bits w 12 5) (bits w 7 5))
  | 0x1 => need (bits w 4 3 == 0#3) .nonzeroField (.scpr (bits w 28 4) (bits w 17 5) (bits w 12 5) (bits w 7 5))
  | 0x2 => need (bits w 4 8 == 0#8) .nonzeroField (.scpinv (bits w 28 4) (bits w 17 5) (bits w 12 5))
  | _ => .error .reservedFunction

/-- Major 0x21, selector bits [3:0] (R35). -/
def decodeBank (w : IWord) : Except Reject Instr :=
  match (bits w 0 4).toNat with
  | 0x0 => need (bits w 17 5 == 0#5 && bits w 4 3 == 0#3) .nonzeroField (.bcfg (bits w 28 4) (bits w 12 5) (bits w 7 5))
  | 0x1 => need (bits w 12 10 == 0#10 && bits w 4 3 == 0#3) .nonzeroField (.bgemv (bits w 28 4) (bits w 7 5))
  | 0x2 => need (bits w 12 10 == 0#10 && bits w 4 3 == 0#3) .nonzeroField (.bgemva (bits w 28 4) (bits w 7 5))
  | _ => .error .reservedFunction

/-- Major 0x22, selector bits [3:0] (R35). -/
def decodeCirc (w : IWord) : Except Reject Instr :=
  match (bits w 0 4).toNat with
  | 0x0 => need (bits w 17 5 == 0#5 && bits w 4 3 == 0#3) .nonzeroField (.csnd (bits w 28 4) (bits w 12 5) (bits w 7 5))
  | 0x1 => need (bits w 4 8 == 0#8) .nonzeroField (.crcv (bits w 28 4) (bits w 17 5) (bits w 12 5))
  | _ => .error .reservedFunction

/-- Major 0x23, selector bits [3:0] (R35). -/
def decodePkg (w : IWord) : Except Reject Instr :=
  match (bits w 0 4).toNat with
  | 0x0 => need (bits w 4 3 == 0#3) .nonzeroField (.platr (bits w 28 4) (bits w 17 5) (bits w 12 5) (bits w 7 5))
  | 0x1 => need (bits w 4 3 == 0#3) .nonzeroField (.platw (bits w 28 4) (bits w 17 5) (bits w 12 5) (bits w 7 5))
  | 0x2 => need (bits w 17 5 == 0#5 && bits w 4 3 == 0#3) .nonzeroField (.replat (bits w 28 4) (bits w 12 5) (bits w 7 5))
  | 0x3 => need (bits w 17 5 == 0#5 && bits w 4 3 == 0#3) .nonzeroField (.bndcfg (bits w 28 4) (bits w 12 5) (bits w 7 5))
  | 0x4 => need (bits w 17 5 == 0#5 && bits w 4 3 == 0#3) .nonzeroField (.bndx (bits w 28 4) (bits w 12 5) (bits w 7 5))
  | 0x5 => need (bits w 17 5 == 0#5 && bits w 4 3 == 0#3) .nonzeroField (.gmc (bits w 28 4) (bits w 12 5) (bits w 7 5))
  | _ => .error .reservedFunction

/-- Major 0x24, selector bits [3:0] (R35). -/
def decodeReq (w : IWord) : Except Reject Instr :=
  match (bits w 0 4).toNat with
  | 0x0 => need (bits w 17 5 == 0#5 && bits w 4 8 == 0#8) .nonzeroField (.seatmap (bits w 28 4) (bits w 12 5))
  | 0x1 => need (bits w 4 3 == 0#3) .nonzeroField (.trld (bits w 28 4) (bits w 17 5) (bits w 12 5) (bits w 7 5))
  | 0x2 => need (bits w 17 5 == 0#5 && bits w 4 3 == 0#3) .nonzeroField (.trset (bits w 28 4) (bits w 12 5) (bits w 7 5))
  | 0x3 => need (bits w 17 5 == 0#5 && bits w 4 8 == 0#8) .nonzeroField (.stepend (bits w 28 4) (bits w 12 5))
  | 0x4 => need (bits w 4 8 == 0#8) .nonzeroField (.kvmap (bits w 28 4) (bits w 17 5) (bits w 12 5))
  | 0x5 => need (bits w 12 10 == 0#10 && bits w 4 3 == 0#3) .nonzeroField (.kvapp (bits w 28 4) (bits w 7 5))
  | 0x6 => need (bits w 17 5 == 0#5 && bits w 4 3 == 0#3) .nonzeroField (.digest (bits w 28 4) (bits w 12 5) (bits w 7 5))
  | _ => .error .reservedFunction

/-- Major 0x25, selector bits [3:0] (R35). -/
def decodeMa (w : IWord) : Except Reject Instr :=
  match (bits w 0 4).toNat with
  | 0x0 => need (bits w 4 3 == 0#3) .nonzeroField (.mcfg (bits w 28 4) (bits w 17 5) (bits w 12 5) (bits w 7 5))
  | 0x1 => need (bits w 4 8 == 0#8) .nonzeroField (.mdat (bits w 28 4) (bits w 17 5) (bits w 12 5))
  | 0x2 => need (bits w 5 12 == 0#12) .nonzeroField (.mclr (bits w 28 4) (bits w 17 5) (bits w 4 1))
  | 0x3 => need (bits w 6 1 == 0#1) .nonzeroField (.mma (bits w 28 4) (bits w 17 5) (bits w 12 5) (bits w 7 5) (bits w 5 1) (bits w 4 1))
  | 0x4 => need (bits w 6 1 == 0#1) .nonzeroField (.mmaz (bits w 28 4) (bits w 17 5) (bits w 12 5) (bits w 7 5) (bits w 5 1) (bits w 4 1))
  | 0x5 => need (bits w 6 1 == 0#1) .nonzeroField (.mmas (bits w 28 4) (bits w 17 5) (bits w 12 5) (bits w 7 5) (bits w 5 1) (bits w 4 1))
  | 0x6 => need (bits w 12 5 == 0#5 && bits w 5 2 == 0#2) .nonzeroField (.matt (bits w 28 4) (bits w 17 5) (bits w 7 5) (bits w 4 1))
  | 0x7 => need (bits w 4 8 == 0#8) .nonzeroField (.msmx (bits w 28 4) (bits w 17 5) (bits w 12 5))
  | 0x8 => need (bits w 5 2 == 0#2) .nonzeroField (.mrd (bits w 28 4) (bits w 17 5) (bits w 12 5) (bits w 7 5) (bits w 4 1))
  | 0x9 => need (bits w 4 8 == 0#8) .nonzeroField (.macc (bits w 28 4) (bits w 17 5) (bits w 12 5))
  | 0xA => need (bits w 4 8 == 0#8) .nonzeroField (.mstat (bits w 28 4) (bits w 17 5) (bits w 12 5))
  | _ => .error .reservedFunction

/-- Major 0x28, selector bits [2:0] (R35). -/
def decodeVarith (w : IWord) : Except Reject Instr :=
  match (bits w 0 3).toNat with
  | 0x0 => need (bits w 5 2 == 0#2) .nonzeroField (.vadd (bits w 28 4) (bits w 17 5) (bits w 12 5) (bits w 7 5) (bits w 3 2))
  | 0x1 => need (bits w 5 2 == 0#2) .nonzeroField (.vsub (bits w 28 4) (bits w 17 5) (bits w 12 5) (bits w 7 5) (bits w 3 2))
  | 0x2 => need (bits w 5 2 == 0#2) .nonzeroField (.vmul (bits w 28 4) (bits w 17 5) (bits w 12 5) (bits w 7 5) (bits w 3 2))
  | 0x3 => need (bits w 5 2 == 0#2) .nonzeroField (.vmac (bits w 28 4) (bits w 17 5) (bits w 12 5) (bits w 7 5) (bits w 3 2))
  | 0x4 => need (bits w 5 2 == 0#2) .nonzeroField (.vmin (bits w 28 4) (bits w 17 5) (bits w 12 5) (bits w 7 5) (bits w 3 2))
  | 0x5 => need (bits w 5 2 == 0#2) .nonzeroField (.vmax (bits w 28 4) (bits w 17 5) (bits w 12 5) (bits w 7 5) (bits w 3 2))
  | 0x6 => need (bits w 5 2 == 0#2) .nonzeroField (.vadds (bits w 28 4) (bits w 17 5) (bits w 12 5) (bits w 7 5) (bits w 3 2))
  | 0x7 => need (bits w 5 7 == 0#7) .nonzeroField (.vabs (bits w 28 4) (bits w 17 5) (bits w 12 5) (bits w 3 2))
  | _ => .error .reservedFunction

/-- Major 0x29, selector bits [2:0] (R35). -/
def decodeVlogic (w : IWord) : Except Reject Instr :=
  match (bits w 0 3).toNat with
  | 0x0 => need (bits w 5 2 == 0#2) .nonzeroField (.vand (bits w 28 4) (bits w 17 5) (bits w 12 5) (bits w 7 5) (bits w 3 2))
  | 0x1 => need (bits w 5 2 == 0#2) .nonzeroField (.vor (bits w 28 4) (bits w 17 5) (bits w 12 5) (bits w 7 5) (bits w 3 2))
  | 0x2 => need (bits w 5 2 == 0#2) .nonzeroField (.vxor (bits w 28 4) (bits w 17 5) (bits w 12 5) (bits w 7 5) (bits w 3 2))
  | 0x3 => need (bits w 5 2 == 0#2) .nonzeroField (.vshl (bits w 28 4) (bits w 17 5) (bits w 12 5) (bits w 7 5) (bits w 3 2))
  | 0x4 => need (bits w 5 2 == 0#2) .nonzeroField (.vshr (bits w 28 4) (bits w 17 5) (bits w 12 5) (bits w 7 5) (bits w 3 2))
  | 0x5 => need (bits w 5 2 == 0#2) .nonzeroField (.vsra (bits w 28 4) (bits w 17 5) (bits w 12 5) (bits w 7 5) (bits w 3 2))
  | 0x6 => need (bits w 5 7 == 0#7) .nonzeroField (.vneg (bits w 28 4) (bits w 17 5) (bits w 12 5) (bits w 3 2))
  | 0x7 => need (bits w 5 2 == 0#2) .nonzeroField (.vsel (bits w 28 4) (bits w 17 5) (bits w 12 5) (bits w 7 5) (bits w 3 2))
  | _ => .error .reservedFunction

/-- Major 0x2A, selector bits [2:0] (R35). -/
def decodeVcmp (w : IWord) : Except Reject Instr :=
  match (bits w 0 3).toNat with
  | 0x0 => need (bits w 5 2 == 0#2) .nonzeroField (.vcmpeq (bits w 28 4) (bits w 17 5) (bits w 12 5) (bits w 7 5) (bits w 3 2))
  | 0x1 => need (bits w 5 2 == 0#2) .nonzeroField (.vcmpne (bits w 28 4) (bits w 17 5) (bits w 12 5) (bits w 7 5) (bits w 3 2))
  | 0x2 => need (bits w 5 2 == 0#2) .nonzeroField (.vcmplt (bits w 28 4) (bits w 17 5) (bits w 12 5) (bits w 7 5) (bits w 3 2))
  | 0x3 => need (bits w 5 2 == 0#2) .nonzeroField (.vcmple (bits w 28 4) (bits w 17 5) (bits w 12 5) (bits w 7 5) (bits w 3 2))
  | 0x4 => need (bits w 3 9 == 0#9) .nonzeroField (.vmsk (bits w 28 4) (bits w 17 5) (bits w 12 5))
  | _ => .error .reservedFunction

/-- Major 0x2B, selector bits [2:0] (R35). -/
def decodeVmath (w : IWord) : Except Reject Instr :=
  match (bits w 0 3).toNat with
  | 0x0 => need (bits w 5 7 == 0#7) .nonzeroField (.vexp2 (bits w 28 4) (bits w 17 5) (bits w 12 5) (bits w 3 2))
  | 0x1 => need (bits w 5 7 == 0#7) .nonzeroField (.vlog2 (bits w 28 4) (bits w 17 5) (bits w 12 5) (bits w 3 2))
  | 0x2 => need (bits w 5 7 == 0#7) .nonzeroField (.vrcp (bits w 28 4) (bits w 17 5) (bits w 12 5) (bits w 3 2))
  | 0x3 => need (bits w 5 7 == 0#7) .nonzeroField (.vrsq (bits w 28 4) (bits w 17 5) (bits w 12 5) (bits w 3 2))
  | 0x4 => need (bits w 5 7 == 0#7) .nonzeroField (.vsqrt (bits w 28 4) (bits w 17 5) (bits w 12 5) (bits w 3 2))
  | _ => .error .reservedFunction

/-- Major 0x2C, selector bits [2:0] (R35). -/
def decodeVconv (w : IWord) : Except Reject Instr :=
  match (bits w 0 3).toNat with
  | 0x0 => need (bits w 5 2 == 0#2) .nonzeroField (.vcvt (bits w 28 4) (bits w 17 5) (bits w 12 5) (bits w 7 5) (bits w 3 2))
  | 0x1 => need (bits w 3 4 == 0#4) .nonzeroField (.vpack (bits w 28 4) (bits w 17 5) (bits w 12 5) (bits w 7 5))
  | 0x2 => need (bits w 3 4 == 0#4) .nonzeroField (.vunpk (bits w 28 4) (bits w 17 5) (bits w 12 5) (bits w 7 5))
  | 0x3 => need (bits w 3 4 == 0#4) .nonzeroField (.vplane (bits w 28 4) (bits w 17 5) (bits w 12 5) (bits w 7 5))
  | 0x4 => need (bits w 3 4 == 0#4) .nonzeroField (.vunpl (bits w 28 4) (bits w 17 5) (bits w 12 5) (bits w 7 5))
  | _ => .error .reservedFunction

/-- Major 0x2D, selector bits [2:0] (R35). -/
def decodeVred (w : IWord) : Except Reject Instr :=
  match (bits w 0 3).toNat with
  | 0x0 => need (bits w 5 7 == 0#7) .nonzeroField (.vrsum (bits w 28 4) (bits w 17 5) (bits w 12 5) (bits w 3 2))
  | 0x1 => need (bits w 5 7 == 0#7) .nonzeroField (.vrmax (bits w 28 4) (bits w 17 5) (bits w 12 5) (bits w 3 2))
  | 0x2 => need (bits w 5 7 == 0#7) .nonzeroField (.vrmin (bits w 28 4) (bits w 17 5) (bits w 12 5) (bits w 3 2))
  | 0x3 => need (bits w 5 7 == 0#7) .nonzeroField (.vbsum (bits w 28 4) (bits w 17 5) (bits w 12 5) (bits w 3 2))
  | 0x4 => need (bits w 3 9 == 0#9) .nonzeroField (.vbfin (bits w 28 4) (bits w 17 5) (bits w 12 5))
  | _ => .error .reservedFunction

/-- Major 0x2E, selector bits [2:0] (R35). -/
def decodeVperm (w : IWord) : Except Reject Instr :=
  match (bits w 0 3).toNat with
  | 0x0 => need (bits w 3 9 == 0#9) .nonzeroField (.vbcast (bits w 28 4) (bits w 17 5) (bits w 12 5))
  | 0x1 => need (bits w 3 4 == 0#4) .nonzeroField (.vext (bits w 28 4) (bits w 17 5) (bits w 12 5) (bits w 7 5))
  | 0x2 => need (bits w 3 4 == 0#4) .nonzeroField (.vins (bits w 28 4) (bits w 17 5) (bits w 12 5) (bits w 7 5))
  | 0x3 => need (bits w 5 2 == 0#2) .nonzeroField (.vslide (bits w 28 4) (bits w 17 5) (bits w 12 5) (bits w 7 5) (bits w 3 2))
  | 0x4 => need (bits w 5 2 == 0#2) .nonzeroField (.vperm (bits w 28 4) (bits w 17 5) (bits w 12 5) (bits w 7 5) (bits w 3 2))
  | _ => .error .reservedFunction

/-- Major 0x2F, selector bits [2:0] (R35). -/
def decodeVmem (w : IWord) : Except Reject Instr :=
  match (bits w 0 3).toNat with
  | 0x0 => .ok (.vld (bits w 28 4) (bits w 17 5) (bits w 12 5) (bits w 7 5) (bits w 5 2) (bits w 3 2))
  | 0x1 => .ok (.vst (bits w 28 4) (bits w 17 5) (bits w 12 5) (bits w 7 5) (bits w 5 2) (bits w 3 2))
  | 0x2 => need (bits w 5 2 == 0#2) .nonzeroField (.vlds (bits w 28 4) (bits w 17 5) (bits w 12 5) (bits w 7 5) (bits w 3 2))
  | 0x3 => need (bits w 5 2 == 0#2) .nonzeroField (.vsts (bits w 28 4) (bits w 17 5) (bits w 12 5) (bits w 7 5) (bits w 3 2))
  | 0x4 => need (bits w 5 2 == 0#2) .nonzeroField (.vgth (bits w 28 4) (bits w 17 5) (bits w 12 5) (bits w 7 5) (bits w 3 2))
  | 0x5 => need (bits w 5 2 == 0#2) .nonzeroField (.vsct (bits w 28 4) (bits w 17 5) (bits w 12 5) (bits w 7 5) (bits w 3 2))
  | _ => .error .reservedFunction

/-- The instruction a word names by its major and function (R34, R35), with the bits that must
be 0 checked (R22, R23); the checks of R26 to R33 come after it. -/
def decodeRaw (w : IWord) : Except Reject Instr :=
  match (bits w 22 6).toNat with
  | 0x00 => decodeSys w
  | 0x01 => decodeSem w
  | 0x02 => decodeAlu w
  | 0x03 => decodeAlu2 w
  | 0x04 => .ok (.addi (bits w 28 4) (bits w 17 5) (bits w 12 5) (bits w 0 12))
  | 0x05 => .ok (.andi (bits w 28 4) (bits w 17 5) (bits w 12 5) (bits w 0 12))
  | 0x06 => .ok (.ori (bits w 28 4) (bits w 17 5) (bits w 12 5) (bits w 0 12))
  | 0x07 => .ok (.xori (bits w 28 4) (bits w 17 5) (bits w 12 5) (bits w 0 12))
  | 0x08 => .ok (.slti (bits w 28 4) (bits w 17 5) (bits w 12 5) (bits w 0 12))
  | 0x09 => .ok (.sltiu (bits w 28 4) (bits w 17 5) (bits w 12 5) (bits w 0 12))
  | 0x0A => decodeShi w
  | 0x0B => .ok (.lhi (bits w 28 4) (bits w 17 5) (bits w 0 17))
  | 0x0C => .ok (.lsi (bits w 28 4) (bits w 17 5) (bits w 0 17))
  | 0x0D => .ok (.lpc (bits w 28 4) (bits w 17 5) (bits w 0 17))
  | 0x0E => decodeBr w
  | 0x0F => .ok (.j (bits w 28 4) (bits w 0 22))
  | 0x10 => .ok (.jl (bits w 28 4) (bits w 0 22))
  | 0x11 => need (bits w 17 5 == 0#5) .nonzeroField (.jr (bits w 28 4) (bits w 12 5) (bits w 0 12))
  | 0x12 => need (bits w 17 5 == 0#5) .nonzeroField (.loop (bits w 28 4) (bits w 12 5) (bits w 0 12))
  | 0x13 => decodeCsr w
  | 0x14 => .ok (.ld (bits w 28 4) (bits w 17 5) (bits w 12 5) (bits w 2 10) (bits w 0 2))
  | 0x15 => .ok (.ldu (bits w 28 4) (bits w 17 5) (bits w 12 5) (bits w 2 10) (bits w 0 2))
  | 0x16 => .ok (.st (bits w 28 4) (bits w 17 5) (bits w 12 5) (bits w 2 10) (bits w 0 2))
  | 0x17 => .ok (.spld (bits w 28 4) (bits w 17 5) (bits w 12 5) (bits w 2 10) (bits w 0 2))
  | 0x18 => .ok (.spldu (bits w 28 4) (bits w 17 5) (bits w 12 5) (bits w 2 10) (bits w 0 2))
  | 0x19 => .ok (.spst (bits w 28 4) (bits w 17 5) (bits w 12 5) (bits w 2 10) (bits w 0 2))
  | 0x1A => decodeAtom w
  | 0x1B => decodeFence w
  | 0x1C => decodeRing w
  | 0x1D => decodeWmk w
  | 0x1E => decodeAsync w
  | 0x1F => decodeCtl w
  | 0x20 => decodeScope w
  | 0x21 => decodeBank w
  | 0x22 => decodeCirc w
  | 0x23 => decodePkg w
  | 0x24 => decodeReq w
  | 0x25 => decodeMa w
  | 0x28 => decodeVarith w
  | 0x29 => decodeVlogic w
  | 0x2A => decodeVcmp w
  | 0x2B => decodeVmath w
  | 0x2C => decodeVconv w
  | 0x2D => decodeVred w
  | 0x2E => decodeVperm w
  | 0x2F => decodeVmem w
  | 0x30 => need (bits w 7 15 == 0#15) .nonzeroField (.vcfg (bits w 28 4) (bits w 6 1) (bits w 4 2) (bits w 0 4))
  | _ => .error .reservedMajor

/-- The instruction a word is, or the check of R38 that it fails. -/
def decode (w : IWord) : Except Reject Instr :=
  match decodeRaw w with
  | .error r => .error r
  | .ok i =>
    match illFormed i with
    | none => .ok i
    | some r => .error r

/-- The word stored little-endian at four bytes, lowest first (R3, R11). -/
def wordOfBytes (b0 b1 b2 b3 : Byte) : IWord := b3 ++ b2 ++ b1 ++ b0

/-- Byte `k` of a word as the code ring stores it (R3, R11). -/
def byteOfWord (w : IWord) (k : Nat) : Byte := w.extractLsb' (8 * k) 8

/-- The instruction the decoder reads from a table word: the four bytes as they lie in a code ring. -/
def decodeTableWord (nbits w : Nat) : Option Instr :=
  if nbits ≤ 32 then
    let x : IWord := BitVec.ofNat 32 w
    match decode (wordOfBytes (byteOfWord x 0) (byteOfWord x 1) (byteOfWord x 2) (byteOfWord x 3)) with
    | .ok i => some i
    | .error _ => none
  else none

/-- The word of an instruction (R20, R34, R35); a step that no word encodes has none. -/
def encode (i : Instr) : Option IWord :=
  match i with
  | .nop tk => some (tk ++ 0#6 ++ 0#22)
  | .trap tk code => some (tk ++ 0#6 ++ 1#10 ++ code)
  | .safept tk imm => some (tk ++ 0#6 ++ 2#10 ++ imm)
  | .endleg tk => some (tk ++ 0#6 ++ 12288#22)
  | .waitl tk n => some (tk ++ 0#6 ++ 4#10 ++ n)
  | .eret => some (0#4 ++ 0#6 ++ 1048576#22)
  | .wfe => some (0#4 ++ 0#6 ++ 1052672#22)
  | .tlbi kind r => some (0#4 ++ 0#6 ++ 258#10 ++ kind ++ 0#3 ++ r)
  | .ipi n => some (0#4 ++ 0#6 ++ 66304#18 ++ n)
  | .csrr tk d num => some (tk ++ 19#6 ++ d ++ 0#6 ++ num)
  | .csrw tk a num => some (tk ++ 19#6 ++ 0#5 ++ a ++ 1#1 ++ num)
  | .add tk d a b w nw => some (tk ++ 2#6 ++ d ++ a ++ b ++ w ++ nw ++ 0#4)
  | .sub tk d a b w nw => some (tk ++ 2#6 ++ d ++ a ++ b ++ w ++ nw ++ 1#4)
  | .and tk d a b w nw => some (tk ++ 2#6 ++ d ++ a ++ b ++ w ++ nw ++ 2#4)
  | .or tk d a b w nw => some (tk ++ 2#6 ++ d ++ a ++ b ++ w ++ nw ++ 3#4)
  | .xor tk d a b w nw => some (tk ++ 2#6 ++ d ++ a ++ b ++ w ++ nw ++ 4#4)
  | .andn tk d a b w nw => some (tk ++ 2#6 ++ d ++ a ++ b ++ w ++ nw ++ 5#4)
  | .sll tk d a b nw => some (tk ++ 2#6 ++ d ++ a ++ b ++ 0#2 ++ nw ++ 6#4)
  | .srl tk d a b nw => some (tk ++ 2#6 ++ d ++ a ++ b ++ 0#2 ++ nw ++ 7#4)
  | .sra tk d a b nw => some (tk ++ 2#6 ++ d ++ a ++ b ++ 0#2 ++ nw ++ 8#4)
  | .slt tk d a b nw => some (tk ++ 2#6 ++ d ++ a ++ b ++ 0#2 ++ nw ++ 9#4)
  | .sltu tk d a b nw => some (tk ++ 2#6 ++ d ++ a ++ b ++ 0#2 ++ nw ++ 10#4)
  | .min tk d a b nw => some (tk ++ 2#6 ++ d ++ a ++ b ++ 0#2 ++ nw ++ 11#4)
  | .max tk d a b nw => some (tk ++ 2#6 ++ d ++ a ++ b ++ 0#2 ++ nw ++ 12#4)
  | .minu tk d a b nw => some (tk ++ 2#6 ++ d ++ a ++ b ++ 0#2 ++ nw ++ 13#4)
  | .maxu tk d a b nw => some (tk ++ 2#6 ++ d ++ a ++ b ++ 0#2 ++ nw ++ 14#4)
  | .rotr tk d a b nw => some (tk ++ 2#6 ++ d ++ a ++ b ++ 0#2 ++ nw ++ 15#4)
  | .mul tk d a b nw => some (tk ++ 3#6 ++ d ++ a ++ b ++ 0#2 ++ nw ++ 0#4)
  | .mulh tk d a b nw => some (tk ++ 3#6 ++ d ++ a ++ b ++ 0#2 ++ nw ++ 1#4)
  | .mulhu tk d a b nw => some (tk ++ 3#6 ++ d ++ a ++ b ++ 0#2 ++ nw ++ 2#4)
  | .madd tk d a b nw => some (tk ++ 3#6 ++ d ++ a ++ b ++ 0#2 ++ nw ++ 3#4)
  | .div tk d a b nw => some (tk ++ 3#6 ++ d ++ a ++ b ++ 0#2 ++ nw ++ 4#4)
  | .divu tk d a b nw => some (tk ++ 3#6 ++ d ++ a ++ b ++ 0#2 ++ nw ++ 5#4)
  | .rem tk d a b nw => some (tk ++ 3#6 ++ d ++ a ++ b ++ 0#2 ++ nw ++ 6#4)
  | .remu tk d a b nw => some (tk ++ 3#6 ++ d ++ a ++ b ++ 0#2 ++ nw ++ 7#4)
  | .clz tk d a nw => some (tk ++ 3#6 ++ d ++ a ++ 0#7 ++ nw ++ 8#4)
  | .ctz tk d a nw => some (tk ++ 3#6 ++ d ++ a ++ 0#7 ++ nw ++ 9#4)
  | .popc tk d a nw => some (tk ++ 3#6 ++ d ++ a ++ 0#7 ++ nw ++ 10#4)
  | .brev tk d a nw => some (tk ++ 3#6 ++ d ++ a ++ 0#7 ++ nw ++ 11#4)
  | .bswp tk d a nw => some (tk ++ 3#6 ++ d ++ a ++ 0#7 ++ nw ++ 12#4)
  | .selz tk d a b nw => some (tk ++ 3#6 ++ d ++ a ++ b ++ 0#2 ++ nw ++ 13#4)
  | .addi tk d a imm => some (tk ++ 4#6 ++ d ++ a ++ imm)
  | .andi tk d a imm => some (tk ++ 5#6 ++ d ++ a ++ imm)
  | .ori tk d a imm => some (tk ++ 6#6 ++ d ++ a ++ imm)
  | .xori tk d a imm => some (tk ++ 7#6 ++ d ++ a ++ imm)
  | .slti tk d a imm => some (tk ++ 8#6 ++ d ++ a ++ imm)
  | .sltiu tk d a imm => some (tk ++ 9#6 ++ d ++ a ++ imm)
  | .slli tk d a amt => some (tk ++ 10#6 ++ d ++ a ++ 0#6 ++ amt)
  | .srli tk d a amt => some (tk ++ 10#6 ++ d ++ a ++ 16#6 ++ amt)
  | .srai tk d a amt => some (tk ++ 10#6 ++ d ++ a ++ 32#6 ++ amt)
  | .lhi tk d imm => some (tk ++ 11#6 ++ d ++ imm)
  | .lsi tk d imm => some (tk ++ 12#6 ++ d ++ imm)
  | .lpc tk d imm => some (tk ++ 13#6 ++ d ++ imm)
  | .beq tk a b off => some (tk ++ 14#6 ++ 0#3 ++ a ++ b ++ off)
  | .bne tk a b off => some (tk ++ 14#6 ++ 1#3 ++ a ++ b ++ off)
  | .blt tk a b off => some (tk ++ 14#6 ++ 2#3 ++ a ++ b ++ off)
  | .bge tk a b off => some (tk ++ 14#6 ++ 3#3 ++ a ++ b ++ off)
  | .bltu tk a b off => some (tk ++ 14#6 ++ 4#3 ++ a ++ b ++ off)
  | .bgeu tk a b off => some (tk ++ 14#6 ++ 5#3 ++ a ++ b ++ off)
  | .bset tk a b off => some (tk ++ 14#6 ++ 6#3 ++ a ++ b ++ off)
  | .bclr tk a b off => some (tk ++ 14#6 ++ 7#3 ++ a ++ b ++ off)
  | .j tk off => some (tk ++ 15#6 ++ off)
  | .jl tk off => some (tk ++ 16#6 ++ off)
  | .jr tk a imm => some (tk ++ 17#6 ++ 0#5 ++ a ++ imm)
  | .loop tk a imm => some (tk ++ 18#6 ++ 0#5 ++ a ++ imm)
  | .ld tk d a off sz => some (tk ++ 20#6 ++ d ++ a ++ off ++ sz)
  | .ldu tk d a off sz => some (tk ++ 21#6 ++ d ++ a ++ off ++ sz)
  | .st tk d a off sz => some (tk ++ 22#6 ++ d ++ a ++ off ++ sz)
  | .spld tk d a off sz => some (tk ++ 23#6 ++ d ++ a ++ off ++ sz)
  | .spldu tk d a off sz => some (tk ++ 24#6 ++ d ++ a ++ off ++ sz)
  | .spst tk d a off sz => some (tk ++ 25#6 ++ d ++ a ++ off ++ sz)
  | .aadd tk a b scope sz => some (tk ++ 26#6 ++ 0#4 ++ a ++ b ++ scope ++ sz)
  | .aswp tk a b scope sz => some (tk ++ 26#6 ++ 1#4 ++ a ++ b ++ scope ++ sz)
  | .acas tk a b scope sz => some (tk ++ 26#6 ++ 2#4 ++ a ++ b ++ scope ++ sz)
  | .aand tk a b scope sz => some (tk ++ 26#6 ++ 3#4 ++ a ++ b ++ scope ++ sz)
  | .aor tk a b scope sz => some (tk ++ 26#6 ++ 4#4 ++ a ++ b ++ scope ++ sz)
  | .axor tk a b scope sz => some (tk ++ 26#6 ++ 5#4 ++ a ++ b ++ scope ++ sz)
  | .amax tk a b scope sz => some (tk ++ 26#6 ++ 6#4 ++ a ++ b ++ scope ++ sz)
  | .amin tk a b scope sz => some (tk ++ 26#6 ++ 7#4 ++ a ++ b ++ scope ++ sz)
  | .amaxu tk a b scope sz => some (tk ++ 26#6 ++ 8#4 ++ a ++ b ++ scope ++ sz)
  | .aminu tk a b scope sz => some (tk ++ 26#6 ++ 9#4 ++ a ++ b ++ scope ++ sz)
  | .aincw tk a b scope sz => some (tk ++ 26#6 ++ 10#4 ++ a ++ b ++ scope ++ sz)
  | .afab tk a b scope sz => some (tk ++ 26#6 ++ 11#4 ++ a ++ b ++ scope ++ sz)
  | .dacc tk a b scope => some (tk ++ 26#6 ++ 12#4 ++ a ++ b ++ scope ++ 1#2)
  | .drd tk a b scope => some (tk ++ 26#6 ++ 13#4 ++ a ++ b ++ scope ++ 1#2)
  | .dclr tk a b scope => some (tk ++ 26#6 ++ 14#4 ++ a ++ b ++ scope ++ 1#2)
  | .fenceAcq tk scope => some (tk ++ 27#6 ++ 0#4 ++ scope ++ 0#12)
  | .fenceRel tk scope => some (tk ++ 27#6 ++ 1#4 ++ scope ++ 0#12)
  | .fenceAr tk scope => some (tk ++ 27#6 ++ 2#4 ++ scope ++ 0#12)
  | .fenceSc tk scope => some (tk ++ 27#6 ++ 3#4 ++ scope ++ 0#12)
  | .fenceBw tk scope => some (tk ++ 27#6 ++ 4#4 ++ scope ++ 0#12)
  | .fenceBr tk scope => some (tk ++ 27#6 ++ 5#4 ++ scope ++ 0#12)
  | .sinc tk sem a t => some (tk ++ 1#6 ++ 0#4 ++ sem ++ a ++ t ++ 0#3)
  | .sacq tk sem n => some (tk ++ 1#6 ++ 1#4 ++ sem ++ n)
  | .swait tk sem n => some (tk ++ 1#6 ++ 2#4 ++ sem ++ n)
  | .sset tk sem a => some (tk ++ 1#6 ++ 3#4 ++ sem ++ a ++ 0#8)
  | .srd tk sem a t => some (tk ++ 1#6 ++ 4#4 ++ sem ++ a ++ t ++ 0#3)
  | .sincw tk sem a t => some (tk ++ 1#6 ++ 5#4 ++ sem ++ a ++ t ++ 0#3)
  | .sfab tk sem a t => some (tk ++ 1#6 ++ 6#4 ++ sem ++ a ++ t ++ 0#3)
  | .rcfg tk ring a => some (tk ++ 28#6 ++ 0#4 ++ ring ++ 0#5 ++ a ++ 0#5)
  | .rclaim tk ring d => some (tk ++ 28#6 ++ 1#4 ++ ring ++ d ++ 0#10)
  | .rpub tk ring a => some (tk ++ 28#6 ++ 2#4 ++ ring ++ 0#5 ++ a ++ 0#5)
  | .rwaitf tk ring d => some (tk ++ 28#6 ++ 3#4 ++ ring ++ d ++ 0#10)
  | .rfree tk ring => some (tk ++ 28#6 ++ 4#4 ++ ring ++ 0#15)
  | .rwaite tk ring => some (tk ++ 28#6 ++ 5#4 ++ ring ++ 0#15)
  | .rpopo tk ring d => some (tk ++ 28#6 ++ 6#4 ++ ring ++ d ++ 0#10)
  | .rsteal tk ring d t => some (tk ++ 28#6 ++ 7#4 ++ ring ++ d ++ 0#5 ++ t)
  | .rstat tk ring d t => some (tk ++ 28#6 ++ 8#4 ++ ring ++ d ++ 0#5 ++ t)
  | .wminit tk d a b => some (tk ++ 29#6 ++ d ++ a ++ b ++ 0#7)
  | .wmarrive tk a => some (tk ++ 29#6 ++ 0#5 ++ a ++ 1#12)
  | .wmexpect tk a b => some (tk ++ 29#6 ++ 0#5 ++ a ++ b ++ 2#7)
  | .wmwait tk a b => some (tk ++ 29#6 ++ 0#5 ++ a ++ b ++ 3#7)
  | .wmtest tk d a => some (tk ++ 29#6 ++ d ++ a ++ 4#12)
  | .cpy tk d a b k => some (tk ++ 30#6 ++ d ++ a ++ b ++ 0#3 ++ k ++ 0#2)
  | .tld tk d a b k => some (tk ++ 30#6 ++ d ++ a ++ b ++ 1#3 ++ k ++ 0#2)
  | .tst tk d a b k => some (tk ++ 30#6 ++ d ++ a ++ b ++ 2#3 ++ k ++ 0#2)
  | .tldm tk d a b k => some (tk ++ 30#6 ++ d ++ a ++ b ++ 3#3 ++ k ++ 0#2)
  | .pft tk a b k => some (tk ++ 30#6 ++ 0#5 ++ a ++ b ++ 4#3 ++ k ++ 0#2)
  | .mig tk a b k => some (tk ++ 30#6 ++ 0#5 ++ a ++ b ++ 5#3 ++ k ++ 0#2)
  | .waitseq tk a => some (tk ++ 31#6 ++ 0#5 ++ a ++ 0#12)
  | .pred tk a b bv av => some (tk ++ 31#6 ++ 0#5 ++ a ++ b ++ 0#1 ++ bv ++ av ++ 1#4)
  | .drain tk p => some (tk ++ 31#6 ++ 0#15 ++ p ++ 2#4)
  | .spawn tk a => some (tk ++ 31#6 ++ 0#5 ++ a ++ 3#12)
  | .joinw tk d a => some (tk ++ 31#6 ++ d ++ a ++ 4#12)
  | .gsync tk a => some (tk ++ 31#6 ++ 0#5 ++ a ++ 5#12)
  | .cbar tk n => some (tk ++ 31#6 ++ 0#16 ++ n ++ 6#4)
  | .scpw tk d a b => some (tk ++ 32#6 ++ d ++ a ++ b ++ 0#7)
  | .scpr tk d a b => some (tk ++ 32#6 ++ d ++ a ++ b ++ 1#7)
  | .scpinv tk d a => some (tk ++ 32#6 ++ d ++ a ++ 2#12)
  | .bcfg tk a b => some (tk ++ 33#6 ++ 0#5 ++ a ++ b ++ 0#7)
  | .bgemv tk b => some (tk ++ 33#6 ++ 0#10 ++ b ++ 1#7)
  | .bgemva tk b => some (tk ++ 33#6 ++ 0#10 ++ b ++ 2#7)
  | .csnd tk a b => some (tk ++ 34#6 ++ 0#5 ++ a ++ b ++ 0#7)
  | .crcv tk d a => some (tk ++ 34#6 ++ d ++ a ++ 1#12)
  | .platr tk d a b => some (tk ++ 35#6 ++ d ++ a ++ b ++ 0#7)
  | .platw tk d a b => some (tk ++ 35#6 ++ d ++ a ++ b ++ 1#7)
  | .replat tk a b => some (tk ++ 35#6 ++ 0#5 ++ a ++ b ++ 2#7)
  | .bndcfg tk a b => some (tk ++ 35#6 ++ 0#5 ++ a ++ b ++ 3#7)
  | .bndx tk a b => some (tk ++ 35#6 ++ 0#5 ++ a ++ b ++ 4#7)
  | .gmc tk a b => some (tk ++ 35#6 ++ 0#5 ++ a ++ b ++ 5#7)
  | .seatmap tk a => some (tk ++ 36#6 ++ 0#5 ++ a ++ 0#12)
  | .trld tk d a b => some (tk ++ 36#6 ++ d ++ a ++ b ++ 1#7)
  | .trset tk a b => some (tk ++ 36#6 ++ 0#5 ++ a ++ b ++ 2#7)
  | .stepend tk a => some (tk ++ 36#6 ++ 0#5 ++ a ++ 3#12)
  | .kvmap tk d a => some (tk ++ 36#6 ++ d ++ a ++ 4#12)
  | .kvapp tk b => some (tk ++ 36#6 ++ 0#10 ++ b ++ 5#7)
  | .digest tk a b => some (tk ++ 36#6 ++ 0#5 ++ a ++ b ++ 6#7)
  | .mcfg tk t a b => some (tk ++ 37#6 ++ t ++ a ++ b ++ 0#7)
  | .mdat tk t a => some (tk ++ 37#6 ++ t ++ a ++ 1#12)
  | .mclr tk t neg => some (tk ++ 37#6 ++ t ++ 0#12 ++ neg ++ 2#4)
  | .mma tk t a b scl rag => some (tk ++ 37#6 ++ t ++ a ++ b ++ 0#1 ++ scl ++ rag ++ 3#4)
  | .mmaz tk t a b scl rag => some (tk ++ 37#6 ++ t ++ a ++ b ++ 0#1 ++ scl ++ rag ++ 4#4)
  | .mmas tk t a b scl rag => some (tk ++ 37#6 ++ t ++ a ++ b ++ 0#1 ++ scl ++ rag ++ 5#4)
  | .matt tk t b first => some (tk ++ 37#6 ++ t ++ 0#5 ++ b ++ 0#2 ++ first ++ 6#4)
  | .msmx tk t a => some (tk ++ 37#6 ++ t ++ a ++ 7#12)
  | .mrd tk t a out norm => some (tk ++ 37#6 ++ t ++ a ++ out ++ 0#2 ++ norm ++ 8#4)
  | .macc tk t a => some (tk ++ 37#6 ++ t ++ a ++ 9#12)
  | .mstat tk t a => some (tk ++ 37#6 ++ t ++ a ++ 10#12)
  | .vcfg tk sat rnd ty => some (tk ++ 48#6 ++ 0#15 ++ sat ++ rnd ++ ty)
  | .vadd tk d a b m => some (tk ++ 40#6 ++ d ++ a ++ b ++ 0#2 ++ m ++ 0#3)
  | .vsub tk d a b m => some (tk ++ 40#6 ++ d ++ a ++ b ++ 0#2 ++ m ++ 1#3)
  | .vmul tk d a b m => some (tk ++ 40#6 ++ d ++ a ++ b ++ 0#2 ++ m ++ 2#3)
  | .vmac tk d a b m => some (tk ++ 40#6 ++ d ++ a ++ b ++ 0#2 ++ m ++ 3#3)
  | .vmin tk d a b m => some (tk ++ 40#6 ++ d ++ a ++ b ++ 0#2 ++ m ++ 4#3)
  | .vmax tk d a b m => some (tk ++ 40#6 ++ d ++ a ++ b ++ 0#2 ++ m ++ 5#3)
  | .vadds tk d a b m => some (tk ++ 40#6 ++ d ++ a ++ b ++ 0#2 ++ m ++ 6#3)
  | .vabs tk d a m => some (tk ++ 40#6 ++ d ++ a ++ 0#7 ++ m ++ 7#3)
  | .vand tk d a b m => some (tk ++ 41#6 ++ d ++ a ++ b ++ 0#2 ++ m ++ 0#3)
  | .vor tk d a b m => some (tk ++ 41#6 ++ d ++ a ++ b ++ 0#2 ++ m ++ 1#3)
  | .vxor tk d a b m => some (tk ++ 41#6 ++ d ++ a ++ b ++ 0#2 ++ m ++ 2#3)
  | .vshl tk d a b m => some (tk ++ 41#6 ++ d ++ a ++ b ++ 0#2 ++ m ++ 3#3)
  | .vshr tk d a b m => some (tk ++ 41#6 ++ d ++ a ++ b ++ 0#2 ++ m ++ 4#3)
  | .vsra tk d a b m => some (tk ++ 41#6 ++ d ++ a ++ b ++ 0#2 ++ m ++ 5#3)
  | .vneg tk d a m => some (tk ++ 41#6 ++ d ++ a ++ 0#7 ++ m ++ 6#3)
  | .vsel tk d a b m => some (tk ++ 41#6 ++ d ++ a ++ b ++ 0#2 ++ m ++ 7#3)
  | .vcmpeq tk d a b m => some (tk ++ 42#6 ++ d ++ a ++ b ++ 0#2 ++ m ++ 0#3)
  | .vcmpne tk d a b m => some (tk ++ 42#6 ++ d ++ a ++ b ++ 0#2 ++ m ++ 1#3)
  | .vcmplt tk d a b m => some (tk ++ 42#6 ++ d ++ a ++ b ++ 0#2 ++ m ++ 2#3)
  | .vcmple tk d a b m => some (tk ++ 42#6 ++ d ++ a ++ b ++ 0#2 ++ m ++ 3#3)
  | .vmsk tk d a => some (tk ++ 42#6 ++ d ++ a ++ 4#12)
  | .vexp2 tk d a m => some (tk ++ 43#6 ++ d ++ a ++ 0#7 ++ m ++ 0#3)
  | .vlog2 tk d a m => some (tk ++ 43#6 ++ d ++ a ++ 0#7 ++ m ++ 1#3)
  | .vrcp tk d a m => some (tk ++ 43#6 ++ d ++ a ++ 0#7 ++ m ++ 2#3)
  | .vrsq tk d a m => some (tk ++ 43#6 ++ d ++ a ++ 0#7 ++ m ++ 3#3)
  | .vsqrt tk d a m => some (tk ++ 43#6 ++ d ++ a ++ 0#7 ++ m ++ 4#3)
  | .vcvt tk d a b m => some (tk ++ 44#6 ++ d ++ a ++ b ++ 0#2 ++ m ++ 0#3)
  | .vpack tk d a b => some (tk ++ 44#6 ++ d ++ a ++ b ++ 1#7)
  | .vunpk tk d a b => some (tk ++ 44#6 ++ d ++ a ++ b ++ 2#7)
  | .vplane tk d a b => some (tk ++ 44#6 ++ d ++ a ++ b ++ 3#7)
  | .vunpl tk d a b => some (tk ++ 44#6 ++ d ++ a ++ b ++ 4#7)
  | .vrsum tk d a m => some (tk ++ 45#6 ++ d ++ a ++ 0#7 ++ m ++ 0#3)
  | .vrmax tk d a m => some (tk ++ 45#6 ++ d ++ a ++ 0#7 ++ m ++ 1#3)
  | .vrmin tk d a m => some (tk ++ 45#6 ++ d ++ a ++ 0#7 ++ m ++ 2#3)
  | .vbsum tk d a m => some (tk ++ 45#6 ++ d ++ a ++ 0#7 ++ m ++ 3#3)
  | .vbfin tk d a => some (tk ++ 45#6 ++ d ++ a ++ 4#12)
  | .vbcast tk d a => some (tk ++ 46#6 ++ d ++ a ++ 0#12)
  | .vext tk d a b => some (tk ++ 46#6 ++ d ++ a ++ b ++ 1#7)
  | .vins tk d a b => some (tk ++ 46#6 ++ d ++ a ++ b ++ 2#7)
  | .vslide tk d a b m => some (tk ++ 46#6 ++ d ++ a ++ b ++ 0#2 ++ m ++ 3#3)
  | .vperm tk d a b m => some (tk ++ 46#6 ++ d ++ a ++ b ++ 0#2 ++ m ++ 4#3)
  | .vld tk d a b w m => some (tk ++ 47#6 ++ d ++ a ++ b ++ w ++ m ++ 0#3)
  | .vst tk d a b w m => some (tk ++ 47#6 ++ d ++ a ++ b ++ w ++ m ++ 1#3)
  | .vlds tk d a b m => some (tk ++ 47#6 ++ d ++ a ++ b ++ 0#2 ++ m ++ 2#3)
  | .vsts tk d a b m => some (tk ++ 47#6 ++ d ++ a ++ b ++ 0#2 ++ m ++ 3#3)
  | .vgth tk d a b m => some (tk ++ 47#6 ++ d ++ a ++ b ++ 0#2 ++ m ++ 4#3)
  | .vsct tk d a b m => some (tk ++ 47#6 ++ d ++ a ++ b ++ 0#2 ++ m ++ 5#3)
  | .resultLanding _ => none
  | .variableLatencyWrite _ _ => none
  | .tokenPush _ _ => none
  | .peerAccept _ => none
  | .porterSector _ _ => none
  | .commandRetire _ _ => none
  | .storePerform _ => none
  | .atomicPerform _ => none
  | .l1Fill _ => none
  | .translationWalk _ _ _ => none
  | .faultEntryPost _ => none
  | .resolveRetry _ _ => none
  | .resolveKill _ _ => none
  | .resolveSeat _ _ => none
  | .gangResume _ _ => none
  | .legEnd _ _ => none
  | .dispatcherRun _ => none
  | .legStart _ _ => none
  | .caravanStart => none
  | .scheduleCounterTick _ _ => none
  | .dtickTick _ => none
  | .ptickTick => none
  | .stickTick => none
  | .slotCounterAdvance _ => none
  | .preemptWrite _ _ => none
  | .preemptSave _ _ => none
  | .forcedFullSave _ _ => none
  | .sendTableWrite _ _ _ _ => none
  | .sendTableActivate _ => none
  | .circuitArrival _ _ => none
  | .creditReturn _ _ => none
  | .carveWrite _ _ _ => none
  | .formatWindowWrite _ _ _ _ => none
  | .keySlotWrite _ _ _ => none
  | .errstatWrite _ _ => none
  | .exstatWrite _ _ => none
  | .scratchpadWindowWrite _ _ _ => none
  | .lqtailWrite _ _ _ => none
  | .lqctlWrite _ _ _ => none
  | .registerWrite _ _ _ => none
  | .linkDown _ _ => none
  | .linkTrain _ _ => none
  | .linkUp _ _ => none
  | .linkTrainTimeout _ _ => none
  | .routerPacket _ => none
  | .packetAgeExpiry _ => none
  | .flitSend _ _ => none
  | .flitReceive _ _ _ => none
  | .nakReceive _ _ _ => none
  | .ackReceive _ _ _ => none
  | .switchWrite _ _ _ => none
  | .linkKeyWrite _ _ _ _ => none
  | .retransmitTimeout _ => none
  | .trackedRequest _ _ _ _ _ _ _ => none
  | .trackedResponse _ _ => none
  | .fabcfgWrite _ => none
  | .stewardHalt _ _ => none
  | .stewardResume _ _ => none
  | .dbell _ _ => none
  | .msiraise _ _ => none
  | .msixUnmask _ _ => none
  | .csemRead _ _ => none
  | .csemWrite _ _ => none
  | .hostLinkReset _ => none
  | .hostLinkTrained _ _ => none
  | .hostAccess _ _ _ _ _ => none
  | .snapshotTrigger _ => none
  | .snapshotRelease => none
  | .snapshotTickMatch => none
  | .snapshotLatch => none
  | .thermalThrottle _ => none
  | .thermalTrip => none
  | .powerOn => none
  | .bootgo => none
  | .reportgo => none
  | .dieJoin _ => none
  | .dieJoinComplete _ => none
  | .dieJoinFail _ => none
  | .dieLeave _ => none
  | .dieDone _ => none
  | .dieFailed _ => none
  | .netSend _ _ => none
  | .netReceive _ _ _ => none
  | .storageRead _ _ _ => none
  | .storageWrite _ _ => none
  | .storageFlush _ _ => none
  | .coachSubmission => none
  | .coachBoundary => none
  | .verdictConcur _ => none
  | .verdictDissent _ => none
  | .cmdEvict _ => none
  | .cmdPark _ => none
  | .cmdUnpark _ => none
  | .cmdRelease _ => none
  | .warmReset => none
  | .kvLendRequest _ => none
  | .kvLendReply _ => none
  | .boundsCommandStart _ _ => none
  | .gmcDelivery _ => none
  | .mcastGroupWrite _ _ _ => none
  | .replatRendezvous _ => none
  | .replatStep _ _ => none
  | .replatRetire _ => none
  | .scopeUpdateRetire _ => none
  | .platwRetire _ => none
  | .migPageComplete _ _ _ => none
  | .uncorrectableError _ _ => none
  | .ueOutsideGang _ _ => none
  | .softErrorCorrected _ => none
  | .throttlingEnd _ => none

end Sys2Proof
end

