-- ==== Sys2Proof/Config.lean ====
section
/-! DEFINITION. The values the spec leaves open, as opaque constants: nothing in Lean can evaluate
them, so a statement holds for every value of them. Each is named in a log entry. -/
namespace Sys2Proof.Config

/-- A free value of `n` bits, applied to the counter `State.freeCtr` (log entry 3). -/
opaque freeBits : Nat → (n : Nat) → BitVec n
/-- Which turn comes next when the agenda names none (log entry 1). -/
opaque schedule : Nat → Turn
/-- ML-DSA-65 verification: public key, message, signature (R468; log entry 33). -/
opaque mldsaVerify : List (BitVec 8) → List (BitVec 8) → List (BitVec 8) → Bool
/-- ML-DSA-65 signature under the device identity key (R469; log entry 33). -/
opaque mldsaSign : List (BitVec 8) → List (BitVec 8)
/-- The public identity key of the part, 1,952 bytes (R469; log entry 33). -/
opaque identityKey : Nat → BitVec 8
/-- The fuses: root key hash (32 bytes), minimum security version, serial number, and the
fuse configuration that the report hashes (R468, R469; log entry 33). -/
opaque rootKeyHash : List (BitVec 8)
opaque minSecurity : Nat
opaque serial : BitVec 64
opaque fuseConfig : List (BitVec 8)
/-- Where the parts of a boot image lie: its public key, signature, header and body, and the
security version of the header (R468 names them and gives no layout; log entry 33). -/
opaque imageParts : List (BitVec 8) →
  List (BitVec 8) × List (BitVec 8) × List (BitVec 8) × List (BitVec 8) × Nat
/-- The BOOTSTAT value that stands for a failed check (R468; log entry 33). -/
opaque bootReason : Nat → BitVec 64
/-- The context under which the Coach translates the VAs of its registers (R410 names none; log entry 34). -/
opaque coachCtx : BitVec 6
/-- The VA of the Coach's step join object (R418 gives none; log entry 34). -/
opaque stepJoin : BitVec 64
/-- The schedule in the routers' slots is the one that Dormos compiles for two Plat entries: the entries with GEN 0, and the slot
of each named die (R390, R391; log entry 98). -/
opaque compiled : BitVec 512 → BitVec 512 → List (List (BitVec 8)) → Bool

end Sys2Proof.Config
end

