-- ==== Sys2Proof/Machine/State.lean ====
section
/-! DEFINITION. The state of one TK8V package (INVENTORY.md, State): every piece of state the spec names,
as plain data, and `State.reset`. Fields that the model adds for itself say so. -/
namespace Sys2Proof.Machine

/-- A sparse table: the keys ascend, and an absent key holds the table's default. -/
abbrev AMap (β : Type) := List (Nat × β)

/-- Memory or a scratchpad: addresses ascend, and an unlisted address reads as 0 (log entry 4). -/
abbrev Memory := List Host.Cell

/-- Why the machine stops with a fault. The spec's own faults (R362) are next states; these are not. -/
inductive Fault where
  /-- Raised by `step` when a running stream's code ring has no size. No run reaches it: safe. -/
  | noCodeRing
  deriving DecidableEq, Repr

/-- Why an instruction has no meaning here. -/
inductive Refusal where
  /-- Raised by `exec` for an instruction without a meaning yet: safe. -/
  | notModelled (mnemonic : String)
  deriving DecidableEq, Repr

/-- A register that a result is written to: a scalar, a vector or a mask register (R41). -/
inductive Loc where
  | x (i : Nat) | v (i : Nat) | m (i : Nat)
  deriving DecidableEq, Repr

/-- One register write: the place, the value (low bits), and the bits that are written (R149). -/
structure Write where
  loc : Loc
  val : VWord
  mask : VWord
  deriving DecidableEq, Repr

/-- A fixed-latency result in flight (R50): it lands at slot `due`. -/
structure Flight where
  id : Nat
  due : Nat
  writes : List Write
  latch : VWord
  deriving DecidableEq, Repr

/-- An outstanding variable-latency write (R52): its registers, and its values once they arrived. -/
structure Outst where
  id : Nat
  regs : List Loc
  val : Option (List Write)
  /-- The core whose peer operation gave the value: until it is written, no new leg starts there (R248). -/
  peer : Option Nat := none
  deriving DecidableEq, Repr

/-- What a stream that has issued and holds waits for (R69, R316, R323). -/
inductive Hold where
  /-- `WAITL n`: at most n writes outstanding. -/
  | waitl (n : Nat)
  /-- A fence of `kind`: the accesses and the commands it waits for, and its scope's sets. -/
  | fence (kind : Nat) (reqs : List Nat) (cmds : List (BitVec 32)) (cores slices : BitVec 512)
  /-- `SCPW` or `SCPINV`: the update, the destination and the new header. -/
  | scope (upd : Nat) (d : Reg) (hdr : BitVec 64)
  /-- `PLATW`. -/
  | plat (upd : Nat) (d : Reg) (hdr : BitVec 64)
  /-- `SAFEPT` at which it parks: its pushes come first (R67). -/
  | park (index : Nat)
  /-- A Steward's access to another package or a host, whose fault must be precise (R402): until it is answered; and the loop
  state before it. -/
  | access (req : Nat) (loop : BitVec 64)
  deriving DecidableEq, Repr

/-- Where a stream stands (R56, R57, R68, R69, R207, R402). -/
inductive Phase where
  | idle
  | running
  /-- Held by a waiting form that was reached: SEQ as it was then (R116), and whether its work was begun. -/
  | held (seqAt : BitVec 32) (begun : Bool)
  | holding (h : Hold)
  /-- At a `TRAP` whose fault entry is unresolved: the entry and the token bits to push (R66). -/
  | trapped (entry : Nat) (tk : Tok)
  | parked (index : Nat)
  | stopped
  | ending
  | ended
  | halted
  deriving DecidableEq, Repr

/-- Why the word at a stream's PC did not issue at the stream's last turn (R14, R15, R52, R53). -/
inductive Stall where
  /-- A queue that it pops is empty, or one that it pushes is full. -/
  | tokens
  /-- Outstanding writes hold registers that it writes. -/
  | writes (ids : List Nat)
  /-- It would add a 33rd outstanding write. -/
  | room
  deriving DecidableEq, Repr

/-- The pending `PRED` of a stream (R112, R232). -/
abbrev Pred := List (BitVec 32)

/-- A stream (R41). A Steward stream (R401) has no vector state; its CSRs are in `Steward`. -/
structure Stream where
  phase : Phase
  pc : BitVec 18
  x : Vector Word 28
  v : Vector VWord 28
  m : Vector (BitVec 256) 3
  latch : Vector (Option VWord) 4
  loop : BitVec 64
  slot : Nat
  sinceSafe : Nat
  flying : List Flight
  outst : List Outst
  sstat : BitVec 64
  vtype : BitVec 64
  pred : Pred
  /-- The model's own: why its word waited at its last turn, until it issues (R53, R56). -/
  stall : Option Stall := none
  deriving DecidableEq, Repr

/-- A stream at reset and at leg start, before R45's registers. -/
def Stream.zero : Stream :=
  { phase := .idle, pc := 0, x := Vector.replicate 28 0, v := Vector.replicate 28 0,
    m := Vector.replicate 3 0, latch := Vector.replicate 4 none, loop := 0, slot := 0, sinceSafe := 0,
    flying := [], outst := [], sstat := 0, vtype := 0, pred := [] }

/-- The CSRs of a Steward (R401) and the translations its TLB holds (R359). -/
structure Steward where
  scause : BitVec 64
  sepc : BitVec 64
  sval : BitVec 64
  svec : BitVec 64
  sasn : BitVec 64
  sstatus : BitVec 64
  sevent : BitVec 64
  sevmask : BitVec 64
  stick : BitVec 64
  sscr : BitVec 64
  deriving DecidableEq, Repr

/-- A Steward's CSRs at reset (R401). -/
def Steward.zero : Steward :=
  { scause := 0, sepc := 0, sval := 0, svec := 0, sasn := 0x40, sstatus := 0, sevent := 0,
    sevmask := 0, stick := 0, sscr := 0 }

/-- A scope tag of a semaphore (R214), narrowest first. -/
inductive Tag where
  | core | cluster | package | fabric
  deriving DecidableEq, Repr

/-- A semaphore (R96, R113, R214). -/
structure Sem where
  count : BitVec 32
  tag : Tag
  settle : List (BitVec 32)
  deriving DecidableEq, Repr

/-- A ring's configuration and status (R99); `pub` lists the claimed slots already published (R100). -/
structure RingState where
  cfg : BitVec 64
  claimed : Nat
  filled : Nat
  tail : Nat
  head : Nat
  pub : List Nat
  deriving DecidableEq, Repr

/-- An accumulator element (R94, R134): V and the flags. -/
structure Acc where
  val : BitVec 48
  n : Bool
  ip : Bool
  im : Bool
  z : Bool
  s : Bool
  deriving DecidableEq, Repr

/-- A tile (R94, R95, R181, R182, R195, R196). `elems` is keyed by 256·row + column; an element that is not
listed is `dflt`. -/
structure Tile where
  elems : AMap Acc
  dflt : Acc
  datum : BitVec 16
  cfg : BitVec 64
  tscale : BitVec 64
  nan : Bool
  sat : Bool
  touched : Bool
  att : BitVec 64
  rowB : AMap (BitVec 32)
  rowL : AMap (BitVec 64)
  deriving DecidableEq, Repr

/-- A byte range of a core's scratchpad (R109). -/
structure Range where
  core : Nat
  lo : Nat
  len : Nat
  deriving DecidableEq, Repr

/-- The engine that runs a command (R112, R364): 4 Porter, 5 Bounds, 6 bank, 8 matrix, 9 pool, 10 routers. -/
abbrev Engine := Nat

/-- A command in flight (R106 to R109): the instruction, the operands read at issue, its footprint, the
commands and accesses it follows, and how far it has run. -/
structure Cmd where
  seq : BitVec 32
  sid : Nat
  ins : Instr
  ops : List Word
  image : List Byte
  rd : List Range
  wr : List Range
  engine : Engine
  after : List (BitVec 32)
  waitReq : List Nat
  /-- Memory accesses of its stream that were in flight at its issue (R277, R284). -/
  prior : List Nat
  next : Nat
  err : Bool
  start : Bool
  hold : Option Nat
  supp : List Nat
  /-- Every sector decrement of its waymark was applied (R113). -/
  swept : Bool
  /-- Target cores that were found dead, and take nothing more (R244). -/
  lost : List Nat
  /-- Sector decrements that it has applied and that take effect at its retirement (R104, R108, R223; log entry 19). -/
  owed : Nat := 0
  /-- How much of its next sector, or face, has gone to another package: its writes (1), and a face's increment (2). It is
  done when they are answered (R223, R397, R457). -/
  stage : Nat := 0
  /-- Sectors written of the face in hand (R397). -/
  sect : Nat := 0
  /-- The page of 16 KiB up to which it has translated its box (R360). -/
  walked : Nat := 0
  /-- The leg that each peer ran when it started, by core: a peer that runs another one is lost (R244). -/
  saw : AMap Nat := []
  deriving DecidableEq, Repr

/-- A record of the footprint checker (R113). `settled` lists the streams (0 LD to 3 ST). -/
structure Rec where
  seq : BitVec 32
  sid : Nat
  rd : List Range
  wr : List Range
  engine : Engine
  preds : List (BitVec 32)
  wm : Option Nat
  drained : Bool
  settled : List Nat
  deriving DecidableEq, Repr

/-- When a reserved push may be made (R15). -/
inductive PushWhen where
  | now | holdEnds | ends
  | landed (flight : Nat)
  | written (outst : Nat)
  | performed (req : Nat)
  | retired (seq : BitVec 32)
  deriving DecidableEq, Repr

/-- The reserved pushes of one instruction, made at one moment (R15): the queues, the condition, the accesses of the
release at CORE, the commands that a pop of the token settles (R113), and the claims of the region that ends at the instruction
(R296): the line, and whether it is the write claim. -/
structure Push where
  stream : Nat
  queues : List Nat
  cond : PushWhen
  rel : List Nat
  settle : List (BitVec 32)
  closing : List (Nat × Bool) := []
  deriving DecidableEq, Repr

/-- A translation in a TLB (R359): the context, VA[55:14] of the page's base, and its leaf. -/
structure TlbEntry where
  ctx : Nat
  vpn : Nat
  leaf : BitVec 64
  deriving DecidableEq, Repr

/-- A line of the L1 (R92), most recently used first: its PA, the translation it was filled under, its bytes. -/
structure L1Line where
  pa : Nat
  via : TlbEntry
  data : List Byte
  deriving DecidableEq, Repr

/-- A line of a REPL page held by a slice (R264). -/
structure Replica where
  slice : Nat
  pa : Nat
  via : TlbEntry
  data : List Byte
  deriving DecidableEq, Repr

/-- A scope-table entry (R289). -/
structure Scope where
  hdr : BitVec 64
  pkgs : BitVec 64
  cores : BitVec 512
  slices : BitVec 512
  deriving DecidableEq, Repr

/-- A barrier of a core (R246): the stream whose arrival is pending in this round, and the streams whose round
is complete and which have not issued yet. -/
structure Barrier where
  here : Option Nat
  done : List Nat
  deriving DecidableEq, Repr

/-- A buffer record in memory of the code image, for `MIG` (R483): frame offset, size, page size. -/
structure MemBuf where
  off : Nat
  size : Nat
  page : Nat
  deriving DecidableEq, Repr

/-- A core (05, 09, 11, 14): what its four streams and its engines share. -/
structure Core where
  scratch : Memory
  /-- Base offset and log2 size in words of each stream's code ring (R42); size 0 words before any leg. -/
  ringBase : Vector Nat 4
  ringLog : Vector Nat 4
  /-- The safe-point tables (R55), 64-byte entries. -/
  safe : Vector (List (BitVec 512)) 4
  memBufs : List MemBuf
  queues : Vector (List (List (BitVec 32))) 8
  reserved : Vector Nat 8
  pushes : List Push
  sems : Vector Sem 32
  rings : Vector RingState 8
  tiles : Vector Tile 4
  seq : BitVec 32
  cmds : List Cmd
  recs : List Rec
  bankCfg : BitVec 64
  bankScale : BitVec 64
  barriers : Vector Barrier 4
  fifos : AMap (List Word)
  credits : AMap Nat
  l1 : List L1Line
  tlb : List TlbEntry
  scopeCache : List (Nat × Nat × Scope)
  seatVa : BitVec 64
  seatMap : List Byte
  digest : List Byte
  /-- The slot for which the core's `CSND` waits, kept over a table change (R255). -/
  csndSlot : Option Nat
  /-- The gang the core is busy for (R342, R349). -/
  gang : Option Nat
  offline : Bool
  deriving DecidableEq, Repr

def Sem.zero : Sem := { count := 0, tag := .core, settle := [] }
def RingState.zero : RingState := { cfg := 0, claimed := 0, filled := 0, tail := 0, head := 0, pub := [] }
def Acc.zero : Acc := { val := 0, n := false, ip := false, im := false, z := false, s := false }
/-- A tile at leg start (R94, R181, R182): every word 0, no tensor scale. -/
def Tile.zero : Tile :=
  { elems := [], dflt := Acc.zero, datum := 0, cfg := 0, tscale := 0, nan := false, sat := false,
    touched := false, att := 0, rowB := [], rowL := [] }

/-- A core before any leg, and at leg start (R91, R94, R96, R99, R328). -/
def Core.zero : Core :=
  { scratch := [], ringBase := Vector.replicate 4 0, ringLog := Vector.replicate 4 0,
    safe := Vector.replicate 4 [], memBufs := [], queues := Vector.replicate 8 [],
    reserved := Vector.replicate 8 0, pushes := [], sems := Vector.replicate 32 Sem.zero,
    rings := Vector.replicate 8 RingState.zero, tiles := Vector.replicate 4 Tile.zero, seq := 0,
    cmds := [], recs := [], bankCfg := 0, bankScale := 0, barriers := Vector.replicate 4 { here := none, done := [] },
    fifos := [], credits := [], l1 := [], tlb := [], scopeCache := [], seatVa := 0, seatMap := [],
    digest := [], csndSlot := none, gang := none, offline := false }

/-- What a peer operation does at its target (R238). Byte positions are scratchpad offsets. -/
inductive PeerOp where
  /-- A scalar load of n bytes. -/
  | load (signed : Bool) (n off : Nat)
  /-- A vector load: for each register of the group, (offset, byte position) pairs. -/
  | vload (bytes : List (Nat × Nat × Nat))
  /-- A store of bytes. -/
  | store (bytes : List (Nat × Byte))
  | sinc (sem : Nat) (inc : Word)
  | srd (sem : Nat)
  | sincw (sem : Nat) (bound : BitVec 32)
  | sfab (sem : Nat) (add bound : BitVec 32)
  | rsteal (ring : Nat)
  | rstat (ring : Nat)
  | wmArrive (off : Nat)
  | wmExpect (off : Nat) (n : Word)
  deriving DecidableEq, Repr

/-- What an access in flight does. -/
inductive ReqOp where
  | load (signed : Bool) (n : Nat)
  | store (n : Nat) (v : Word)
  | atomic (ins : Instr) (a b : Word)
  | peer (target : Nat) (op : PeerOp)
  | kvmap (key : Word)
  | crcv (src : Nat)
  deriving DecidableEq, Repr

/-- An access in flight: issued, and not yet performed (R239, R285, R303, R307). -/
structure Req where
  id : Nat
  sid : Nat
  op : ReqOp
  pa : Nat
  va : Word
  /-- The leaf that translated it (R357); 0 for a peer operation. -/
  leaf : BitVec 64
  outst : Option Nat
  pc : BitVec 18
  /-- An own store to the line was sent after it left: a fill is not installed (R92). -/
  stale : Bool
  /-- It has reached its home die (R376); a local access has at once. -/
  arrived : Bool
  hold : Option Nat
  /-- While it holds for an entry, the registers it will write: their outstanding write is given up (R249). -/
  regs : List Loc
  /-- Retransmissions so far, and the tracked sequence number (R457). -/
  tries : Nat
  track : Nat
  /-- A load of a REPL page that missed in its own slice and was sent on to the home on another die (R264, R487). -/
  fetched : Bool := false
  deriving DecidableEq, Repr

/-- A fault queue entry (R364). -/
structure Entry where
  seq : Nat
  code : BitVec 8
  cls : Nat
  die : Nat
  core : Nat
  agent : Nat
  gang : Nat
  seat : Nat
  va : Word
  pc : BitVec 32
  leg : BitVec 32
  tick : BitVec 48
  dup : Bool
  ctx : Nat
  deriving DecidableEq, Repr

/-- The stages of a gang (R348, R349, R350, R353). -/
inductive GangPhase where
  /-- Placed; the code image is being loaded. -/
  | placed
  /-- Its rectangle is held for a caravan. -/
  | heldFor
  | running
  /-- Killed or ended; the cores become idle at LEG_END. -/
  | dying
  deriving DecidableEq, Repr

/-- A gang and the leg it runs (R342, R349 to R353). -/
structure Gang where
  phase : GangPhase
  record : List Byte
  ctx : Nat
  origin : Nat
  w : Nat
  h : Nat
  dieIndex : Nat
  dieCount : Nat
  /-- The caravan it belongs to, by the id CARAVAN_START gave it (R348). -/
  caravan : Option Nat
  resume : Bool
  tick : BitVec 48
  slip : BitVec 32
  stalled : Bool
  preempt : Bool
  /-- The code of the fault that killed the leg. -/
  killed : Option (BitVec 8)
  /-- An entry that holds the leg's end, save or start (R336, R349, R354). -/
  hold : Option Nat
  /-- No join update is left to make: it was dropped, or is on its way to another package. -/
  dropJoin : Bool
  /-- A pre-emption was requested while the stall wire froze the gang: it is pending once the freeze ends (R58). -/
  asked : Bool := false
  /-- A forced full save is on its way: no stream issues any more, and every result has landed (R57, R59). -/
  stopping : Bool := false
  /-- Writes of the save area that were made (R354). -/
  progress : Nat := 0
  /-- The model's own: a number that no other placement has. -/
  serial : Nat := 0
  deriving DecidableEq, Repr

/-- An entry of the datum accumulator (R309): E, in units of 2^−179, and the flags. -/
structure Datum where
  e : Int
  n : Bool
  ip : Bool
  im : Bool
  z : Bool
  s : Bool
  spilled : Bool
  deriving DecidableEq, Repr

/-- A request in the migrate queue (R332). -/
structure MigReq where
  va : Word
  ctx : Nat
  target : Nat
  deadline : BitVec 48
  core : Nat
  seq : BitVec 32
  deriving DecidableEq, Repr

/-- The pool unit of a die (R427 to R429): free pages with their lenders, the direction asked, the command
that waits, requests from neighbours, and the reserve of overflow entries. -/
structure Pool where
  free : List (Word × Option Nat)
  lent : List (Word × Nat)
  ask : Option Nat
  waiter : Option (Nat × BitVec 32)
  asked : List Nat
  reply : Option (List Word)
  reserve : List Nat
  deriving DecidableEq, Repr

/-- A die (12, 14, 15, 18, 19). Atlas registers are in `State.atlas`. -/
structure Die where
  slotCtr : BitVec 8
  /-- Send tables in force and as last accepted, keyed by 256·core + slot (R254, R255). -/
  send : AMap (BitVec 8)
  sendNext : AMap (BitVec 8)
  unposted : List Entry
  unresolved : List Entry
  entrySeq : Nat
  resumable : List Nat
  /-- Join updates of removed records (R336, R341): the entry each waits for, or none while it still has to be made; its
  context, join VA, leg id. -/
  orphans : List (Option Nat × Nat × Word × BitVec 32)
  datum : AMap Datum
  circuits : List (Nat × Nat × Word)
  returns : List (Nat × Nat)
  /-- The dispatcher's head and its target: queue number (8 for the caravan candidate) and origin. -/
  target : Option (Nat × Nat)
  faces : AMap (BitVec 1024)
  faceTag : AMap Nat
  boundsQ : List (Nat × BitVec 32)
  pool : Pool
  mig : List MigReq
  replicas : List Replica
  softErrors : Nat
  /-- Steps of a `REPLAT` that the routers skipped, as the Atlas records them (R391). -/
  skips : Nat
  /-- Units that went offline (R367): slices; carve ways, keyed by 16·slice + way; and vaults and bank units, by the slice
  they belong to. -/
  offSlices : List Nat
  offCarve : List Nat
  offVaults : List Nat
  offBanks : List Nat
  /-- Next sequence number per destination die, and the last 256 accepted per source (R378). -/
  txSeq : AMap Nat
  window : List (Nat × Nat)
  /-- The gang whose pre-emption was requested last (R353). -/
  lastPre : Option Nat := none
  deriving DecidableEq, Repr

def Pool.zero : Pool := { free := [], lent := [], ask := none, waiter := none, asked := [], reply := none, reserve := [] }
def Die.zero : Die :=
  { slotCtr := 0, send := [], sendNext := [], unposted := [], unresolved := [], entrySeq := 0,
    resumable := [], orphans := [], datum := [], circuits := [], returns := [], target := none, faces := [],
    faceTag := [], boundsQ := [], pool := Pool.zero, mig := [], replicas := [], softErrors := 0, skips := 0,
    offSlices := [], offCarve := [], offVaults := [], offBanks := [], txSeq := [], window := [] }

/-- A claim on a line of a CHK page (R297). Agents are numbered by `agentOf`. -/
structure Claim where
  writer : Option Nat
  readers : List Nat
  sole : Nat
  deriving DecidableEq, Repr

/-- An update of the scope table in flight (R295): the key 64·context + index. -/
structure ScopeUpd where
  id : Nat
  key : Nat
  deriving DecidableEq, Repr

/-- A PLATW in flight (R387): the key 16·context + index, the old entry, and the dies that still hold it. -/
structure PlatUpd where
  id : Nat
  key : Nat
  old : BitVec 512
  dies : List Nat
  deriving DecidableEq, Repr

/-- A REPLAT in flight (R388 to R392). -/
structure Replat where
  id : Nat
  ctx : Nat
  caravan : Nat
  src : Nat
  dst : Nat
  /-- Participants: die, core number, command, and the generations they read. -/
  parts : List (Nat × Nat × BitVec 32 × BitVec 8 × BitVec 8)
  stepping : Bool
  missed : Bool
  /-- Steps done by each die's router, and sectors done of its step in hand. -/
  done : AMap (Nat × Nat)
  deriving DecidableEq, Repr

/-- A packet between dies (R376 to R381, R458). -/
inductive Payload where
  | req (id : Nat)
  /-- A GMC's sector for one member core: GMC number, sending stream, member, group, generation; the sender's leg, by its id
  and its placement, and the PC of the GMC (R399). -/
  | gmc (num sid core group gen : Nat) (sector : List Byte) (leg : BitVec 32) (serial : Nat) (pc : BitVec 18)
  /-- A tracked write of an engine or a port (R457). -/
  | put (id : Nat)
  deriving DecidableEq, Repr

structure Packet where
  id : Nat
  src : Nat
  dst : Nat
  at_ : Nat
  seq : Nat
  resent : Bool
  response : Bool
  payload : Payload
  /-- Links of the route still to take before dimension order goes on (R381). -/
  detour : List Nat
  /-- The link whose queue it waits in, if it waits. -/
  queued : Option Nat
  /-- Payload flits of an outward crossing that have still to arrive (R452). -/
  flits : Nat
  deriving DecidableEq, Repr

/-- Who made a tracked write (R457). -/
inductive RemoteOwner where
  /-- A command, by core, sequence number and the agent it faults as. -/
  | cmd (core : Nat) (seq : BitVec 32) (agent : Nat)
  /-- A port's ring. -/
  | port (io : Nat) (storage : Bool) (ring : Nat)
  /-- The join update of a die for an ended leg: its gang id, leg id and context (R336). -/
  | join (die gang : Nat) (leg : BitVec 32) (ctx : Nat)
  /-- The increment of a join object that a `SPAWN` made: its stream and PC (R335). -/
  | spawn (sid : Nat) (pc : BitVec 18)
  /-- The save of a gang, for a member (R354). -/
  | save (g core : Nat)
  /-- The router of a die in a `REPLAT` (R391). -/
  | replat (id die : Nat)
  /-- A ring of a die or, as die 0, the Coach (R343, R410). -/
  | hw (die : Nat)
  deriving DecidableEq, Repr

/-- A write of an engine or a port to another package, not answered yet (R457): its source and destination dies, its
tracked number and how often it was sent again. -/
structure Remote where
  id : Nat
  src : Nat
  dst : Nat
  track : Nat
  tries : Nat
  pa : Nat
  bytes : List Byte
  owner : RemoteOwner
  deriving DecidableEq, Repr

/-- A saved leg's state that the save area's layout does not fix byte by byte (R354; log entry 20): cores by their number in
the die, streams by four times that and their own. -/
structure Save where
  full : Bool
  streams : AMap Stream
  cores : AMap Core
  /-- Circuit receives that still wait for a value (R330), their streams numbered alike. -/
  receives : List Req
  slip : BitVec 32
  deriving DecidableEq, Repr

/-- A TRSET staged at the Coach (R435): seat, order key, value word. -/
structure Staged where
  seat : Nat
  order : Nat
  val : Word
  deriving DecidableEq, Repr

/-- Where the Coach stands between boundaries (R412, R415, R418, R432). -/
inductive CoachPhase where
  | idle | running | verdict
  /-- The journal record of the step is being written, or waits to be applied (R415). -/
  | commit
  | records (step : Nat)
  /-- The step is launched, or launched again, once its queue has room (R418, R423, R432). -/
  | relaunch
  /-- The boundary is to begin, or a second dissent is to take effect, once the memory that it needs is reached (R457, R462). -/
  | begin
  | diverge
  deriving DecidableEq, Repr

/-- A journal record (R415): whether it is complete in both copies, its TRs by slot, and the seats whose eviction it takes
in. -/
structure Journal where
  complete : Bool
  trs : List (Nat × List Byte)
  evicted : List Nat
  deriving DecidableEq, Repr

/-- The Coach (19). Its registers are in `State.atlas`, TRs and rings in memory. -/
structure Coach where
  phase : CoachPhase
  seats : AMap Nat
  /-- Seats freed by PARK or dissent, to become free at the next boundary (R419). -/
  leaving : List Nat
  /-- Seats evicted by an EVICT of this step (R420). -/
  evicted : List Nat
  /-- The requests whose pages were lost or taken back, and that become EVICTED for it (R423, R424, R429), by the context and the
  sequence of those pages. -/
  lost : List (Nat × Nat)
  /-- TRs as committed at the last boundary, for the slots that a command has changed since (R435). -/
  committed : AMap (List Byte)
  seatFaults : List (Nat × BitVec 8)
  dry : List (Nat × Nat)
  staged : List Staged
  ends : List (Nat × Option (List Byte))
  accSeq : Nat
  admNum : Nat
  reruns : Nat
  dissents : Nat
  digest : List Byte
  /-- Slots accepted and not seated in any map yet (R413 FIRST). -/
  first : List Nat
  /-- CMD writes that were ignored (R420). -/
  ignoredCmds : Nat
  /-- Ticks spent waiting to take a submission, and waiting to write a completion record (R412). -/
  subTicks : Nat
  recTicks : Nat
  discarded : Nat
  /-- Completion records of the boundary not yet written: TR slots, in acceptance order (R412). -/
  records : List Nat
  journal : Option Journal
  /-- Seats of requests that were admitted as EVICTED (R416). -/
  refilling : List Nat
  /-- The model's own: request commands, by operation and slot, whose TR is not reached yet; and the acceptance record of a
  submission that is not written, the TR copies being on their way (R411, R457, R462; log entry 105). -/
  cmds : List (Nat × Nat) := []
  accepting : Option (List Byte) := none
  deriving DecidableEq, Repr

def Coach.zero : Coach :=
  { phase := .idle, seats := [], leaving := [], evicted := [], lost := [], committed := [], seatFaults := [], dry := [], staged := [],
    ends := [], accSeq := 0, admNum := 0, reruns := 0, dissents := 0, digest := [], first := [],
    ignoredCmds := 0, subTicks := 0, recTicks := 0, discarded := 0, records := [], journal := none, refilling := [] }

/-- One end of an outward link (R452 to R456): its two directions hold the key slots each (log entry 45). -/
structure Trunk where
  txKey : BitVec 256
  txNext : Option (BitVec 256)
  rxKey : BitVec 256
  rxNext : Option (BitVec 256)
  txCount : Nat
  rxCount : Nat
  ackSeen : Nat
  epoch : Bool
  rxEpoch : Bool
  /-- The count of the first flit under the present key. -/
  keyStart : Nat
  switch : Nat
  rxSwitch : Nat
  /-- 0 STEADY, 1 ARMED, 2 DRAIN; 0 ONE, 1 BOTH. -/
  txState : Nat
  rxState : Nat
  nak : Bool
  /-- Payloads that wait to be sent, with their packet. -/
  outQ : List (Nat × List Byte)
  /-- Flits not acknowledged: count, packet, bytes, resends. -/
  replay : List (Nat × Option Nat × List Byte × Nat)
  resendFrom : Option Nat
  /-- Payload bytes accepted, in order. -/
  inQ : List (List Byte)
  sent : List (List Byte)
  /-- The FABCFG word that the other end sent in training (R450). -/
  partner : BitVec 14
  deriving DecidableEq, Repr

def Trunk.zero : Trunk :=
  { txKey := 0, txNext := none, rxKey := 0, rxNext := none, txCount := 0, rxCount := 0, ackSeen := 0, epoch := false,
    rxEpoch := false, keyStart := 0, switch := 0, rxSwitch := 0, txState := 0, rxState := 0, nak := false, outQ := [],
    replay := [], resendFrom := none, inQ := [], sent := [], partner := 0 }

/-- A tracked request performed for another package (R458): source, home slice (64·die + slice), sequence number and
result. -/
structure Tracked where
  src : Nat
  dst : Nat
  seq : Nat
  result : Word
  deriving DecidableEq, Repr

/-- A host link (R461), and whether its function has MSI-X enabled (R463). -/
structure HostLink where
  trained : Bool
  cxl : Bool
  msix : Bool := false
  deriving DecidableEq, Repr

/-- The stages of booting (R468). -/
inductive BootPhase where
  | off | waitImage | dormos
  deriving DecidableEq, Repr

/-- The copy that a snapshot holds of every block's state (R466, R467). -/
structure Snap where
  src : BitVec 3
  tick : BitVec 48
  streams : AMap Stream
  stewards : AMap Steward
  swTlb : AMap (List TlbEntry)
  cores : AMap Core
  dies : AMap Die
  gangs : AMap Gang
  claims : AMap Claim
  atlas : AMap (BitVec 64)
  requests : List Req
  scopes : AMap Scope
  scopeUpds : List ScopeUpd
  plats : AMap (BitVec 512)
  platUpds : List PlatUpd
  replats : List Replat
  packets : List Packet
  coach : Coach
  trunks : AMap Trunk
  tracked : List Tracked
  hostLinks : Vector HostLink 4
  csem : Vector (Option Nat) 16
  throttled : List Nat
  ioIgnored : Vector Nat 2
  remotes : List Remote
  hwOut : List (Nat × Nat × List Byte)
  kernRoot : BitVec 64
  boot : BootPhase
  dormosVersion : Nat
  mem : Memory
  dram : AMap (List Byte)
  keyTags : AMap (BitVec 512)
  saves : AMap Save
  deriving DecidableEq, Repr

/-- The state of the package. -/
structure State where
  /-- The model's own: turns to come, the stream that issues, turns taken, free values used, next id. -/
  agenda : List Turn
  cur : Nat
  moves : Nat
  freeCtr : Nat
  nextId : Nat
  streams : AMap Stream
  stewards : AMap Steward
  swTlb : AMap (List TlbEntry)
  cores : AMap Core
  dies : AMap Die
  /-- Keyed by 64·die + gang id. -/
  gangs : AMap Gang
  mem : Memory
  /-- What DRAM holds of each sector whose slice copy is newer (R271): keyed by sector number. -/
  dram : AMap (List Byte)
  /-- The 512-bit key value under which each sector's DRAM bytes are encrypted (R272). -/
  keyTags : AMap (BitVec 512)
  /-- Atlas registers, keyed by PA / 8 (R261, R262). -/
  atlas : AMap (BitVec 64)
  requests : List Req
  claims : AMap Claim
  scopes : AMap Scope
  scopeUpds : List ScopeUpd
  plats : AMap (BitVec 512)
  platUpds : List PlatUpd
  replats : List Replat
  packets : List Packet
  /-- Keyed by the PA of the save area (R354; log entry 20). -/
  saves : AMap Save
  coach : Coach
  trunks : AMap Trunk
  tracked : List Tracked
  hostLinks : Vector HostLink 4
  csem : Vector (Option Nat) 16
  snap : Option Snap
  snapPend : Option (BitVec 3)
  msiSent : List (Nat × Nat)
  boot : BootPhase
  flash : List Byte
  /-- The security version of the Dormos that runs (R469). -/
  dormosVersion : Nat
  throttled : List Nat
  tripped : Bool
  netOut : List (Nat × List Byte)
  nvmeOut : List (Nat × Nat × List Byte)
  hostOut : List (Nat × Nat × Word)
  kernRoot : BitVec 64
  /-- Ignored writes that the Atlas recorded for the blocks of IO0 and IO1 (R448, R465). -/
  ioIgnored : Vector Nat 2
  remotes : List Remote
  /-- Writes of the Coach and of rings to another package that wait at issue, in order: die, PA, bytes (R457). -/
  hwOut : List (Nat × Nat × List Byte)
  /-- Host accesses answered without effect: link, PA, and the fault's code, or none for Unsupported Request (R406, R461). -/
  hostErr : List (Nat × Nat × Option (BitVec 8))
  /-- The model's own: translations that a TLB has held since the last TLBI of their page (R264, R403; log entry 92). -/
  seen : List TlbEntry
  deriving DecidableEq, Repr

/-- The package right after reset (R468, and the reset columns of the field maps): nothing listed in
memory, every Atlas register 0, no leg, and Steward 0 of IO0 in the boot ROM, every other one halted. -/
def State.reset : State :=
  { agenda := [], cur := 0, moves := 0, freeCtr := 0, nextId := 0, streams := [(2048, Stream.zero)],
    stewards := [], swTlb := [], cores := [], dies := [], gangs := [], mem := [], dram := [],
    keyTags := [], atlas := [], requests := [], claims := [], scopes := [], scopeUpds := [], plats := [],
    platUpds := [], replats := [], packets := [], saves := [], coach := Coach.zero, trunks := [],
    tracked := [], hostLinks := Vector.replicate 4 { trained := false, cxl := false },
    csem := Vector.replicate 16 none, snap := none, snapPend := none, msiSent := [], boot := .off,
    flash := [], dormosVersion := 0, throttled := [], tripped := false, netOut := [], nvmeOut := [], hostOut := [],
    kernRoot := 0, ioIgnored := Vector.replicate 2 0, remotes := [], hwOut := [], hostErr := [], seen := [] }

end Sys2Proof.Machine
end

