-- ==== Sys2Proof/Machine/Bits.lean ====
section
/-! DEFINITION. Sparse tables, bytes and memories, vectors, and the helpers of R3 to R6. -/
namespace Sys2Proof.Machine

/-- The value at a key. -/
def aget {β : Type} (t : AMap β) (k : Nat) : Option β :=
  match t with
  | [] => none
  | (j, b) :: r => if j = k then some b else aget r k

/-- Put a value at a key; the keys stay ascending. -/
def aput {β : Type} (t : AMap β) (k : Nat) (v : β) : AMap β :=
  match t with
  | [] => [(k, v)]
  | (j, b) :: r => if j = k then (k, v) :: r else if k < j then (k, v) :: (j, b) :: r else (j, b) :: aput r k v

/-- Take a key out. -/
def adel {β : Type} (t : AMap β) (k : Nat) : AMap β := t.filter fun e => e.1 != k

/-- Element `i` of a register file or another fixed array. -/
def vget {α : Type} {n : Nat} (v : Vector α n) (i : Nat) (d : α) : α := v[i]?.getD d

/-- Set element `i`. -/
def vset {α : Type} {n : Nat} (v : Vector α n) (i : Nat) (a : α) : Vector α n := v.setIfInBounds i a

/-- The byte at an address; an unlisted address reads as 0 (log entry 4). -/
def mget (m : Memory) (a : Nat) : Byte :=
  match m with
  | [] => 0
  | (j, b) :: r => if j = a then b else mget r a

/-- The cells of a run of bytes: none for a byte that reads as an unlisted one. -/
def cells (a : Nat) (bs : List Byte) : Memory :=
  match bs with
  | [] => []
  | b :: r => if b = 0 then cells (a + 1) r else (a, b) :: cells (a + 1) r

/-- Write a run of bytes at `a`; nothing else changes, and the canonical form is kept. -/
def mwrite (m : Memory) (a : Nat) (bs : List Byte) : Memory :=
  m.filter (fun c => decide (c.1 < a)) ++ (cells a bs ++ m.filter fun c => decide (a + bs.length ≤ c.1))

/-- The bytes from `a` on. -/
def mread (m : Memory) (a n : Nat) : List Byte := (List.range n).map fun i => mget m (a + i)

/-- The canonical form of a memory: addresses strictly rising, no entry that reads as an unlisted one. -/
def Memory.wf (m : Memory) : Bool :=
  match m with
  | [] => true
  | (a, b) :: r => b != 0 && (match r with
    | [] => true
    | (a', _) :: _ => decide (a < a')) && Memory.wf r

/-- Little-endian value of a run of bytes (R3). -/
def leNat (bs : List Byte) : Nat :=
  match bs with
  | [] => 0
  | b :: r => b.toNat + 256 * leNat r

/-- The low `n` bytes of a value, lowest first (R3). -/
def leBytes (n v : Nat) : List Byte :=
  match n with
  | 0 => []
  | k + 1 => BitVec.ofNat 8 v :: leBytes k (v / 256)

/-- `n` bytes at `a` as an unsigned value. -/
def mnat (m : Memory) (a n : Nat) : Nat := leNat (mread m a n)

/-- Bits [hi:lo] of a value, as a number (R4). -/
def fld {w : Nat} (v : BitVec w) (hi lo : Nat) : Nat := v.toNat / 2 ^ lo % 2 ^ (hi + 1 - lo)

/-- Bit `i` of a value. -/
def bitAt {w : Nat} (v : BitVec w) (i : Nat) : Bool := v.toNat / 2 ^ i % 2 == 1

/-- Bits [hi:lo] of a number. -/
def nfld (v hi lo : Nat) : Nat := v / 2 ^ lo % 2 ^ (hi + 1 - lo)

/-- Set bits [hi:lo] of a word to the low bits of `x`. -/
def setFld {w : Nat} (v : BitVec w) (hi lo x : Nat) : BitVec w :=
  let k := hi + 1 - lo
  BitVec.ofNat w (v.toNat % 2 ^ lo + x % 2 ^ k * 2 ^ lo + v.toNat / 2 ^ (hi + 1) * 2 ^ (hi + 1))

/-- A number whose low `n` bits are taken as two's complement. -/
def signedOf (n v : Nat) : Int :=
  let u := v % 2 ^ n
  if n ≠ 0 ∧ 2 ^ (n - 1) ≤ u then (u : Int) - (2 ^ n : Nat) else (u : Int)

/-- The low `n` bits of an integer. -/
def toBits (n : Nat) (v : Int) : BitVec n := BitVec.ofInt n v

/-- Sign-extend a value to 64 bits (R6). -/
def sx64 {w : Nat} (v : BitVec w) : Word := v.signExtend 64

/-- Zero-extend a value to 64 bits (R6). -/
def zx64 {w : Nat} (v : BitVec w) : Word := v.setWidth 64

/-- Sign-extend a value to an integer. -/
def sxInt {w : Nat} (v : BitVec w) : Int := v.toInt

/-- 64-bit doublewords of a list of bytes, lowest first. -/
def dword (bs : List Byte) (i : Nat) : Word := BitVec.ofNat 64 (leNat ((bs.drop (8 * i)).take 8))

/-- A field of a structure in bytes: `n` bytes at offset `o`. -/
def bfld (bs : List Byte) (o n : Nat) : Nat := leNat ((bs.drop o).take n)

/-- ⌈a / b⌉. -/
def ceilDiv (a b : Nat) : Nat := (a + b - 1) / b

/-- The first index at which a list satisfies `p`. -/
def findIdx {α : Type} (p : α → Bool) (l : List α) : Option Nat := l.findIdx? p

/-- Replace the elements that satisfy `p`. -/
def mapIf {α : Type} (p : α → Bool) (f : α → α) (l : List α) : List α := l.map fun a => if p a then f a else a

/-- Fold over the numbers below `n`. -/
def forN {σ : Type} (n : Nat) (f : Nat → σ → σ) (s : σ) : σ := (List.range n).foldl (fun s i => f i s) s

end Sys2Proof.Machine
end

