-- ==== Sys2Proof/Machine/Crypto.lean ====
section
/-! DEFINITION. The ciphers and the hash that the spec names by their standards: AES-256 (R272, R452), its XTS
mode for one 32-byte data unit (R272), its GCM mode (R452, R453) and SHAKE256 (R273, R390, R431, R455, R468).
The algorithms are those of FIPS 197, IEEE 1619, NIST SP 800-38D and FIPS 202 (log entry 7). -/
namespace Sys2Proof.Machine

/-! ### AES-256 -/

/-- Multiply by x in GF(2^8). -/
def xtime (a : Byte) : Byte := if bitAt a 7 then (a <<< 1) ^^^ 0x1B else a <<< 1
def gmulGo (fuel : Nat) (a b : Byte) : Byte :=
  match fuel with
  | 0 => 0
  | n + 1 => (if bitAt b 0 then a else 0) ^^^ gmulGo n (xtime a) (b >>> 1)
/-- Product in GF(2^8). -/
def gmul (a b : Byte) : Byte := gmulGo 8 a b
/-- The inverse, a^254 = a^2·a^4·…·a^128, and 0 for 0. -/
def ginv (a : Byte) : Byte :=
  ((List.range 7).foldl (fun (p : Byte × Byte) _ => let q := gmul p.1 p.1; (q, gmul p.2 q)) (a, 1)).2
def rotl8 (a : Byte) (n : Nat) : Byte := (a <<< n) ||| (a >>> (8 - n))
def subByte (a : Byte) : Byte :=
  let b := ginv a
  b ^^^ rotl8 b 1 ^^^ rotl8 b 2 ^^^ rotl8 b 3 ^^^ rotl8 b 4 ^^^ 0x63
def unsubByte (a : Byte) : Byte := ginv (rotl8 a 1 ^^^ rotl8 a 3 ^^^ rotl8 a 6 ^^^ 0x05)
def xorBytes (a b : List Byte) : List Byte := List.zipWith (fun x y => x ^^^ y) a b
def byteAt (l : List Byte) (i : Nat) : Byte := l.getD i 0
/-- The 60 words of the key schedule, oldest first, built backwards. -/
def keyWordsGo (fuel i : Nat) (rcon : Byte) (rev : List (List Byte)) : List (List Byte) :=
  match fuel with
  | 0 => rev.reverse
  | n + 1 =>
    let prev := rev.headD []
    let t :=
      if i % 8 = 0 then
        xorBytes ((prev.drop 1 ++ prev.take 1).map subByte) [rcon, 0, 0, 0]
      else if i % 8 = 4 then prev.map subByte
      else prev
    keyWordsGo n (i + 1) (if i % 8 = 0 then xtime rcon else rcon) (xorBytes (rev.getD 7 []) t :: rev)
def keyWords (key : List Byte) : List (List Byte) :=
  keyWordsGo 52 8 1 ((List.range 8).map fun i => (key.drop (4 * i)).take 4).reverse
def roundKey (ks : List (List Byte)) (r : Nat) : List Byte := ((ks.drop (4 * r)).take 4).flatten
def shiftRows (s : List Byte) : List Byte := (List.range 16).map fun i => byteAt s ((i + 4 * (i % 4)) % 16)
def unshiftRows (s : List Byte) : List Byte := (List.range 16).map fun i => byteAt s ((i + 12 * (i % 4)) % 16)
def mixWith (c0 c1 c2 c3 : Byte) (s : List Byte) : List Byte :=
  (List.range 16).map fun i =>
    let g (k : Nat) : Byte := byteAt s (i / 4 * 4 + (i + k) % 4)
    gmul c0 (g 0) ^^^ gmul c1 (g 1) ^^^ gmul c2 (g 2) ^^^ gmul c3 (g 3)
def aesEnc (key block : List Byte) : List Byte :=
  let ks := keyWords key
  let s := (List.range 13).foldl (fun s r =>
    xorBytes (mixWith 2 3 1 1 (shiftRows (s.map subByte))) (roundKey ks (r + 1))) (xorBytes block (roundKey ks 0))
  xorBytes (shiftRows (s.map subByte)) (roundKey ks 14)
def aesDec (key block : List Byte) : List Byte :=
  let ks := keyWords key
  let s := (List.range 13).foldl (fun s r =>
    mixWith 14 11 13 9 (xorBytes ((unshiftRows s).map unsubByte) (roundKey ks (13 - r))))
    (xorBytes block (roundKey ks 14))
  xorBytes ((unshiftRows s).map unsubByte) (roundKey ks 0)

/-! ### XTS on one 32-byte sector -/

/-- Multiply a tweak by x, as a little-endian 128-bit value. -/
def xtsDouble (t : List Byte) : List Byte :=
  let v := leNat t
  leBytes 16 ((v * 2 % 2 ^ 128) ^^^ (if v / 2 ^ 127 = 1 then 0x87 else 0))
/-- Encrypt or decrypt a sector under a 64-byte key, data key first (R272, R273). -/
def xtsSector (enc : Bool) (key : List Byte) (tweak : Nat) (sector : List Byte) : List Byte :=
  let f := if enc then aesEnc (key.take 32) else aesDec (key.take 32)
  let t0 := aesEnc (key.drop 32) (leBytes 16 tweak)
  let t1 := xtsDouble t0
  xorBytes (f (xorBytes (sector.take 16) t0)) t0 ++ xorBytes (f (xorBytes (sector.drop 16) t1)) t1

/-! ### GCM -/

/-- Big-endian value of bytes. -/
def beNat (bs : List Byte) : Nat := leNat bs.reverse
def beBytes (n v : Nat) : List Byte := (leBytes n v).reverse
def ghashMulGo (fuel x v z : Nat) : Nat :=
  match fuel with
  | 0 => z
  | n + 1 =>
    let z := if x / 2 ^ n % 2 = 1 then z ^^^ v else z
    ghashMulGo n x ((v / 2) ^^^ (if v % 2 = 1 then 0xE1000000000000000000000000000000 else 0)) z
def ghashMul (x y : Nat) : Nat := ghashMulGo 128 x y 0
def pad16 (bs : List Byte) : List Byte := bs ++ List.replicate ((16 - bs.length % 16) % 16) 0
def ghash (h : Nat) (bs : List Byte) : Nat :=
  (List.range (bs.length / 16)).foldl (fun y i => ghashMul (y ^^^ beNat ((bs.drop (16 * i)).take 16)) h) 0
/-- The key stream of counter blocks 2, 3, … for a 12-byte nonce. -/
def gcmStream (key nonce : List Byte) (n : Nat) : List Byte :=
  ((List.range (ceilDiv n 16)).flatMap fun i => aesEnc key (nonce ++ beBytes 4 (i + 2))).take n
def gcmTag (key nonce aad ct : List Byte) : List Byte :=
  let h := beNat (aesEnc key (List.replicate 16 0))
  let s := ghash h (pad16 aad ++ pad16 ct ++ beBytes 8 (8 * aad.length) ++ beBytes 8 (8 * ct.length))
  xorBytes (aesEnc key (nonce ++ beBytes 4 1)) (beBytes 16 s)

/-! ### SHAKE256 -/

def rotl64 (a : Word) (n : Nat) : Word := (a <<< (n % 64)) ||| (a >>> ((64 - n % 64) % 64))
def laneAt (st : List Word) (x y : Nat) : Word := st.getD (x % 5 + 5 * (y % 5)) 0
/-- The rotation offsets of ρ, and the lane order of π, along the walk of FIPS 202. -/
def rhoGo (fuel t x y : Nat) (acc : List (Nat × Nat)) : List (Nat × Nat) :=
  match fuel with
  | 0 => acc
  | n + 1 => rhoGo n (t + 1) y ((2 * x + 3 * y) % 5) ((x + 5 * y, (t + 1) * (t + 2) / 2 % 64) :: acc)
def rhoTable : List (Nat × Nat) := rhoGo 24 0 1 0 [(0, 0)]
def rhoOf (i : Nat) : Nat := ((rhoTable.find? fun p => p.1 == i).map fun p => p.2).getD 0
/-- One step of the LFSR of ι. -/
def lfsr (r : Byte) : Byte := if bitAt r 7 then (r <<< 1) ^^^ 0x71 else r <<< 1
def rcGo (fuel j : Nat) (r : Byte) (acc : Word) : Byte × Word :=
  match fuel with
  | 0 => (r, acc)
  | n + 1 => rcGo n (j + 1) (lfsr r) (if bitAt r 0 then acc ||| BitVec.ofNat 64 (2 ^ (2 ^ j - 1)) else acc)
def keccakRound (st : List Word) (rc : Word) : List Word :=
  let c := (List.range 5).map fun x =>
    laneAt st x 0 ^^^ laneAt st x 1 ^^^ laneAt st x 2 ^^^ laneAt st x 3 ^^^ laneAt st x 4
  let d := (List.range 5).map fun x => c.getD ((x + 4) % 5) 0 ^^^ rotl64 (c.getD ((x + 1) % 5) 0) 1
  let a := (List.range 25).map fun i => st.getD i 0 ^^^ d.getD (i % 5) 0
  -- B[y, 2x+3y] = rot(A[x, y]): lane (u, v) of B comes from x = u + 3v, y = u.
  let b := (List.range 25).map fun i =>
    let src := (i % 5 + 3 * (i / 5)) % 5 + 5 * (i % 5)
    rotl64 (a.getD src 0) (rhoOf src)
  let e := (List.range 25).map fun i =>
    laneAt b (i % 5) (i / 5) ^^^ (~~~(laneAt b (i % 5 + 1) (i / 5)) &&& laneAt b (i % 5 + 2) (i / 5))
  match e with
  | [] => []
  | l :: r => (l ^^^ rc) :: r
def keccakF (st : List Word) : List Word :=
  ((List.range 24).foldl (fun (p : List Word × Byte) _ =>
    let (r, rc) := rcGo 7 0 p.2 0
    (keccakRound p.1 rc, r)) (st, 1)).1
def absorbBlock (st : List Word) (blk : List Byte) : List Word :=
  (List.range 25).map fun i => st.getD i 0 ^^^ dword blk i
/-- SHAKE256, rate 136 bytes: the first `n` bytes of its output, n at most 136. -/
def shake256 (n : Nat) (msg : List Byte) : List Byte :=
  let k := msg.length / 136
  let rest := msg.drop (136 * k)
  let z := 136 - rest.length
  let last := if z = 1 then rest ++ [0x9F] else rest ++ (0x1F :: List.replicate (z - 2) 0) ++ [0x80]
  let st := (List.range k).foldl (fun st i => keccakF (absorbBlock st ((msg.drop (136 * i)).take 136)))
    (List.replicate 25 0)
  ((keccakF (absorbBlock st last)).flatMap fun w => leBytes 8 w.toNat).take n

end Sys2Proof.Machine
end

