-- ==== Sys2Proof/Machine/Numbers.lean ====
section
/-! DEFINITION. Number formats and exact arithmetic (chapter 06): formats (R118 to R128), exact values, the one
rounding (R138, R146), terms (R130 to R132), plane form (R93), and the accumulator with its flags (R134 to R139). -/
namespace Sys2Proof.Machine

/-- An exact value: NaN, an infinity, or ±m·2^e, with the sign of a zero kept. -/
inductive XNum where
  | nan
  | inf (neg : Bool)
  | fin (neg : Bool) (m : Nat) (e : Int)
  deriving DecidableEq, Repr

/-- A float format (R122): its fields, and whether it has infinities and NaNs. -/
structure Fmt where
  e : Nat
  m : Nat
  bias : Nat
  ieee : Bool
  deriving DecidableEq, Repr

def fE2M1 : Fmt := ⟨2, 1, 1, false⟩
def fE2M3 : Fmt := ⟨2, 3, 1, false⟩
def fE3M2 : Fmt := ⟨3, 2, 3, false⟩
def fE4M3 : Fmt := ⟨4, 3, 7, false⟩
def fE5M2 : Fmt := ⟨5, 2, 15, true⟩
def fFP16 : Fmt := ⟨5, 10, 15, true⟩
def fBF16 : Fmt := ⟨8, 7, 127, true⟩
def fFP32 : Fmt := ⟨8, 23, 127, true⟩
/-- E4M3 has one NaN pattern and no infinity (R122). -/
def isE4M3 (f : Fmt) : Bool := f == fE4M3
def fmtBits (f : Fmt) : Nat := 1 + f.e + f.m

/-- The value of a float pattern (R122). -/
def fltVal (f : Fmt) (b : Nat) : XNum :=
  let m := b % 2 ^ f.m
  let e := b / 2 ^ f.m % 2 ^ f.e
  let neg := b / 2 ^ (f.m + f.e) % 2 == 1
  if f.ieee && e == 2 ^ f.e - 1 then (if m = 0 then .inf neg else .nan)
  else if isE4M3 f && e == 15 && m == 7 then .nan
  else if e = 0 then .fin neg m (1 - (f.bias : Int) - f.m)
  else .fin neg (2 ^ f.m + m) ((e : Int) - f.bias - f.m)

/-- The class of a format code (R118). -/
inductive FClass where
  | sint (n : Nat) | uint (n : Nat) | flt (f : Fmt) | sx (m : Nat)
  deriving DecidableEq, Repr
/-- The element code of a code (R127). -/
def elemCode (c : Nat) : Nat :=
  match c with
  | 0x11 | 0x12 | 0x13 => 6
  | 0x14 => 7
  | 0x15 => 8
  | 0x16 => 9
  | 0x17 => 0xA
  | 0x18 => 2
  | 0x19 | 0x1A => 1
  | 0x1B => 0
  | _ => c
def fclass (c : Nat) : FClass :=
  match elemCode c with
  | 0 => .sint 2
  | 1 => .sint 4
  | 2 => .sint 8
  | 3 => .sint 16
  | 4 => .uint 4
  | 5 => .uint 8
  | 6 => .flt fE2M1
  | 7 => .flt fE2M3
  | 8 => .flt fE3M2
  | 9 => .flt fE4M3
  | 0xA => .flt fE5M2
  | 0xB => .flt fFP16
  | 0xC => .flt fBF16
  | 0xD => .flt fFP32
  | 0xE => .sx 2
  | 0xF => .sx 4
  | _ => .sx 7
def fmtReserved (c : Nat) : Bool := decide (0x1C ≤ c)
def isBlock (c : Nat) : Bool := decide (0x11 ≤ c)
def isSx (c : Nat) : Bool := c == 0xE || c == 0xF || c == 0x10
/-- Bits per element (R118). -/
def elemBits (c : Nat) : Nat :=
  match fclass c with
  | .sint n => n
  | .uint n => n
  | .flt f => fmtBits f
  | .sx m => m + 2
/-- Significand width, the largest pA (R118). -/
def sigWidth (c : Nat) : Nat :=
  match fclass c with
  | .sint n => n
  | .uint n => n
  | .flt f => f.m + 1
  | .sx m => m
/-- The block length, the scale's bytes and the scale's format of a block-scaled code (R127); E8M0 is `none`. -/
def blockLen (c : Nat) : Nat :=
  match c with
  | 0x11 => 8
  | 0x12 | 0x1B => 16
  | 0x1A => 64
  | _ => 32
def scaleBytes (c : Nat) : Nat := if 0x19 ≤ c then 2 else 1
def scaleFmt (c : Nat) : Option Fmt :=
  match c with
  | 0x11 => some fE5M2
  | 0x12 => some fE4M3
  | 0x19 | 0x1B => some fFP16
  | 0x1A => some fBF16
  | _ => none
/-- The value of an E8M0 scale (R128). -/
def e8m0Val (b : Nat) : XNum := if b = 255 then .nan else .fin false 1 ((b : Int) - 127)
def scaleVal (c b : Nat) : XNum :=
  match scaleFmt c with
  | some f => fltVal f b
  | none => e8m0Val b
/-- An integer as an exact value. -/
def intVal (v : Int) : XNum := .fin (decide (v < 0)) v.natAbs 0
/-- An element's bits with only the top pA significand planes read (R133). -/
def truncElem (c pA b : Nat) : Nat :=
  let cut (w : Nat) : Nat := b / 2 ^ (w - pA) * 2 ^ (w - pA)
  match fclass c with
  | .sint n => cut n
  | .uint n => cut n
  | .flt f => match fltVal f b with
    | .fin .. => cut (f.m + 1)
    | _ => b
  | .sx m => cut m
/-- The value of an element that is not in a shared-exponent group. -/
def elemVal (c b : Nat) : XNum :=
  match fclass c with
  | .sint n => intVal (signedOf n b)
  | .uint _ => .fin false b 0
  | .flt f => fltVal f b
  | .sx _ => .nan
/-- Element j of a shared-exponent group, given as a number (R125, R126). -/
def sxVal (m pA g j : Nat) : XNum :=
  let e := g % 256
  let mu := g / 2 ^ (8 + j / 2) % 2
  let el := g / 2 ^ (16 + j * (m + 1)) % 2 ^ (m + 1)
  let neg := el / 2 ^ m == 1
  let mag := el % 2 ^ m / 2 ^ (m - pA) * 2 ^ (m - pA)
  if e = 255 then .nan else .fin neg mag ((e : Int) - 127 - mu - (m - 1 : Nat))

/-- `n` bits at a bit offset of a run of bytes (R120). -/
def bitsOf (bs : List Byte) (bit n : Nat) : Nat :=
  leNat ((bs.drop (bit / 8)).take (n / 8 + 2)) / 2 ^ (bit % 8) % 2 ^ n
/-- Bytes of a packed row of `k` elements (R120). -/
def rowBytes (c k : Nat) : Nat :=
  match fclass c with
  | .sx m => ceilDiv k 16 * (2 + 2 * (m + 1))
  | _ => if elemBits c = 6 then ceilDiv k 4 * 3 else ceilDiv (k * elemBits c) 8
/-- Element k of a packed row in element form (R120, R125), under pA. -/
def rowElem (c pA : Nat) (bs : List Byte) (k : Nat) : XNum :=
  match fclass c with
  | .sx m => sxVal m pA (leNat ((bs.drop (k / 16 * (2 + 2 * (m + 1)))).take (2 + 2 * (m + 1)))) (k % 16)
  | _ => elemVal c (truncElem c pA (bitsOf bs (k * elemBits c) (elemBits c)))

/-! ### Plane form (R93) -/

/-- Put fields together, lowest first. -/
def packFields (fs : List (Nat × Nat)) : Nat :=
  match fs with
  | [] => 0
  | (w, v) :: r => v % 2 ^ w + 2 ^ w * packFields r
/-- Bit `i` of each of 16 elements of `w` bits at `base`, element 0 lowest. -/
def planeAt (g base w i : Nat) : Nat :=
  (List.range 16).foldl (fun n j => n + g / 2 ^ (base + j * w + i) % 2 * 2 ^ j) 0
/-- Bytes of a group of 16 elements. -/
def groupBytes (c : Nat) : Nat :=
  match fclass c with
  | .sx m => 2 + 2 * (m + 1)
  | _ => 2 * elemBits c
/-- A group of 16 elements from element form to plane form. -/
def toPlane (c g : Nat) : Nat :=
  match fclass c with
  | .flt f =>
    let n := fmtBits f
    packFields
      ((List.range 16).map (fun j => (f.e, g / 2 ^ (j * n + f.m) % 2 ^ f.e)) ++
        [(16, planeAt g 0 n (n - 1))] ++ (List.range f.m).map fun i => (16, planeAt g 0 n (f.m - 1 - i)))
  | .sx m =>
    packFields ([(16, g % 65536), (16, planeAt g 16 (m + 1) m)] ++
      (List.range m).map fun i => (16, planeAt g 16 (m + 1) (m - 1 - i)))
  | _ =>
    let n := elemBits c
    packFields ((List.range n).map fun i => (16, planeAt g 0 n (n - 1 - i)))
/-- Bit j of plane p of a group in plane form, the planes starting at bit `base`. -/
def planeBit (g base p j : Nat) : Nat := g / 2 ^ (base + 16 * p + j) % 2
/-- A group of 16 elements from plane form to element form. -/
def fromPlane (c g : Nat) : Nat :=
  match fclass c with
  | .flt f =>
    packFields ((List.range 16).map fun j =>
      (fmtBits f, packFields ((List.range f.m).map (fun i => (1, planeBit g (16 * f.e) (f.m - i) j)) ++
        [(f.e, g / 2 ^ (f.e * j) % 2 ^ f.e), (1, planeBit g (16 * f.e) 0 j)])))
  | .sx m =>
    packFields ((16, g % 65536) :: (List.range 16).map fun j =>
      (m + 1, packFields ((List.range m).map (fun i => (1, planeBit g 16 (m - i) j)) ++ [(1, planeBit g 16 0 j)])))
  | _ =>
    let n := elemBits c
    packFields ((List.range 16).map fun j => (n, packFields ((List.range n).map fun i => (1, planeBit g 0 (n - 1 - i) j))))
/-- A run of whole groups, converted one way or the other. -/
def planeBytes (toP : Bool) (c : Nat) (bs : List Byte) : List Byte :=
  let n := groupBytes c
  (List.range (bs.length / n)).flatMap fun i =>
    leBytes n ((if toP then toPlane c else fromPlane c) (leNat ((bs.drop (i * n)).take n)))

/-! ### Exact arithmetic -/

def xneg (x : XNum) : XNum :=
  match x with
  | .nan => .nan
  | .inf n => .inf !n
  | .fin n m e => .fin (!n) m e
def isNegX (x : XNum) : Bool :=
  match x with
  | .nan => false
  | .inf n => n
  | .fin n _ _ => n
def isZeroX (x : XNum) : Bool :=
  match x with
  | .fin _ 0 _ => true
  | _ => false
/-- −0. -/
def isNegZero (x : XNum) : Bool :=
  match x with
  | .fin true 0 _ => true
  | _ => false
/-- An exact product (R130). -/
def xmul (x y : XNum) : XNum :=
  match x, y with
  | .nan, _ => .nan
  | _, .nan => .nan
  | .inf a, .inf b => .inf (a != b)
  | .inf a, .fin b m _ => if m = 0 then .nan else .inf (a != b)
  | .fin a m _, .inf b => if m = 0 then .nan else .inf (a != b)
  | .fin a m e, .fin b k f => .fin (a != b) (m * k) (e + f)
/-- ±m as an integer. -/
def sgnInt (neg : Bool) (m : Nat) : Int := if neg then -(m : Int) else m
/-- An exact value in units of 2^u, for u at or below its exponent. -/
def inUnits (neg : Bool) (m : Nat) (e u : Int) : Int := sgnInt neg (m * 2 ^ (e - u).toNat)
/-- An exact sum; `zneg` is the sign of an exact zero sum of values that are not both −0. -/
def xadd (zneg : Bool) (x y : XNum) : XNum :=
  match x, y with
  | .nan, _ => .nan
  | _, .nan => .nan
  | .inf a, .inf b => if a = b then .inf a else .nan
  | .inf a, _ => .inf a
  | _, .inf b => .inf b
  | .fin a m e, .fin b k f =>
    let u := Min.min e f
    let v := inUnits a m e u + inUnits b k f u
    if v = 0 then .fin (if m = 0 ∧ k = 0 ∧ a = b then a else zneg) 0 0 else .fin (decide (v < 0)) v.natAbs u
/-- Compare two values that are not NaN. -/
def xcmp (x y : XNum) : Ordering :=
  match x, y with
  | .inf a, .inf b => if a = b then .eq else if a then .lt else .gt
  | .inf a, _ => if a then .lt else .gt
  | _, .inf b => if b then .gt else .lt
  | .fin a m e, .fin b k f =>
    let u := Min.min e f
    compare (inUnits a m e u) (inUnits b k f u)
  | _, _ => .eq
def isNaN (x : XNum) : Bool := x == .nan

/-- m / 2^k rounded to an integer in mode r (0 RNE, 1 toward zero, 2 down, 3 up), for a value of sign neg. -/
def roundShift (r : Nat) (neg : Bool) (m k : Nat) : Nat :=
  let q := m / 2 ^ k
  let t := m % 2 ^ k
  let up := match r with
    | 0 => decide (2 ^ k < 2 * t) || (decide (2 ^ k = 2 * t) && q % 2 == 1)
    | 1 => false
    | 2 => neg && t != 0
    | _ => !neg && t != 0
  if up then q + 1 else q
/-- An exact finite value rounded to an integer. -/
def roundToInt (r : Nat) (neg : Bool) (m : Nat) (e : Int) : Int :=
  if 0 ≤ e then sgnInt neg (m * 2 ^ e.toNat) else sgnInt neg (roundShift r neg m (-e).toNat)

/-- The pattern of an infinity, of the largest finite value, and of the NaN of a format (R124, R137, R146). -/
def infPat (f : Fmt) : Nat := (2 ^ f.e - 1) * 2 ^ f.m
def maxPat (f : Fmt) : Nat :=
  if f.ieee then (2 ^ f.e - 1) * 2 ^ f.m - 1 else if isE4M3 f then 0x7E else 2 ^ (f.e + f.m) - 1
def nanPat (f : Fmt) : Nat :=
  if f.ieee then (2 ^ f.e - 1) * 2 ^ f.m + 2 ^ (f.m - 1) else if isE4M3 f then 0x7F else maxPat f
def signPat (f : Fmt) (neg : Bool) (p : Nat) : Nat := (if neg then 2 ^ (f.e + f.m) else 0) + p
/-- A value rounded to the precision of a format with no upper bound on its exponent: the pattern number, which
runs on past the format's last pattern. -/
def roundPat (f : Fmt) (r : Nat) (neg : Bool) (m : Nat) (e : Int) : Nat :=
  let top : Int := e + (Nat.log2 m : Int)
  let q : Int := Max.max top (1 - (f.bias : Int)) - f.m
  let n := if q ≤ e then m * 2 ^ (e - q).toNat else roundShift r neg m (q - e).toNat
  -- q stands for exponent field q + M + bias, whose hidden bit is the 2^M of n; at the lowest q, n < 2^M is subnormal.
  n + (q + f.m + f.bias - 1).toNat * 2 ^ f.m
/-- convert(x, f, r) (R138, R146): the pattern, and whether a format without infinity saturated. -/
def convertF (f : Fmt) (r : Nat) (x : XNum) : Nat × Bool :=
  match x with
  | .nan => (nanPat f, false)
  | .inf neg => if f.ieee then (signPat f neg (infPat f), false) else (signPat f neg (maxPat f), true)
  | .fin neg m e =>
    if m = 0 then (signPat f neg 0, false)
    else
      let p := roundPat f r neg m e
      if p ≤ maxPat f then (signPat f neg p, false)
      else if f.ieee then
        let toInf := match r with
          | 0 => true
          | 1 => false
          | 2 => neg
          | _ => !neg
        (signPat f neg (if toInf then infPat f else maxPat f), false)
      else (signPat f neg (maxPat f), true)
/-- Bounds of an n-bit integer type. -/
def intLo (signed : Bool) (n : Nat) : Int := if signed then -(2 ^ (n - 1) : Nat) else 0
def intHi (signed : Bool) (n : Nat) : Int := if signed then (2 ^ (n - 1) : Nat) - 1 else (2 ^ n : Nat) - 1
def clampInt (signed : Bool) (n : Nat) (v : Int) : Int := Max.max (intLo signed n) (Min.min (intHi signed n) v)
/-- A float value as an integer of a type (R138, R146): the integer, and whether it saturated. NaN gives 0. -/
def convertI (signed : Bool) (n r : Nat) (x : XNum) : Int × Bool :=
  match x with
  | .nan => (0, false)
  | .inf neg => (if neg then intLo signed n else intHi signed n, true)
  | .fin neg m e =>
    let v := roundToInt r neg m e
    let c := clampInt signed n v
    (c, c != v)

/-! ### Terms (R131) -/

/-- The exact sum of a block's products (R131 step 1). -/
def blockSum (ps : List XNum) : XNum :=
  let infs := ps.filter fun p => match p with
    | .inf _ => true
    | _ => false
  if ps.any isNaN then .nan
  else match infs with
    | i :: r => if r.all (fun j => j == i) then i else .nan
    | [] => if ps.all isNegZero then .fin true 0 0 else ps.foldl (xadd false) (.fin false 0 0)

/-! ### The accumulator (R134 to R139) -/

def accMax : Int := 2 ^ 47 - 1
/-- Add a term (R135). -/
def accAdd (d : BitVec 16) (a : Acc) (x : XNum) : Acc :=
  let a : Acc := match x with
    | .nan => { a with n := true }
    | .inf true => { a with im := true }
    | .inf false => { a with ip := true }
    | .fin neg m e =>
      let v := a.val.toInt + roundToInt 0 neg m (e - d.toInt)
      if accMax < v then { a with val := BitVec.ofInt 48 accMax, s := true }
      else if v < -accMax then { a with val := BitVec.ofInt 48 (-accMax), s := true }
      else { a with val := BitVec.ofInt 48 v }
  { a with n := a.n || (a.ip && a.im), z := a.z && isNegZero x }
/-- The element's value with its flags (R137, before the tensor scales): `none` is NaN. -/
def accBase (v : Int) (n ip im z : Bool) (d : Int) : XNum :=
  if n then .nan else if ip then .inf false else if im then .inf true
  else if v = 0 then .fin z 0 0 else .fin (decide (v < 0)) v.natAbs d
/-- The output formats of a read-out. -/
inductive OutFmt where
  | flt (f : Fmt) | int (n : Nat)
  deriving DecidableEq, Repr
/-- A read-out with one rounding (R137, R138): the pattern, NAN set, SAT set. -/
def readOut (o : OutFmt) (r : Nat) (sat : Bool) (x : XNum) : Nat × Bool × Bool :=
  match x, o with
  | .nan, .flt f => (nanPat f, true, false)
  | .nan, .int n => (2 ^ (n - 1) - 1, true, false)
  | .fin neg m e, .flt f =>
    if sat then (signPat f neg (maxPat f), false, true)
    else let (p, t) := convertF f r (.fin neg m e); (p, false, t)
  | .fin neg m e, .int n =>
    if sat then ((if neg then 2 ^ (n - 1) else 2 ^ (n - 1) - 1), false, true)
    else let (v, t) := convertI true n r (.fin neg m e); ((BitVec.ofInt n v).toNat, false, t)
  | .inf neg, .flt f => let (p, t) := convertF f r (.inf neg); (p, false, t)
  | .inf neg, .int n => let (v, t) := convertI true n r (.inf neg); ((BitVec.ofInt n v).toNat, false, t)
/-- The raw word of an element (R139). -/
def accRaw (a : Acc) : Word :=
  BitVec.ofBool a.n ++ BitVec.ofBool a.ip ++ BitVec.ofBool a.im ++ BitVec.ofBool a.z ++ BitVec.ofBool a.s ++
    a.val.signExtend 59
/-- An element from its raw word. -/
def accOfRaw (w : Word) : Acc :=
  { val := w.setWidth 48, n := bitAt w 63, ip := bitAt w 62, im := bitAt w 61, z := bitAt w 60, s := bitAt w 59 }

end Sys2Proof.Machine
end

