-- ==== Sys2Proof/Machine/Ops.lean ====
section
/-! DEFINITION. The named operations over the state: finding and changing a stream, a core, a die, a gang or
an Atlas register; registers, latches and landings (R24 to R30, R50); tokens (R12 to R18); taking a fault
(R350, R352, R361 to R364, R402) and returning from one; and the one operation that issues a word (R40). -/
namespace Sys2Proof.Machine

/-- The three outcomes of an instruction. -/
abbrev Out := Host.Outcome State Fault Refusal

/-! ### Places -/

/-- A Steward's stream (log entry 1 gives the numbering). -/
def isSW (sid : Nat) : Bool := decide (2048 ≤ sid)
/-- The package-wide core number 64·die + core id of a compute stream. -/
def coreOf (sid : Nat) : Nat := sid / 4
/-- The kind of a stream: 0 LD, 1 MA, 2 VX, 3 ST, 4 SW. -/
def kindOf (sid : Nat) : Nat := if isSW sid then 4 else sid % 4
def dieOf (cid : Nat) : Nat := cid / 64
/-- The agent number of the memory model: a stream by its number, a command above all streams (R275). -/
def agentOf (cid : Nat) (seq : BitVec 32) : Nat := 4096 + cid * 2 ^ 32 + seq.toNat

def streamAt (s : State) (sid : Nat) : Stream :=
  (aget s.streams sid).getD (if isSW sid then { Stream.zero with phase := .halted } else Stream.zero)
def putStream (s : State) (sid : Nat) (st : Stream) : State := { s with streams := aput s.streams sid st }
def modStream (s : State) (sid : Nat) (f : Stream → Stream) : State := putStream s sid (f (streamAt s sid))
def coreAt (s : State) (cid : Nat) : Core := (aget s.cores cid).getD Core.zero
def putCore (s : State) (cid : Nat) (c : Core) : State := { s with cores := aput s.cores cid c }
def modCore (s : State) (cid : Nat) (f : Core → Core) : State := putCore s cid (f (coreAt s cid))
def dieAt (s : State) (d : Nat) : Die := (aget s.dies d).getD Die.zero
def putDie (s : State) (d : Nat) (x : Die) : State := { s with dies := aput s.dies d x }
def modDie (s : State) (d : Nat) (f : Die → Die) : State := putDie s d (f (dieAt s d))
/-- Steward `n`, 16·(I/O die) + number. -/
def stewardAt (s : State) (n : Nat) : Steward := (aget s.stewards n).getD Steward.zero
def modSteward (s : State) (n : Nat) (f : Steward → Steward) : State :=
  { s with stewards := aput s.stewards n (f (stewardAt s n)) }
def gangAt (s : State) (g : Nat) : Option Gang := aget s.gangs g
def putGang (s : State) (g : Nat) (x : Gang) : State := { s with gangs := aput s.gangs g x }
def modGang (s : State) (g : Nat) (f : Gang → Gang) : State :=
  match gangAt s g with
  | some x => putGang s g (f x)
  | none => s
/-- The key of the gang a core runs for. -/
def gangKey (s : State) (cid : Nat) : Option Nat := (coreAt s cid).gang.map fun g => 64 * dieOf cid + g
def gangOfCore (s : State) (cid : Nat) : Option Gang := (gangKey s cid).bind (gangAt s)

/-- The member cores of a gang with key `g`, in rank order (R342). -/
def membersOf (g : Nat) (x : Gang) : List Nat :=
  (List.range (x.h * x.w)).map fun i => g / 64 * 64 + x.origin + 16 * (i / x.w) + i % x.w
/-- The rank of a core in its gang (R45). -/
def rankIn (x : Gang) (cid : Nat) : Nat :=
  let o := cid % 64 - x.origin
  o / 16 * x.w + o % 16

/-- A fresh identity for an access, a landing or an update. -/
def fresh (s : State) : Nat × State := (s.nextId, { s with nextId := s.nextId + 1 })
/-- A free value (log entry 3): nothing constrains it. -/
def freeVal (s : State) (n : Nat) : BitVec n × State :=
  (Config.freeBits s.freeCtr n, { s with freeCtr := s.freeCtr + 1 })

/-! ### Atlas registers (R261, R262) -/

def dieBlock (d : Nat) : Nat := 0x9000000000 + d * 0x10000000
def ioBlock (io : Nat) : Nat := 0x9080000000 + io * 0x10000000
/-- What an Atlas register holds before anything is written: 0, but the mask bit of an MSI-X entry, which
PCIe sets (R463; log entry 35). -/
def atlasReset (pa : Nat) : BitVec 64 :=
  let o := pa - 0x9080000000
  let r := o % 0x10000000
  if 0x9080000000 ≤ pa ∧ o < 0x20000000 ∧ 0x04002000 ≤ r ∧ r < 0x04002800 ∧ r % 16 = 8 then 0x100000000 else 0
def areg (s : State) (pa : Nat) : BitVec 64 := (aget s.atlas (pa / 8)).getD (atlasReset pa)
def setAreg (s : State) (pa : Nat) (v : BitVec 64) : State := { s with atlas := aput s.atlas (pa / 8) v }
def errstatPa (d : Nat) : Nat := dieBlock d + 0x01004208
def exstatPa (d : Nat) : Nat := dieBlock d + 0x02000110
/-- Count an ignored write in ERRSTAT [63:32] of a die (R261). -/
def countIgnored (s : State) (d : Nat) : State :=
  let v := areg s (errstatPa d)
  setAreg s (errstatPa d) (setFld v 63 32 (fld v 63 32 + 1))
/-- Record an ignored write to an I/O die's Atlas block (R398, R448, R465). -/
def countIoIgnored (s : State) (io : Nat) : State :=
  { s with ioIgnored := vset s.ioIgnored io (vget s.ioIgnored io 0 + 1) }
/-- Set a bit of EXSTAT (R261). -/
def setExstat (s : State) (d bit : Nat) : State :=
  setAreg s (exstatPa d) (areg s (exstatPa d) ||| BitVec.ofNat 64 (2 ^ bit))

/-! ### Places in memory and scopes (R258, R259, R263, R280, R291, R292) -/

/-- The vault, which is the slice, of an HBM die offset (R259). -/
def vaultOf (o : Nat) : Nat :=
  let l := o / 128
  if o < 0x800000000 then
    (l % 64) ^^^ (l / 64 % 64) ^^^ (l / 4096 % 64) ^^^ (l / 262144 % 64) ^^^ (l / 16777216 % 32)
  else if o < 0xC00000000 then nfld o 33 28
  else nfld (o - 0xC00000000) 17 12
/-- What a physical address of this package names (R258). -/
inductive Place where
  /-- HBM or carved storage: die and home slice. -/
  | hbm (die slice : Nat) | carve (die slice off : Nat) | atlas | fabric (pkg off : Nat) | host (link off : Nat) | hole
  deriving DecidableEq, Repr
def placeOf (pa : Nat) : Place :=
  if pa < 0x8000000000 then .hbm (pa / 2 ^ 36) (vaultOf (pa % 2 ^ 36))
  else if pa < 0x8200000000 then
    let o := pa - 0x8000000000
    .carve (o / 0x40000000) (o % 0x40000000 / 0x1000000) (o % 0x1000000)
  else if 0x9000000000 ≤ pa ∧ pa < 0xA000000000 then .atlas
  else if 0x1000000000000 ≤ pa ∧ pa < 0x1400000000000 then
    .fabric ((pa - 0x1000000000000) / 2 ^ 40) ((pa - 0x1000000000000) % 2 ^ 40)
  else if 0x8000000000000 ≤ pa ∧ pa < 0xC000000000000 then
    .host ((pa - 0x8000000000000) / 2 ^ 48) (pa % 2 ^ 48)
  else .hole
/-- The package id (R447, R448). -/
def packageId (s : State) : Nat :=
  let f := areg s (ioBlock 0 + 0x04000100)
  fld f 1 0 + 4 * fld f 3 2 + 16 * fld f 5 4
/-- The local address that a PA names: the window of the issuing package aliases it, but for the hole that follows its
HBM and carve windows (R451). -/
def localPa (s : State) (pa : Nat) : Nat :=
  match placeOf pa with
  | .fabric p o => if p = packageId s ∧ o < 0x8200000000 then o else pa
  | _ => pa
/-- The packages of the fabric (R448), as a set. -/
def fabricSet (s : State) : BitVec 64 :=
  let f := areg s (ioBlock 0 + 0x04000100)
  let xs := fld f 9 8 + 1
  let ys := fld f 11 10 + 1
  let zs := fld f 13 12 + 1
  BitVec.ofNat 64 (((List.range 64).filter fun p => p % 4 < xs ∧ p / 4 % 4 < ys ∧ p / 16 < zs).foldl
    (fun n p => n + 2 ^ p) 0)
/-- A set of die positions from a predicate on core or slice numbers 64d + n (R289). -/
def setOf (f : Nat → Bool) : BitVec 512 :=
  BitVec.ofNat 512 ((List.range 512).foldl (fun n i => if f i then n + 2 ^ i else n) 0)
def full512 : BitVec 512 := BitVec.allOnes 512
/-- A fixed scope as computed for a core (R292, R322); GEN is 0 and VALID 1. -/
def fixedScope (s : State) (cid idx : Nat) : Scope :=
  let die : BitVec 512 := BitVec.ofNat 512 ((2 ^ 64 - 1) * 2 ^ (64 * dieOf cid))
  let own : BitVec 512 := BitVec.ofNat 512 (2 ^ cid)
  let cl : BitVec 512 := BitVec.ofNat 512 (15 * 2 ^ (cid / 4 * 4))
  match idx with
  | 0 => { hdr := 1, pkgs := 0, cores := own, slices := 0 }
  | 1 => { hdr := 1, pkgs := 0, cores := own, slices := die }
  | 2 => { hdr := 1, pkgs := 0, cores := cl, slices := cl }
  | 3 =>
    let g := match gangKey s cid with
      | some k => (match gangAt s k with
        | some x => BitVec.ofNat 512 ((membersOf k x).foldl (fun n m => n + 2 ^ m) 0)
        | none => own)
      | none => own
    { hdr := 1, pkgs := 0, cores := g, slices := g }
  | 4 => { hdr := 1, pkgs := 0, cores := die, slices := die }
  | 5 => { hdr := 1, pkgs := 0, cores := full512, slices := full512 }
  | 6 => { hdr := 1, pkgs := fabricSet s, cores := full512, slices := full512 }
  | _ => { hdr := 0x10001, pkgs := fabricSet s, cores := full512, slices := full512 }
/-- The package is in the packages of a scope (R289, R293). -/
def pkgIn (s : State) (sc : Scope) (p : Nat) : Bool :=
  if sc.pkgs = 0 then decide (p = packageId s) else bitAt sc.pkgs p
/-- A location is in a scope (R280, R291). DESIGN CHOICE (log entry 114): Atlas space is in a scope exactly when its HOST bit is
1. -/
def paIn (s : State) (sc : Scope) (pa : Nat) : Bool :=
  match placeOf pa with
  | .hbm d v => pkgIn s sc (packageId s) && bitAt sc.slices (64 * d + v)
  | .carve d v _ => pkgIn s sc (packageId s) && bitAt sc.slices (64 * d + v)
  | .fabric p o =>
    pkgIn s sc p && (match placeOf o with
      | .hbm d v => bitAt sc.slices (64 * d + v)
      | .carve d v _ => bitAt sc.slices (64 * d + v)
      | _ => false)
  | .host _ _ => bitAt sc.hdr 16
  | .atlas => bitAt sc.hdr 16
  | .hole => false
/-- An operation in flight that acquires when it is performed: a peer SINCW, SFAB or RSTEAL (R213, R217), KVMAP (R437). -/
def acqOp (o : ReqOp) : Bool :=
  match o with
  | .kvmap .. => true
  | .peer _ p => match p with
    | .sincw .. | .sfab .. | .rsteal .. => true
    | _ => false
  | _ => false
/-- An access reads what is shared into a register: a release waits until it has its value (R280). A circuit value is no
access (R276, R329). -/
def isLoadOp (o : ReqOp) : Bool :=
  acqOp o || (match o with
    | .load .. => true
    | .peer _ p => match p with
      | .load .. | .vload .. | .srd .. | .rstat .. => true
      | _ => false
    | _ => false)
/-- A load or an atomic: an acquire waits until it has taken its value (R280). -/
def takesValue (o : ReqOp) : Bool :=
  isLoadOp o || (match o with
    | .atomic .. => true
    | _ => false)
/-- An acquire of the stream is still to be performed: none of its later accesses is performed before it (R280, R288). DEDUCED
(log entry 126): those wait at issue. -/
def acqWaits (s : State) (sid : Nat) : Bool := s.requests.any fun r => r.sid == sid && acqOp r.op
/-- An acquire in flight waits until every earlier load and atomic of its stream has taken its value (R280). -/
def acqLate (s : State) (r : Req) : Bool :=
  acqOp r.op && s.requests.any fun q => q.sid == r.sid && decide (q.id < r.id) && takesValue q.op
/-- An access that a release at a scope waits for (R280): a load, or a write to a location in the scope. -/
def reqWaits (s : State) (sc : Scope) (r : Req) : Bool :=
  isLoadOp r.op || (match r.op with
    | .peer t _ => bitAt sc.cores t
    | .crcv _ => false
    | _ => paIn s sc r.pa)
/-- The accesses that a release of the stream at a scope waits for. -/
def waitSet (s : State) (sid : Nat) (sc : Scope) : List Nat :=
  (s.requests.filter fun r => r.sid == sid && reqWaits s sc r).map fun r => r.id
/-- The release of a stream at a scope is complete (R280). -/
def quiet (s : State) (sid : Nat) (sc : Scope) : Bool := (waitSet s sid sc).isEmpty

/-- Claims of an agent are released (R299): those on a line, for writing or for reading, that are selected. -/
def dropClaims (s : State) (agent : Nat) (sel : Nat → Bool → Bool) : State :=
  if s.claims = [] then s
  else
    let drop (e : Nat × Claim) : Nat × Claim :=
      (e.1, { e.2 with
        writer := if e.2.writer == some agent && sel e.1 true then none else e.2.writer
        readers := e.2.readers.filter fun r => !(r == agent && sel e.1 false) })
    { s with claims := (s.claims.map drop).filter fun e => e.2.writer.isSome || !e.2.readers.isEmpty }
/-- The end of a region of an agent: every claim it holds is released (R299). -/
def endRegion (s : State) (agent : Nat) : State := dropClaims s agent fun _ _ => true
/-- The claims that an agent holds: the line, and whether it is the write claim. -/
def heldClaims (s : State) (agent : Nat) : List (Nat × Bool) :=
  s.claims.flatMap fun e =>
    (if e.2.writer == some agent then [(e.1, true)] else []) ++ if e.2.readers.contains agent then [(e.1, false)] else []
/-- The claims of a stream whose region has ended at a word that pushes, and that its release, when the tokens turn visible, is to
give up (R15, R279, R299). -/
def closingOf (s : State) (sid : Nat) : List (Nat × Bool) :=
  ((coreAt s (coreOf sid)).pushes.filter fun p => p.stream == sid).flatMap fun p => p.closing
/-- A claim is taken in the open region: the release of an earlier push leaves it. -/
def keepClaim (s : State) (sid line : Nat) (wr : Bool) : State :=
  if !(closingOf s sid).contains (line, wr) then s
  else modCore s (coreOf sid) fun c =>
    { c with pushes := mapIf (fun p => p.stream == sid) (fun p => { p with closing := p.closing.filter fun e => e != (line, wr) }) c.pushes }
/-- An acquire of a stream at a scope whose core set holds its core (R92, R280): the L1 is invalidated, and a
new region opens (R299). -/
def acquire (s : State) (sid : Nat) : State :=
  endRegion (if isSW sid then s else modCore s (coreOf sid) fun c => { c with l1 := [] }) sid

/-! ### Registers, latches, landings -/

/-- The scalar value of a register field (R24, R25, R30). -/
def readX (st : Stream) (r : Nat) : Word :=
  if r < 28 then (if r = 0 then 0 else vget st.x r 0) else ((vget st.latch (r - 28) none).getD 0).setWidth 64
/-- The vector value of a register field. -/
def readV (st : Stream) (r : Nat) : VWord :=
  if r < 28 then vget st.v r 0 else (vget st.latch (r - 28) none).getD 0
/-- The mask of an m field (R149). -/
def readM (st : Stream) (m : Nat) : BitVec 256 := if m = 0 then BitVec.allOnes 256 else vget st.m (m - 1) 0
/-- The integer of a register group (R62): register r holds the low bits. -/
def readGroup (st : Stream) (r : Nat) : Nat → Nat
  | 0 => 0
  | k + 1 => (readX st r).toNat + 2 ^ 64 * readGroup st (r + 1) k

/-- A source field of a form, for the checks of R40 step 3. -/
inductive Src where
  | x (r : Nat) | xs (r n : Nat) | v (r : Nat) | vs (r n : Nat)
  deriving DecidableEq, Repr

def pending (st : Stream) (l : Loc) : Bool := st.outst.any fun o => o.regs.contains l
/-- Stale Latch (0x03) or Unwaited Read (0x04) of one field (R40, R53, R60). Reading x0 waits for nothing. -/
def srcFault (st : Stream) (f : Src) : Option (BitVec 8) :=
  let latch (r : Nat) (p : Bool) : Option (BitVec 8) :=
    if 28 ≤ r then (if (vget st.latch (r - 28) none).isNone then some 0x03 else none)
    else if p then some 0x04 else none
  match f with
  | .x r => latch r (r != 0 && pending st (.x r))
  | .xs r n => latch r ((List.range n).any fun i => r + i != 0 && pending st (.x (r + i)))
  | .v r => latch r (pending st (.v r))
  | .vs r n => latch r ((List.range n).any fun i => pending st (.v (r + i)))
def srcsFault (st : Stream) (fs : List Src) : Option (BitVec 8) :=
  match fs with
  | [] => none
  | f :: r => match srcFault st f with
    | some c => some c
    | none => srcsFault st r

/-- One register write; x0 discards it (R25), and only the bits of the mask change (R149). -/
def applyWrite (st : Stream) (w : Write) : Stream :=
  let mix (old : VWord) : VWord := (old &&& ~~~w.mask) ||| (w.val &&& w.mask)
  match w.loc with
  | .x i => if i = 0 then st else { st with x := vset st.x i ((mix ((vget st.x i 0).setWidth 2048)).setWidth 64) }
  | .v i => { st with v := vset st.v i (mix (vget st.v i 0)) }
  | .m i => { st with m := vset st.m (i - 1) ((mix ((vget st.m (i - 1) 0).setWidth 2048)).setWidth 256) }
def applyWrites (st : Stream) (ws : List Write) : Stream := ws.foldl applyWrite st

/-- Enter a value into the latches (R28). -/
def enterLatch (st : Stream) (v : VWord) : Stream :=
  { st with latch := #v[some v, vget st.latch 0 none, vget st.latch 1 none, vget st.latch 2 none] }
/-- One landing (R29, R149): the registers are written, and b0 takes the lowest register's new value. -/
def landFlight (st : Stream) (f : Flight) : Stream :=
  let st' := applyWrites st f.writes
  let v := match f.writes with
    | [] => f.latch
    | w :: _ => match w.loc with
      | .x _ => f.latch
      | .v i => vget st'.v i 0
      | .m i => (vget st'.m (i - 1) 0).setWidth 2048
  enterLatch st' v
/-- Every landing due at the stream's slot or before (R50), in the order of R29. -/
def landDue (st : Stream) : Stream :=
  (st.flying.takeWhile fun f => decide (f.due ≤ st.slot)).foldl landFlight
    { st with flying := st.flying.dropWhile fun f => decide (f.due ≤ st.slot) }
/-- Put a landing in its place: after those due at the same slot or earlier (R29). -/
def addFlight (fl : List Flight) (f : Flight) : List Flight :=
  (fl.takeWhile fun g => decide (g.due ≤ f.due)) ++ f :: (fl.dropWhile fun g => decide (g.due ≤ f.due))
/-- land(…, L) of R62: the writes land at slot s + L. The answer is the landing's identity. -/
def landIn (s : State) (sid : Nat) (ws : List Write) (latch : VWord) (lat : Nat) : Nat × State :=
  let (id, s) := fresh s
  (id, modStream s sid fun st =>
    { st with flying := addFlight st.flying { id := id, due := st.slot + lat, writes := ws, latch := latch } })

def fullMask : VWord := BitVec.allOnes 2048
/-- A write of a scalar register. -/
def wX (r : Nat) (v : Word) : Write := { loc := .x r, val := v.setWidth 2048, mask := fullMask }
/-- A write of a vector register under a bit mask. -/
def wV (r : Nat) (v mask : VWord) : Write := { loc := .v r, val := v, mask := mask }

/-! ### What a form does at issue -/

/-- What follows from a form's effect: when its pushes are made, where the stream goes, a safe point; and whether what a
waiting form did stands while it still waits for its tokens (R207 step 2). -/
structure After where
  push : PushWhen := .now
  jump : Option (BitVec 18) := none
  safe : Bool := false
  work : Bool := false
  deriving DecidableEq, Repr

/-- The outcome of a form's own checks and effect at issue. -/
inductive Res where
  /-- It does not issue yet. -/
  | stall (s : State)
  /-- A precise fault: code, the VA field, the seat. -/
  | fault (s : State) (code : BitVec 8) (va : Word)
  /-- It issues. -/
  | done (s : State) (a : After)
  /-- It is over, and the state is as given. -/
  | raw (s : State)
  deriving DecidableEq, Repr

/-- land a scalar result with its pushes at the landing (R15, R62). -/
def landX (s : State) (sid : Nat) (nw : Bool) (d : Nat) (v : Word) (lat : Nat) : Res :=
  let (id, s) := landIn s sid (if nw then [] else [wX d v]) (v.setWidth 2048) lat
  .done s { push := .landed id }

/-! ### Rings of code and loops -/

def swBase (sid : Nat) : Nat := ioBlock ((sid - 2048) / 16) + 0x07000000 + 0x200000 * ((sid - 2048) % 16)
/-- The size of a stream's code ring in words (R42, R86); 0 before any leg. -/
def ringSize (s : State) (sid : Nat) : Nat :=
  if isSW sid then 262144
  else
    let l := vget (coreAt s (coreOf sid)).ringLog (kindOf sid) 0
    if l = 0 then 0 else 2 ^ l
/-- The word at the PC (R11, R42, R400). -/
def fetchWord (s : State) (sid : Nat) : IWord :=
  let pc := (streamAt s sid).pc.toNat
  let b := if isSW sid then mread s.mem (swBase sid + 4 * pc) 4
    else
      let c := coreAt s (coreOf sid)
      mread c.scratch (vget c.ringBase (kindOf sid) 0 + 4 * pc) 4
  match b with
  | [b0, b1, b2, b3] => wordOfBytes b0 b1 b2 b3
  | _ => 0
/-- A PC in the ring, from an exact index (R21, R42). -/
def ringPc (s : State) (sid : Nat) (v : Int) : BitVec 18 := BitVec.ofNat 18 (v % (ringSize s sid : Int)).toNat
/-- The PC of the next word in sequence (R42). -/
def nextPc (s : State) (sid : Nat) : BitVec 18 := ringPc s sid ((streamAt s sid).pc.toNat + 1)

/-- The fields of LOOPSTATE: count, start, end (R47, R86). -/
def loopCount (sw : Bool) (l : BitVec 64) : Nat := if sw then fld l 27 0 else fld l 31 0
def loopStart (sw : Bool) (l : BitVec 64) : Nat := if sw then fld l 45 28 else fld l 47 32
def loopEnd (sw : Bool) (l : BitVec 64) : Nat := if sw then fld l 63 46 else fld l 63 48
def mkLoop (sw : Bool) (count start last : Nat) : BitVec 64 :=
  if sw then BitVec.ofNat 64 (count % 2 ^ 28 + start * 2 ^ 28 + last * 2 ^ 46)
  else BitVec.ofNat 64 (count % 2 ^ 32 + start * 2 ^ 32 + last * 2 ^ 48)
/-- End-of-loop processing (R46, R85): the loop state and the PC after the instruction at `pc`. DESIGN CHOICE (log
entry 77): a start index at or above the ring size, which only a CSRW can write, becomes the PC as it is. -/
def loopStep (sw : Bool) (l : BitVec 64) (pc seq : BitVec 18) (jump : Option (BitVec 18)) : BitVec 64 × BitVec 18 :=
  let n := loopCount sw l
  if n ≠ 0 ∧ loopEnd sw l = pc.toNat then
    (mkLoop sw (n - 1) (loopStart sw l) (loopEnd sw l),
      match jump with
      | some t => t
      | none => if n - 1 ≠ 0 then BitVec.ofNat 18 (loopStart sw l) else seq)
  else (l, jump.getD seq)

/-! ### Tokens (R12 to R15). Queue k runs from stream k to its successor, queue 4 + k to its predecessor. -/

def wp (tk : Tok) : Bool := bitAt tk 3
def ws (tk : Tok) : Bool := bitAt tk 2
def sp (tk : Tok) : Bool := bitAt tk 1
def ss (tk : Tok) : Bool := bitAt tk 0
def popQueues (k : Nat) (tk : Tok) : List Nat :=
  (if wp tk then [(k + 3) % 4] else []) ++ (if ws tk then [4 + (k + 1) % 4] else [])
def pushQueues (k : Nat) (tk : Tok) : List Nat :=
  (if sp tk then [4 + k] else []) ++ (if ss tk then [k] else [])
/-- Every queue popped holds a token, and every queue pushed has a free place (R14, R15). -/
def tokensReady (s : State) (sid : Nat) (tk : Tok) : Bool :=
  let c := coreAt s (coreOf sid)
  let k := kindOf sid
  (popQueues k tk).all (fun q => !(vget c.queues q []).isEmpty) &&
    (pushQueues k tk).all fun q => decide ((vget c.queues q []).length + vget c.reserved q 0 < 8)
/-- Commands and their transitive predecessors, by the checker's records (R112, R113). -/
def closure (recs : List Rec) (fuel : Nat) (seqs : List (BitVec 32)) : List (BitVec 32) :=
  match fuel with
  | 0 => seqs
  | n + 1 =>
    let more := (recs.filter fun r => seqs.contains r.seq).flatMap fun r => r.preds
    closure recs n ((seqs ++ more).eraseDups)
/-- Settle commands, with their predecessors, for a stream (R113). -/
def settle (c : Core) (k : Nat) (seqs : List (BitVec 32)) : Core :=
  let all := if seqs.isEmpty then [] else closure c.recs 64 seqs
  let mark (r : Rec) : Rec :=
    if all.contains r.seq && !r.settled.contains k then { r with settled := k :: r.settled } else r
  { c with recs := c.recs.map mark }
/-- Take one token of a queue; it settles the commands it carries (R113). -/
def popOne (k : Nat) (c : Core) (q : Nat) : Core :=
  match vget c.queues q [] with
  | [] => c
  | t :: r => settle { c with queues := vset c.queues q r } k t
/-- All the pops of an instruction, at once (R14); a pop acquires at CORE (R279). -/
def takePops (s : State) (sid : Nat) (tk : Tok) : State :=
  if popQueues (kindOf sid) tk = [] then s
  else acquire (modCore s (coreOf sid) fun c => (popQueues (kindOf sid) tk).foldl (popOne (kindOf sid)) c) sid
/-- No pop was taken (R16): the queues, the records, the L1, the claims and what pushes will release are as they were. -/
def undoPops (s before : State) (sid : Nat) (tk : Tok) : State :=
  if popQueues (kindOf sid) tk = [] then s
  else
    let c0 := coreAt before (coreOf sid)
    { modCore s (coreOf sid) (fun c => { c with queues := c0.queues, recs := c0.recs, l1 := c0.l1, pushes := c0.pushes }) with
      claims := before.claims }
/-- The accesses that a release at CORE made now by the stream waits for (R15). -/
def releaseSet (s : State) (sid : Nat) : List Nat := waitSet s sid (fixedScope s (coreOf sid) 1)
/-- Reserve the pushes of an instruction (R15): a region of the stream ends (R296). The claims that it holds are given up when the
tokens turn visible, and those of later accesses belong to the next region (DEDUCED, log entry 127). -/
def reservePushes (s : State) (sid : Nat) (tk : Tok) (cond : PushWhen) (rel : List Nat) : State :=
  let qs := pushQueues (kindOf sid) tk
  if qs = [] then s
  else modCore s (coreOf sid) fun c =>
    { c with
      reserved := qs.foldl (fun v q => vset v q (vget v q 0 + 1)) c.reserved
      pushes := c.pushes ++ [
        { stream := sid, queues := qs, cond := cond, rel := rel,
          settle := match cond with
            | .retired q => [q]
            | _ => []
          closing := heldClaims s sid }] }

/-! ### Events that reach Stewards and hosts -/

/-- Set a bit of SEVENT in every Steward (R401). -/
def eventAll (s : State) (bit : Nat) : State :=
  forN 32 (fun n s => modSteward s n fun w => { w with sevent := w.sevent ||| BitVec.ofNat 64 (2 ^ bit) }) s
def msixEntry (link vec : Nat) : Nat := ioBlock (link / 2) + 0x04002000 + 0x400 * (link % 2) + 16 * vec
def msixPba (link : Nat) : Nat := ioBlock (link / 2) + 0x04003000 + 8 * (link % 2)
/-- Raise a vector on one host link: send, or set the pending bit while it is masked or its function has MSI-X disabled
(R463; log entry 35). -/
def msixOn (s : State) (link vec : Nat) : State :=
  let h := vget s.hostLinks link { trained := false, cxl := false }
  if !h.trained then s
  else if bitAt (areg s (msixEntry link vec + 8)) 32 || !h.msix then
    setAreg s (msixPba link) (areg s (msixPba link) ||| BitVec.ofNat 64 (2 ^ vec))
  else { s with msiSent := s.msiSent ++ [(link, vec)] }
/-- Raise a vector on every trained host link of the package (R463). -/
def msixAll (s : State) (vec : Nat) : State := forN 4 (fun l s => msixOn s l vec) s
/-- Raise a vector on the host links of one I/O die. -/
def msixIo (s : State) (io vec : Nat) : State := msixOn (msixOn s (2 * io) vec) (2 * io + 1) vec

/-! ### Taking a fault -/

/-- The class of a fault code (R362). -/
def classOf (code : BitVec 8) : Nat :=
  match code.toNat with
  | 0x20 | 0x21 | 0x22 | 0x29 | 0x30 | 0x38 | 0x3A | 0x40 | 0x50 => 1
  | 0x48 | 0x49 => 3
  | 0xF0 => 4
  | _ => 2

/-- Page Not Present, Permission and Layout Mismatch are the translation faults (R359). -/
def isTranslation (code : BitVec 8) : Bool := code == 0x20 || code == 0x21 || code == 0x22

/-- What a fault says of itself before it is numbered (R364). -/
structure FaultInfo where
  die : Nat
  core : Nat := 0xFF
  agent : Nat
  gang : Nat := 0xFF
  seat : Nat := 0xFFFF
  code : BitVec 8
  va : Word := 0
  pc : BitVec 32 := 0
  leg : BitVec 32 := 0
  tick : BitVec 48 := 0
  ctx : Nat := 0
  deriving DecidableEq, Repr

/-- A circuit receive that waits for its value (R330). -/
def isReceive (r : Req) : Bool :=
  match r.op with
  | .crcv _ => true
  | _ => false
/-- Such a receive of a core. -/
def receiveOf (cid : Nat) (r : Req) : Bool := !isSW r.sid && coreOf r.sid == cid && isReceive r
/-- An outstanding write that waits for a circuit value. -/
def waitsValue (s : State) (cid o : Nat) : Bool := s.requests.any fun r => receiveOf cid r && r.outst == some o
/-- Issue stops on every stream of a gang's members; a MIG that waits and whatever holds for a fault is
discarded, and so is a circuit receive, which would wait for ever (R330); other commands run on (R350). DESIGN CHOICE (log entry
120): the gang's entries that were raised and not yet posted are dropped too in that they name nothing to resolve any more (R366),
and each is still written to the fault queue when its turn comes. -/
def stopGang (s : State) (g : Nat) (x : Gang) (code : BitVec 8) : State :=
  let ms := membersOf g x
  let s := ms.foldl (fun s m => ((coreAt s m).cmds.filter discarded).foldl (fun s k => endRegion s (agentOf m k.seq)) s) s
  let s := ms.foldl (fun s m => forN 4 (fun k s => modStream s (4 * m + k) fun st =>
    { st with phase := .ended, flying := [], outst := [], latch := Vector.replicate 4 none }) s) s
  let s := ms.foldl (fun s m => modCore s m fun c =>
    { c with cmds := c.cmds.filter fun k => !discarded k }) s
  let s := { s with requests := s.requests.filter fun r =>
    !(ms.contains (coreOf r.sid) && !isSW r.sid && (r.hold.isSome || isReceive r)) }
  let s := modDie s (g / 64) fun d =>
    { d with unresolved := d.unresolved.filter (fun e => e.gang != g % 64),
             resumable := d.resumable.filter (fun k => k != g % 64),
             mig := d.mig.filter fun r => !ms.contains r.core }
  putGang s g { x with phase := .dying, stalled := false, hold := none, killed := some (x.killed.getD code) }
where
  discarded (k : Cmd) : Bool := k.hold.isSome || (match k.ins with
    | .mig .. => true
    | _ => false)

/-- Kill a leg: its gang, or every gang of its caravan (R350). -/
def killLeg (s : State) (g : Nat) (code : BitVec 8) : State :=
  match gangAt s g with
  | none => s
  | some x =>
    match x.caravan with
    | none => stopGang s g x code
    | some c => s.gangs.foldl (fun s e => if e.2.caravan = some c then stopGang s e.1 e.2 code else s) s

/-- Raise a fault (R352, R361, R363, R364): its entry waits to be posted, which fixes DUP, and its class acts. A fault
beyond the 64 that wait is not raised: its agent is held, and EXSTAT records the overflow. -/
def raise (s : State) (f : FaultInfo) : State :=
  let d := dieAt s f.die
  if 64 ≤ d.unposted.length then setExstat s f.die 8
  else
    let cls := classOf f.code
    let e : Entry :=
      { seq := d.entrySeq, code := f.code, cls := cls, die := f.die, core := f.core,
        agent := f.agent, gang := f.gang, seat := f.seat, va := f.va, pc := f.pc, leg := f.leg,
        tick := f.tick, dup := false, ctx := f.ctx }
    let s := putDie s f.die { d with
      unposted := d.unposted ++ [e]
      unresolved := if cls = 1 then d.unresolved ++ [e] else d.unresolved
      entrySeq := (d.entrySeq + 1) % 2 ^ 15 }
    if 64 ≤ f.gang then s
    else match cls with
    | 1 => modGang s (64 * f.die + f.gang) fun x => { x with stalled := true }
    | 2 => killLeg s (64 * f.die + f.gang) f.code
    | 4 => modGang s (64 * f.die + f.gang) fun x => { x with killed := some (x.killed.getD f.code) }
    | _ => s
/-- Whether a fault can be raised on the die now (R363). -/
def canRaise (s : State) (die : Nat) : Bool := decide ((dieAt s die).unposted.length < 64)
/-- The entry sequence the next fault of a die takes. -/
def nextEntry (s : State) (die : Nat) : Nat := (dieAt s die).entrySeq

/-- A fault of a core's agent, with what the entry takes from the core's gang (R364). A core that is held for a caravan runs
nothing, and is in no gang yet (R348, R368). -/
def coreFault (cid agent : Nat) (pc : BitVec 32) (code : BitVec 8) (va : Word) (s : State) : FaultInfo :=
  match (gangOfCore s cid).filter fun x => x.phase != .heldFor with
  | some x =>
    { die := dieOf cid, core := cid % 64, agent := agent, gang := x.origin, code := code, va := va,
      pc := pc, leg := BitVec.ofNat 32 (bfld x.record 56 4), tick := x.tick, ctx := x.ctx }
  | none =>
    { die := dieOf cid, core := cid % 64, agent := agent, code := code, va := va, pc := pc,
      tick := (areg s (dieBlock (dieOf cid) + 0x02000100)).setWidth 48 }

/-- The control register of a Steward (R262). -/
def stewardCtl (sid : Nat) : Nat := ioBlock ((sid - 2048) / 16) + 0x04000600 + 8 * ((sid - 2048) % 16)
/-- Halt a Steward and tell every other one (R402, R463). -/
def haltSteward (s : State) (sid : Nat) : State :=
  msixAll (eventAll (modStream s sid fun st => { st with phase := .halted }) 3) 15
/-- A Steward exception (R402): `ret` is the index that SEPC takes. A Steward that is halted stays so. -/
def stewardException (s : State) (sid : Nat) (code : BitVec 8) (va : Word) (ret : BitVec 18) : State :=
  let n := sid - 2048
  if bitAt (stewardAt s n).sstatus 0 then
    haltSteward (modSteward s n fun w => { w with sstatus := w.sstatus ||| 2 }) sid
  else
    let s := modSteward s n fun w =>
      { w with scause := zx64 code, sval := va, sepc := zx64 ret, sstatus := w.sstatus ||| 1 }
    modStream s sid fun st =>
      { st with phase := if st.phase = .halted then .halted else .running, sstat := zx64 code, pc := (stewardAt s n).svec.setWidth 18 }
/-- The return from a Steward exception (R403, ERET): the index to go on at. -/
def stewardReturn (s : State) (sid : Nat) : State × BitVec 18 :=
  let n := sid - 2048
  (modSteward s n fun w => { w with sstatus := w.sstatus &&& ~~~(1 : BitVec 64) },
    (stewardAt s n).sepc.setWidth 18)

/-- A precise fault of a stream's word (R16, R39, R61): it becomes the stream's next word again. -/
def raiseAt (s : State) (sid : Nat) (code : BitVec 8) (va : Word) : State :=
  if isSW sid then stewardException s sid code va (streamAt s sid).pc
  else
    let s := modStream s sid fun st => match st.phase with
      | .held .. => { st with phase := .running }
      | _ => st
    raise s (coreFault (coreOf sid) (kindOf sid) ((streamAt s sid).pc.setWidth 32) code va s)

/-! ### Issuing a word -/

/-- The stall wire freezes the gang of a compute stream: the stream's state is held (R59, R352). -/
def frozen (s : State) (sid : Nat) : Bool := !isSW sid && (gangOfCore s (coreOf sid)).any fun x => x.stalled
/-- The stream may issue (R352, R353, R402, R471): it runs or is held by a waiting form, and its gang runs. -/
def canIssue (s : State) (sid : Nat) : Bool :=
  let st := streamAt s sid
  let up := match st.phase with
    | .running | .held .. => true
    | _ => false
  up && !s.tripped &&
    (isSW sid || (match gangOfCore s (coreOf sid) with
      | some x => x.phase == .running && !x.stalled && !x.stopping && !(x.preempt && decide (4096 < st.sinceSafe))
      | none => false))

/-- What a form says of itself before its own effect (R37, R40): context-dependent encodings that are
illegal, the streams that may issue it, its source fields in order, the registers it writes, whether it
adds an outstanding write, and whether it is a waiting form. -/
structure Form where
  illegal : Bool := false
  legal : List Nat
  srcs : List Src := []
  dsts : List Loc := []
  var : Bool := false
  waits : Bool := false
  deriving DecidableEq, Repr

/-- Issue completes (R15, R42, R46, R49): the PC, the slot count and the loop advance, and the pushes are
reserved. `before` is the state at issue. DESIGN CHOICE (log entry 77): the loop that counts is the one in force after the
instruction's effect, so a CSRW or a LOOP whose loop ends at its own index is counted at once. -/
def retire (before s : State) (sid : Nat) (tk : Tok) (a : After) : State :=
  let s := modStream s sid fun st =>
    let (l, pc) := loopStep (isSW sid) st.loop st.pc (nextPc s sid) a.jump
    { st with
      loop := l, pc := pc, slot := st.slot + 1, stall := none
      sinceSafe := if a.safe then 0 else st.sinceSafe + 1
      phase := match st.phase with
        | .held .. => .running
        | p => p }
  reservePushes s sid tk a.push (if pushQueues (kindOf sid) tk = [] then [] else releaseSet before sid)

/-- The work of a waiting form was done while it is held (R207 step 2). -/
def begun (s : State) (sid : Nat) : State :=
  modStream s sid fun st => { st with phase := match st.phase with
    | .held q _ => .held q true
    | p => p }
/-- The work of a held stream's waiting form was done (R207). -/
def workDone (st : Stream) : Bool :=
  match st.phase with
  | .held _ b => b
  | _ => false
/-- A waiting form is reached (R207): SEQ as it is then (R116). -/
def reach (s : State) (sid : Nat) : State :=
  match (streamAt s sid).phase with
  | .running => modStream s sid fun st => { st with phase := .held (coreAt s (coreOf sid)).seq false }
  | _ => s

/-- The word waits at issue, and why (R14, R15, R52, R53). -/
def waitFor (s : State) (sid : Nat) (w : Stall) : State := modStream s sid fun st => { st with stall := some w }
/-- The outstanding writes that hold a register of a form's results (R53). -/
def blockers (st : Stream) (dsts : List Loc) : List Nat :=
  (st.outst.filter fun o => dsts.any fun l => o.regs.contains l).map fun o => o.id
/-- Issue one word of the current stream: the checks of R40 in their order, the waits of R14, R15, R53 and
R207, then the form's own checks and effect (`body`), on the state with its pops taken. While a token is missing a
waiting form raises no Footprint Conflict: that check takes its pops as made (R114). DEDUCED (log entry 72): a held form makes the
checks of its own effect again at each test. -/
def issue (f : Form) (tk : Tok) (body : State → Res) (s : State) : Out :=
  let sid := s.cur
  if !canIssue s sid then .next s
  else
    let s := modStream s sid landDue
    if f.illegal || (isSW sid && tk != 0) then .next (raiseAt s sid 0x01 0)
    else if !f.legal.contains (kindOf sid) then .next (raiseAt s sid 0x02 0)
    else if !f.waits && !tokensReady s sid tk then .next (waitFor s sid .tokens)
    else
      let st := streamAt s sid
      match srcsFault st f.srcs with
      | some c => .next (raiseAt s sid c 0)
      | none =>
        if f.dsts.any (pending st) then .next (waitFor s sid (.writes (blockers st f.dsts)))
        else if f.var && decide (32 ≤ st.outst.length) then .next (waitFor s sid .room)
        else if !f.waits then
          match body (takePops s sid tk) with
          | .stall s' => .next (undoPops s' s sid tk)
          | .fault s' c va => .next (raiseAt (undoPops s' s sid tk) sid c va)
          | .done s' a => .next (retire s s' sid tk a)
          | .raw s' => .next s'
        else
          let s := reach s sid
          if tokensReady s sid tk then
            match body (takePops s sid tk) with
            | .stall s' => .next (undoPops s' s sid tk)
            | .fault s' c va => .next (raiseAt (undoPops s' s sid tk) sid c va)
            | .done s' a => .next (retire s s' sid tk a)
            | .raw s' => .next s'
          else
            match body s with
            | .stall s' => .next s'
            | .fault s' c va => .next (if c = 0x11 then s else raiseAt s' sid c va)
            | .done s' a => .next (if a.work then begun s' sid else s)
            | .raw s' => .next s'

/-- The streams of the common set and SW (R37). -/
def allStreams : List Nat := [0, 1, 2, 3, 4]
def computeStreams : List Nat := [0, 1, 2, 3]

end Sys2Proof.Machine
end

