-- ==== Sys2Proof/Machine/Route.lean ====
section
/-! DEFINITION. Routes between dies: the links' states (R375, R379, R449), the next hop of a packet (R376, R377, R381, R447), and
whether a die can be reached at all (R381). -/
namespace Sys2Proof.Machine

/-! ### Links -/

/-- Dies are numbered through the fabric: 8·package + die. -/
def globalDie (s : State) (d : Nat) : Nat := 8 * packageId s + d
def linkPa (d L : Nat) : Nat := dieBlock d + 0x01018000 + 0x40 * L
def linkState (s : State) (d L : Nat) : Nat := fld (areg s (linkPa d L)) 1 0
def linkUp (s : State) (d L : Nat) : Bool := linkState s d L == 2
/-- The P of a dimension, and the package's coordinate in it (R447, R448). -/
def fabP (s : State) (dim : Nat) : Nat := fld (areg s (ioBlock 0 + 0x04000100)) (9 + 2 * dim) (8 + 2 * dim) + 1
def fabC (s : State) (dim : Nat) : Nat := fld (areg s (ioBlock 0 + 0x04000100)) (1 + 2 * dim) (2 * dim)

/-! ### Routing (R376, R377, R381) -/

/-- The coordinate of a die of the fabric in a dimension (R447). -/
def coordOf (g dim : Nat) : Nat := 2 * (g / 8 / 4 ^ dim % 4) + g / 2 ^ dim % 2
/-- The link that a die of this package uses in a dimension and direction (0 +, 1 −). -/
def linkFor (s : State) (d dim dir : Nat) : Nat :=
  if fabP s dim = 1 ∨ d / 2 ^ dim % 2 = dir then 2 * dim else 2 * dim + 1
/-- The edge of a ring from coordinate c to c + 1 is down, as far as this package's routers know. -/
def edgeDown (s : State) (d dim c : Nat) : Bool :=
  let x := 2 * fabC s dim
  let k := 2 * fabP s dim
  let lo := d - d / 2 ^ dim % 2 * 2 ^ dim
  let hi := lo + 2 ^ dim
  if c = x then !linkUp s d (2 * dim)
  else if c = x + 1 then !linkUp s hi (2 * dim + 1)
  else if c = (x + k - 1) % k then !linkUp s lo (2 * dim + 1)
  else false
/-- Some edge of the way in a direction is down. -/
def wayDown (s : State) (d dim dir cur n : Nat) : Bool :=
  let k := 2 * fabP s dim
  (List.range n).any fun i => edgeDown s d dim (if dir = 0 then (cur + i) % k else (cur + 2 * k - 1 - i) % k)
/-- A hop: dimension, direction, and whether it takes a detour channel. -/
structure Hop where
  dim : Nat
  dir : Nat
  detour : Bool
  deriving DecidableEq, Repr
/-- The dimension to move in: the first in which the dies differ. -/
def firstDim (cur dst : Nat) : Option Nat := (List.range 3).find? fun i => coordOf cur i != coordOf dst i
/-- The next hop of a packet at a die of this package, with the hops of its sidestep still to take; `none` where no link
that is UP leads on (R381). The hops of a sidestep stay in the package: `inDir` is the direction of its link. A hop of a
sidestep that meets a link DOWN sidesteps that link's dimension anew. DESIGN CHOICE (log entry 123): in a ring of three or more dies
whose links are DOWN in both directions there is no way on, as R381 gives it for a ring of two. -/
def nextHop (s : State) (p : Packet) (dim : Nat) : Option (Hop × List Nat) :=
  let d := p.at_ % 8
  let inPkg (e : Nat) : Bool := linkUp s d (2 * e)
  let inDir (e : Nat) : Nat := if fabP s e = 1 then 0 else d / 2 ^ e % 2
  let around (f : Nat) : Option (Hop × List Nat) :=
    match (List.range 3).find? fun e => e != f && inPkg e with
    | some e => some (⟨e, inDir e, true⟩, [2 * e + 1, 2 * f, 2 * e + 1])
    | none => none
  match p.detour with
  | h :: r => if inPkg (h / 2) then some (⟨h / 2, inDir (h / 2), h % 2 == 1⟩, h :: r) else around (h / 2)
  | [] =>
    let k := 2 * fabP s dim
    if k = 2 then (if inPkg dim then some (⟨dim, 0, false⟩, []) else around dim)
    else
      let cur := coordOf p.at_ dim
      let fwd := (coordOf p.dst dim + k - cur) % k
      let bwd := k - fwd
      let dir := if bwd < fwd then 1 else 0
      let n (r : Nat) : Nat := if r = 0 then fwd else bwd
      if !wayDown s d dim dir cur (n dir) then some (⟨dim, dir, false⟩, [])
      else if !wayDown s d dim (1 - dir) cur (n (1 - dir)) then some (⟨dim, 1 - dir, false⟩, [])
      else none

/-! ### Reaching a die -/

/-- The routers lead a packet on to its destination, or out of the package. One that R381 sends round for ever, because the link
that its sidestep would cross is DOWN too, never gets there (log entry 104). -/
def leads (s : State) (p : Packet) (fuel : Nat) : Bool :=
  match fuel with
  | 0 => false
  | n + 1 =>
    if p.at_ = p.dst then true
    else match firstDim p.at_ p.dst with
      | none => true
      | some dim =>
        match nextHop s p dim with
        | none => false
        | some (h, det) =>
          let d := p.at_ % 8
          if linkFor s d h.dim h.dir % 2 = 1 then true
          else leads s { p with at_ := p.at_ / 8 * 8 + (d ^^^ 2 ^ h.dim), detour := det.drop 1 } n
/-- A packet from one die to another finds a way (R381). -/
def reachable (s : State) (src dst : Nat) : Bool :=
  leads s
    { id := 0, src := src, dst := dst, at_ := src, seq := 0, resent := false, response := false, payload := .req 0
      detour := [], queued := none, flits := 0 } 64
/-- An I/O die reaches a die over the link of one of its own four dies (R253, R261). -/
def ioReaches (s : State) (io dst : Nat) : Bool :=
  (List.range 4).any fun e => linkUp s (4 * io + e) 6 && reachable s (globalDie s (4 * io + e)) dst
/-- What translates through a TLB, a core's, a Steward's or a port's (R359), reaches a die. -/
def tlbReaches (s : State) (t dst : Nat) : Bool :=
  if t < 512 then reachable s (globalDie s (dieOf t)) dst
  else if t < 544 then ioReaches s ((t - 512) / 16) dst
  else ioReaches s (t % 2) dst

end Sys2Proof.Machine
end

