-- ==== Sys2Proof/Machine/Operands.lean ====
section
/-! DEFINITION. Every operand form: scratchpad addresses (R88 to R90), targets named through t (R205), peer
operations (R239), the order of synchronous accesses and commands (R106 to R114), completion words (R221),
semaphores (R97, R210, R214), waymarks (R103, R104) and rings (R99 to R102). -/
namespace Sys2Proof.Machine

/-! ### Scratchpad addresses -/

/-- Bytes of a scratchpad (R88). -/
def scratchSize : Nat := 2097152
/-- The core that a scratchpad address names, and whether the access is a peer access (R88, R89). -/
def spTarget (cid : Nat) (a : Word) : Nat × Bool :=
  if bitAt a 23 then (cid, false) else (cid / 4 * 4 + fld a 22 21, true)
def spOff (a : Word) : Nat := fld a 20 0
/-- The leg of a core still runs. -/
def legRuns (s : State) (cid : Nat) : Bool :=
  match gangOfCore s cid with
  | some x => x.phase == .running
  | none => false
/-- The leg that a core runs, by the number of its placement: leg ids need not be unique (R340). -/
def legSerial (s : State) (cid : Nat) : Nat := ((gangOfCore s cid).map fun x => x.serial).getD 0
/-- A range of a core's scratchpad touches a code ring of the leg that runs there (R44). -/
def codeHit (s : State) (cid off n : Nat) : Bool :=
  let c := coreAt s cid
  legRuns s cid && (List.range 4).any fun k =>
    let l := vget c.ringLog k 0
    let b := vget c.ringBase k 0
    l != 0 && decide (off < b + 4 * 2 ^ l) && decide (b < off + n)
/-- The checks of R90, in order, on an access of `n` bytes with alignment `al`. -/
def spCheck (s : State) (cid : Nat) (a : Word) (n al : Nat) (wr : Bool) : Option (BitVec 8) :=
  let o := spOff a
  if fld a 63 24 ≠ 0 then some 0x23
  else if o % al ≠ 0 then some 0x24
  else if scratchSize < o + n then some 0x10
  else if wr && codeHit s (spTarget cid a).1 o n then some 0x10
  else none
/-- The checks of R400 on a Steward's SRAM address. -/
def swSpCheck (a : Word) (n : Nat) (wr : Bool) : Option (BitVec 8) :=
  let o := spOff a
  if fld a 63 24 ≠ 0 ∨ !bitAt a 23 ∨ fld a 22 21 ≠ 0 then some 0x23
  else if o % n ≠ 0 then some 0x24
  else if scratchSize < o + n then some 0x10
  else if wr && decide (o < 0x100000) then some 0x10
  else none
/-- Bytes of an own scratchpad, or of a Steward's SRAM (R400). -/
def ownRead (s : State) (sid off n : Nat) : List Byte :=
  if isSW sid then mread s.mem (swBase sid + off) n else mread (coreAt s (coreOf sid)).scratch off n
def ownWrite (s : State) (sid off : Nat) (bs : List Byte) : State :=
  if isSW sid then { s with mem := mwrite s.mem (swBase sid + off) bs }
  else modCore s (coreOf sid) fun c => { c with scratch := mwrite c.scratch off bs }
/-- An own address of a form that takes no peer (SELF = 1): Address Form before the checks of R90. DESIGN CHOICE (log entry 110):
a register of a matrix command that holds such an address raises it for a bit in [63:32] too, as SPLD, SPST and the vector forms
do (R170, R201). -/
def ownCheck (s : State) (sid : Nat) (a : Word) (n al : Nat) (wr : Bool) : Option (BitVec 8) :=
  if isSW sid then
    match swSpCheck a 1 false with
    | some c => some c
    | none => if spOff a % al ≠ 0 then some 0x24 else swSpCheck a 1 wr <|>
        (if scratchSize < spOff a + n then some 0x10 else none)
  else if fld a 63 24 ≠ 0 ∨ !bitAt a 23 then some 0x23
  else spCheck s (coreOf sid) a n al wr

/-! ### Conflicts (R109 to R114) -/

def overlap (a b : Range) : Bool :=
  a.core == b.core && decide (a.lo < b.lo + b.len) && decide (b.lo < a.lo + a.len) && a.len != 0 && b.len != 0
/-- Two sets of ranges conflict: some bytes are common and one of the two writes them (R110). -/
def conflicts (rd wr rd' wr' : List Range) : Bool :=
  let hit (xs ys : List Range) : Bool := xs.any fun x => ys.any fun y => overlap x y
  hit wr wr' || hit wr rd' || hit rd wr'
/-- Deterministic mode of the leg a core runs (R47, R340). -/
def detOf (s : State) (cid : Nat) : Bool :=
  match gangOfCore s cid with
  | some x => bfld x.record 32 8 / 2 ^ 19 % 2 == 1
  | none => false
/-- The answer of the hazard unit or the checker to a synchronous access. -/
inductive Sync where
  | ok | stall | conflict
  deriving DecidableEq, Repr
/-- A synchronous access of a stream against its core's commands (R111, R114, R241). It waits for an acquire of the stream that
is in flight (R280). -/
def syncCheck (s : State) (sid : Nat) (rd wr : List Range) : Sync :=
  if isSW sid then .ok
  else if acqWaits s sid then .stall
  else
    let c := coreAt s (coreOf sid)
    if detOf s (coreOf sid) then
      if c.recs.any fun r => !r.settled.contains (kindOf sid) && conflicts rd wr r.rd r.wr then .conflict else .ok
    else if c.cmds.any fun k => conflicts rd wr k.rd k.wr then .stall else .ok
/-- Carry on when a synchronous access is allowed. -/
def withSync (s : State) (sid : Nat) (rd wr : List Range) (k : State → Res) : Res :=
  match syncCheck s sid rd wr with
  | .ok => k s
  | .stall => .stall s
  | .conflict => .fault s 0x11 0
/-- Carry on when no check failed. -/
def withCheck (s : State) (c : Option (BitVec 8)) (va : Word) (k : State → Res) : Res :=
  match c with
  | some code => .fault s code va
  | none => k s
/-- Carry on when no acquire of the stream is in flight (R280). -/
def withAcq (s : State) (k : State → Res) : Res := if acqWaits s s.cur then .stall s else k s
/-- Require a condition, or fault. -/
def need (s : State) (c : Bool) (code : BitVec 8) (k : State → Res) : Res :=
  if c then k s else .fault s code 0
/-- Carry on when the release at a scope is complete (R280): a releasing form does not issue before. -/
def withQuiet (s : State) (sid : Nat) (sc : Scope) (k : State → Res) : Res :=
  if quiet s sid sc then k (endRegion s sid) else .stall s

/-! ### Accesses in flight -/

/-- Send an access: it is in flight until its step performs it. -/
def sendReq (s : State) (r : Req) : Nat × State :=
  let (id, s) := fresh s
  (id, { s with requests := s.requests ++ [{ r with id := id }] })
/-- A request of the current instruction of a stream. -/
def mkReq (s : State) (sid : Nat) (op : ReqOp) : Req :=
  { id := 0, sid := sid, op := op, pa := 0, va := 0, leaf := 0, outst := none,
    pc := (streamAt s sid).pc, stale := false, arrived := true, hold := none, regs := [], tries := 0, track := 0 }
/-- Add an outstanding variable-latency write of registers (R52). x0 is written by no one (R25). -/
def addOutst (s : State) (sid : Nat) (regs : List Loc) : Nat × State :=
  let (id, s) := fresh s
  (id, modStream s sid fun st => { st with outst := st.outst ++ [{ id := id, regs := regs, val := none }] })
/-- The value of an outstanding write arrives; VARIABLE_LATENCY_WRITE writes it. -/
def deliver (s : State) (sid oid : Nat) (ws : List Write) : State :=
  modStream s sid fun st =>
    { st with outst := mapIf (fun o => o.id == oid) (fun o => { o with val := some ws }) st.outst }
/-- Drop an outstanding write: its register stays unwritten (R248). -/
def dropOutst (s : State) (sid oid : Nat) : State :=
  modStream s sid fun st => { st with outst := st.outst.filter fun o => o.id != oid }
/-- Send an access with a register result. -/
def sendLoad (s : State) (sid : Nat) (regs : List Loc) (r : Req) : Res :=
  let (oid, s) := addOutst s sid regs
  let (_, s) := sendReq s { r with outst := some oid }
  .done s { push := .written oid }
/-- Send an access without a register result; its effect is performed at its home (R303). -/
def sendStore (s : State) (r : Req) : Res :=
  let (id, s) := sendReq s r
  .done s { push := .performed id }

/-- The registers of a pair that a late result fills, the lower first; a write of x0 is discarded (R25, R206). -/
def pairLocs (d : Nat) : List Loc := [.x d, .x (d + 1)]
/-- The target of a t field (R205): the core, and whether the operation is a peer operation. -/
def targetOf (s : State) (sid : Nat) (t : Nat) : Except (BitVec 8) (Nat × Bool) :=
  if t = 0 then .ok (coreOf sid, false)
  else
    let r := readX (streamAt s sid) t
    if r.toNat ≤ 3 then .ok (coreOf sid / 4 * 4 + r.toNat, true) else .error 0x23
/-- The gangs of the leg that a gang belongs to: its own, or every gang of its caravan (R348). -/
def legGangs (s : State) (g : Nat) (x : Gang) : List (Nat × Gang) :=
  match x.caravan with
  | none => [(g, x)]
  | some c => s.gangs.filter fun e => e.2.caravan == some c
/-- A stream of a gang is parked or stopped: at a safe point, by R57, or ended while a pre-emption is pending (R68). -/
def atPark (x : Gang) (st : Stream) : Bool :=
  match st.phase with
  | .parked _ | .stopped => true
  | .ended => x.preempt
  | .running | .held .. => x.stopping || (x.preempt && !x.stalled && decide (4096 < st.sinceSafe))
  | _ => x.stopping
/-- A core is live for an operation of a context (R238): it runs a leg of the context, not all of whose
streams are parked or stopped. -/
def liveFor (s : State) (cid ctx : Nat) : Bool :=
  !(coreAt s cid).offline && (match gangOfCore s cid with
    | some x => x.phase == .running && x.ctx == ctx &&
        !((legGangs s (64 * dieOf cid + x.origin) x).all fun e => (membersOf e.1 e.2).all fun m =>
          (List.range 4).all fun k => atPark e.2 (streamAt s (4 * m + k)))
    | none => false)
/-- The context of a core's leg. -/
def ctxOf (s : State) (cid : Nat) : Nat := ((gangOfCore s cid).map fun x => x.ctx).getD 0
/-- A core is live for an operation that core `src` sends: its own rank is, while its leg runs (R89). -/
def liveTo (s : State) (src t : Nat) : Bool := if t = src then legRuns s src else liveFor s t (ctxOf s src)

/-! ### Semaphores -/

def tagNum (t : Tag) : Nat :=
  match t with
  | .core => 0
  | .cluster => 1
  | .package => 2
  | .fabric => 3
/-- The wider of two scope tags (R214). -/
def widen (a b : Tag) : Tag := if tagNum a < tagNum b then b else a
def semAt (s : State) (cid sem : Nat) : Sem := vget (coreAt s cid).sems sem Sem.zero
def putSem (s : State) (cid sem : Nat) (x : Sem) : State :=
  modCore s cid fun c => { c with sems := vset c.sems sem x }
/-- A waiter takes its count (R210, R213, R214): the settle set settles its commands, SACQ subtracts, and a
count of 0 sets the tag to CORE. It acquires. -/
def semTake (s : State) (sid sem n : Nat) (sub : Bool) : State :=
  let cid := coreOf sid
  let x := semAt s cid sem
  let s := modCore s cid fun c => settle c (kindOf sid) x.settle
  let s := if sub then
      let v := x.count - BitVec.ofNat 32 n
      putSem s cid sem (if v = 0 then Sem.zero else { x with count := v })
    else s
  acquire s sid
/-- The waiting SACQ or SWAIT of a held stream, if it waits on this semaphore: the form, the amount. -/
def heldSem (s : State) (sid sem : Nat) : Option (Tok × Nat × Bool) :=
  match (streamAt s sid).phase with
  | .held .. =>
    if !canIssue s sid then none
    else match decode (fetchWord s sid) with
      | .ok (.sacq tk q n) => if q.toNat = sem then some (tk, n.toNat, true) else none
      | .ok (.swait tk q n) => if q.toNat = sem then some (tk, n.toNat, false) else none
      | _ => none
  | _ => none
/-- After a change of a semaphore its waiters are tested in order (R97): one whose count is met, and whose
tokens are there, completes. -/
def testWaiters (s : State) (cid sem : Nat) : State :=
  forN 4 (fun k s =>
    let sid := 4 * cid + k
    match heldSem s sid sem with
    | some (tk, n, sub) =>
      if n ≤ (semAt s cid sem).count.toNat && tokensReady s sid tk then
        let s' := modStream s sid landDue
        retire s' (semTake (takePops s' sid tk) sid sem n sub) sid tk {}
      else s
    | none => s) s
/-- Add to a semaphore (R97, R98, R210, R214), unless the count would pass 2^32 − 1. -/
def semAdd (s : State) (cid sem inc : Nat) (t : Tag) (by_ : List (BitVec 32)) : Option State :=
  let x := semAt s cid sem
  if 2 ^ 32 ≤ x.count.toNat + inc then none
  else
    let x' : Sem :=
      { count := x.count + BitVec.ofNat 32 inc, tag := widen x.tag t, settle := x.settle ++ by_ }
    some (testWaiters (putSem s cid sem x') cid sem)
/-- SINCW (R210, R211): the new count, for the old one and the bound. -/
def incwNew {w : Nat} (old bound : BitVec w) : BitVec w := if bound ≤ old then 0 else old + 1
/-- SFAB (R210, R211): the new count and whether it succeeded. -/
def fabNew {w : Nat} (old add bound : BitVec w) : BitVec w × Bool :=
  if old.toNat + add.toNat ≤ bound.toNat then (old + add, true) else (old, false)
/-- A semaphore changed by SINCW or SFAB: an own form that leaves 0 resets the tag (R214); waiters are tested. -/
def semSet (s : State) (cid sem : Nat) (v : BitVec 32) (inc peer : Bool) : State :=
  let x := semAt s cid sem
  let x' : Sem :=
    if v = 0 && !peer then Sem.zero
    else { x with count := v, tag := if inc then widen x.tag (if peer then .cluster else .core) else x.tag }
  testWaiters (putSem s cid sem x') cid sem

/-! ### Waymarks (R103, R104) -/

/-- A waymark's fields: SEXP, AEXP, SPEND, APEND, OVR, ERR, PHASE. -/
structure Way where
  sexp : Nat
  aexp : Nat
  spend : Nat
  apend : Nat
  ovr : Bool
  err : Bool
  phase : Nat
  deriving DecidableEq, Repr
def wayOf (bs : List Byte) : Way :=
  let v := leNat bs
  { sexp := nfld v 127 96, aexp := nfld v 83 64, spend := nfld v 63 32, apend := nfld v 27 8,
    ovr := nfld v 5 5 == 1, err := nfld v 4 4 == 1, phase := nfld v 3 0 }
def wayBytes (w : Way) : List Byte :=
  leBytes 16 (w.sexp % 2 ^ 32 * 2 ^ 96 + w.aexp % 2 ^ 20 * 2 ^ 64 + w.spend % 2 ^ 32 * 2 ^ 32 +
    w.apend % 2 ^ 20 * 2 ^ 8 + w.ovr.toNat * 32 + w.err.toNat * 16 + w.phase % 16)
/-- One decrement of R104: of the sectors, or of the arrivals. -/
def wayDec (w : Way) (sector : Bool) : Way :=
  if (if sector then w.spend else w.apend) = 0 then { w with ovr := true }
  else
    let w := if sector then { w with spend := w.spend - 1 } else { w with apend := w.apend - 1 }
    if w.spend = 0 ∧ w.apend = 0 then
      { w with phase := (w.phase + 1) % 16, spend := w.sexp, apend := w.aexp }
    else w
def wayAt (s : State) (cid off : Nat) : Way := wayOf (mread (coreAt s cid).scratch off 16)
/-- A command of the core that names the waymark, with its sector decrements applied, is drained when the
phase changes (R113). -/
def putWay (s : State) (cid off : Nat) (w : Way) : State :=
  modCore s cid fun c =>
    let old := wayOf (mread c.scratch off 16)
    let live (q : BitVec 32) : Bool := c.cmds.any fun k => k.seq == q && !k.swept
    { c with
      scratch := mwrite c.scratch off (wayBytes w)
      recs := if old.phase = w.phase then c.recs
        else c.recs.map fun r => if r.wm = some off && !live r.seq then { r with drained := true } else r }
def wayApply (s : State) (cid off : Nat) (sector : Bool) : State :=
  putWay s cid off (wayDec (wayAt s cid off) sector)

/-! ### Rings (R99 to R102) -/

def ringAt (s : State) (cid r : Nat) : RingState := vget (coreAt s cid).rings r RingState.zero
def putRing (s : State) (cid r : Nat) (x : RingState) : State :=
  modCore s cid fun c => { c with rings := vset c.rings r x }
def ringMode (x : RingState) : Nat := fld x.cfg 30 29
def ringN (x : RingState) : Nat := 2 ^ fld x.cfg 28 25
/-- Offset of slot i (R99). -/
def slotOff (x : RingState) (i : Nat) : Nat := fld x.cfg 20 0 + i * 2 ^ fld x.cfg 24 21
/-- The status word of R99. -/
def ringStatus (x : RingState) : Word :=
  BitVec.ofNat 64 (x.claimed % 2 ^ 15 * 2 ^ 48 + x.filled % 2 ^ 15 * 2 ^ 32 + x.tail % 2 ^ 14 * 2 ^ 16 + x.head % 2 ^ 14)
/-- A configuration that RCFG takes (R99). -/
def ringCfgOk (v : Word) : Bool :=
  let mode := fld v 30 29
  let ls := fld v 28 25
  let lz := fld v 24 21
  let b := fld v 20 0
  mode == 0 || (mode != 3 && decide (1 ≤ ls ∧ ls ≤ 14 ∧ 3 ≤ lz ∧ lz ≤ 12) && b % 2 ^ lz == 0 &&
    decide (b + 2 ^ ls * 2 ^ lz ≤ scratchSize))
/-- Publish a claimed slot; slots become filled in claim order (R100). -/
def ringPublish (x : RingState) (slot : Nat) : RingState :=
  let n := ringN x
  let first := (x.head + x.filled) % n
  let pub := slot :: x.pub
  let run := ((List.range x.claimed).takeWhile fun i => pub.contains ((first + i) % n)).length
  { x with
    claimed := x.claimed - run, filled := x.filled + run
    pub := pub.filter fun p => !((List.range run).any fun i => (first + i) % n == p) }
/-- A slot is claimed and not published (R100). -/
def ringClaimed (x : RingState) (slot : Nat) : Bool :=
  let n := ringN x
  !x.pub.contains slot && (List.range x.claimed).any fun i => (x.head + x.filled + i) % n == slot
/-- RSTEAL at a core (R101): the index and doubleword of the head slot, or −1. -/
def ringSteal (s : State) (cid r : Nat) : Word × Option Word × State :=
  let x := ringAt s cid r
  if x.filled = 0 then (BitVec.allOnes 64, none, s)
  else
    (BitVec.ofNat 64 x.head, some (BitVec.ofNat 64 (mnat (coreAt s cid).scratch (slotOff x x.head) 8)),
      putRing s cid r { x with head := (x.head + 1) % ringN x, filled := x.filled - 1 })

/-! ### Commands (R106 to R114) -/

/-- The completion kind of an ASYNC word and the parts of a completion word (R221). -/
def compInc (w : Word) : Nat := fld w 55 40
def compSem (w : Word) : Nat := fld w 36 32
def compWm (w : Word) : Nat := fld w 31 0
/-- A completion word keeps the limits of R221 for its kind: INC and SEM only with a semaphore, WM only with
a waymark, whose address is checked after the limits. -/
def compOk (k : Nat) (w : Word) : Bool :=
  fld w 63 56 == 0 && fld w 39 37 == 0 && (if k / 2 = 1 then compInc w != 0 else compInc w == 0 && compSem w == 0) &&
    (k % 2 == 1 || compWm w == 0)
/-- The engine's own scratchpad checks of a completion word's waymark (R222). -/
def compCheck (s : State) (cid k : Nat) (w : Word) : Option (BitVec 8) :=
  if k % 2 = 0 then none
  else
    let a : Word := BitVec.ofNat 64 (compWm w)
    if fld a 63 24 ≠ 0 ∨ !bitAt a 23 then some 0x23 else spCheck s cid a 16 16 true
/-- The predecessors a command takes from the PRED that its stream executed last (R112, R232). -/
def predsOf (st : Stream) (seq : BitVec 32) : List (BitVec 32) :=
  st.pred.filter fun p => decide (1 ≤ (seq - p).toNat ∧ (seq - p).toNat ≤ 63)
/-- The slot doubleword that RSTEAL returns (R204): the head's, in a ring that is not empty. -/
def stealRange (s : State) (t ring : Nat) : List Range :=
  let x := ringAt s t ring
  if x.filled = 0 then [] else [⟨t, slotOff x x.head, 8⟩]
/-- What a footprint writes beside the waymark of the completion word, which stands last (R109, R204). -/
def withoutWay (wr : List Range) (wm : Option Nat) : List Range := if wm.isSome then wr.dropLast else wr
/-- Peer accesses of the core's streams, in flight, that a new command's ranges conflict with (R111). -/
def peerConflicts (s : State) (cid : Nat) (rd wr : List Range) (wm : Option Nat) : List Nat :=
  (s.requests.filter fun r => !isSW r.sid && coreOf r.sid == cid && (match r.op with
    | .peer t (.load _ n off) => conflicts rd wr [⟨t, off, n⟩] []
    | .peer t (.vload bs) => conflicts rd wr (bs.map fun b => ⟨t, b.1, 1⟩) []
    | .peer t (.store bs) => conflicts rd wr [] (bs.map fun b => ⟨t, b.1, 1⟩)
    | .peer t (.rsteal ring) => conflicts rd wr (stealRange s t ring) []
    | .peer t (.wmArrive off) | .peer t (.wmExpect off _) => conflicts rd (withoutWay wr wm) [] [⟨t, off, 16⟩]
    | _ => false)).map fun r => r.id
/-- Memory accesses of a stream in flight: a command it issues follows them at each location (R277, R284). -/
def memAccesses (s : State) (sid : Nat) : List Nat :=
  (s.requests.filter fun r => r.sid == sid && (match r.op with
    | .load .. | .store .. | .atomic .. => true
    | _ => false)).map fun r => r.id
/-- The commands of a core that R112 and R232 order a new command of a stream after: those of its PRED and, in DET mode and
for the matrix engine, its last one of the same engine. -/
def cmdPreds (s : State) (sid : Nat) (engine : Engine) : List (BitVec 32) :=
  let c := coreAt s (coreOf sid)
  let lastSame := ((c.recs.filter fun r =>
    decide ((c.seq - r.seq).toNat ≤ 63) && r.engine == engine && r.sid == sid).map fun r => r.seq).getLast?.toList
  (predsOf (streamAt s sid) c.seq ++ (if detOf s (coreOf sid) || engine == 8 then lastSame else [])).eraseDups
/-- The records that a new command of a core is checked against: none of the command 64 numbers below it (R113). -/
def cmdRecs (c : Core) : List Rec := c.recs.filter fun r => decide ((c.seq - r.seq).toNat < 64)
/-- A new command (R106 to R114): the window, the checker, the edges, the sequence number and its landing. -/
def issueCmd (s : State) (sid : Nat) (i : Instr) (ops : List Word) (image : List Byte) (rd wr : List Range)
    (engine : Engine) (wm : Option Nat) : Res :=
  let cid := coreOf sid
  let c := coreAt s cid
  let seq := c.seq
  let det := detOf s cid
  let preds := cmdPreds s sid engine
  let recs := cmdRecs c
  if acqWaits s sid || c.cmds.any fun k => decide (64 ≤ (seq - k.seq).toNat) then .stall s
  else if det && recs.any fun r => conflicts rd wr r.rd r.wr && !r.settled.contains (kindOf sid) &&
      !(closure recs 64 preds).contains r.seq then .fault s 0x11 0
  else
    let foot := (c.cmds.filter fun k => conflicts rd wr k.rd k.wr).map fun k => k.seq
    let k : Cmd :=
      { seq := seq, sid := sid, ins := i, ops := ops, image := image, rd := rd, wr := wr, engine := engine,
        after := (if det then preds else preds ++ foot).eraseDups,
        waitReq := if det then [] else peerConflicts s cid rd wr wm, prior := memAccesses s sid, next := 0, err := false, start := false,
        hold := none, supp := [], swept := false, lost := [] }
    let r : Rec :=
      { seq := seq, sid := sid, rd := rd, wr := wr, engine := engine, preds := preds, wm := wm, drained := false,
        settled := [] }
    let s := modCore s cid fun c => { c with seq := seq + 1, cmds := c.cmds ++ [k], recs := recs ++ [r] }
    let s := modStream s sid fun st => { st with pred := [] }
    let (_, s) := landIn s sid [] (seq.setWidth 2048) 1
    .done s { push := .retired seq }
/-- A command of a core by its number. -/
def cmdAt (s : State) (cid : Nat) (seq : BitVec 32) : Option Cmd :=
  (coreAt s cid).cmds.find? fun k => k.seq == seq
def modCmd (s : State) (cid : Nat) (seq : BitVec 32) (f : Cmd → Cmd) : State :=
  modCore s cid fun c => { c with cmds := mapIf (fun k => k.seq == seq) f c.cmds }
/-- A command may run: its predecessors have retired, the accesses it follows are done, and it holds for no
fault (R110 to R112, R222). -/
def cmdReady (s : State) (cid : Nat) (k : Cmd) : Bool :=
  k.hold.isNone && k.after.all (fun q => !((coreAt s cid).cmds.any fun j => j.seq == q)) &&
    k.waitReq.all fun r => !(s.requests.any fun q => q.id == r)
/-- The four registers of a quad (R33). -/
def quadOf (st : Stream) (b : Reg) : List Word := (List.range 4).map fun i => readX st (b.toNat + i)
/-- A VA with bits [63:56] at 0 (R301). -/
def vaOk (a : Word) : Bool := fld a 63 56 == 0

end Sys2Proof.Machine
end

