-- ==== Sys2Proof/Machine/Flags.lean ====
section
/-! DEFINITION. The results of the scalar forms (R73, R76 to R80), the conditions of branches (R81), and the
one flag that scalar state holds, the loop's and the status words' fields (R46 to R48, R401). The machine has
no condition flags: the accumulator's flags N, I+, I−, Z and S are in Numbers.lean, SSTAT.VCNV in Vector.lean. -/
namespace Sys2Proof.Machine

/-- 1 or 0, as a register value. -/
def boolWord (b : Bool) : Word := if b then 1 else 0
/-- The shift amount of R73: bits [5:0] of the operand. -/
def shOf (b : Word) : Nat := b.toNat % 64
def sllVal (a b : Word) : Word := a <<< shOf b
def srlVal (a b : Word) : Word := a >>> shOf b
def sraVal (a b : Word) : Word := a.sshiftRight (shOf b)
def sltVal (a b : Word) : Word := boolWord (a.slt b)
def sltuVal (a b : Word) : Word := boolWord (a.ult b)
def minVal (a b : Word) : Word := if a.slt b then a else b
def maxVal (a b : Word) : Word := if b.slt a then a else b
def minuVal (a b : Word) : Word := if a.ult b then a else b
def maxuVal (a b : Word) : Word := if b.ult a then a else b
def rotrVal (a b : Word) : Word := (a >>> shOf b) ||| (a <<< ((64 - shOf b) % 64))

def mulVal (a b : Word) : Word := a * b
/-- Bits [127:64] of the signed product. -/
def mulhVal (a b : Word) : Word := (toBits 128 (a.toInt * b.toInt)).extractLsb' 64 64
def mulhuVal (a b : Word) : Word := BitVec.ofNat 64 (a.toNat * b.toNat / 2 ^ 64)
def maddVal (d a b : Word) : Word := d + a * b
/-- R77: division by zero gives all ones; M / −1 gives M. -/
def divVal (a b : Word) : Word := if b = 0 then BitVec.allOnes 64 else toBits 64 (a.toInt.tdiv b.toInt)
def divuVal (a b : Word) : Word := if b = 0 then BitVec.allOnes 64 else BitVec.ofNat 64 (a.toNat / b.toNat)
def remVal (a b : Word) : Word := if b = 0 then a else toBits 64 (a.toInt.tmod b.toInt)
def remuVal (a b : Word) : Word := if b = 0 then a else BitVec.ofNat 64 (a.toNat % b.toNat)
/-- The bits of a word, bit 63 first. -/
def bitsDown (a : Word) : List Bool := (List.range 64).map fun i => bitAt a (63 - i)
def clzVal (a : Word) : Word := BitVec.ofNat 64 ((bitsDown a).takeWhile fun b => !b).length
def ctzVal (a : Word) : Word := BitVec.ofNat 64 ((bitsDown a).reverse.takeWhile fun b => !b).length
def popcVal (a : Word) : Word := BitVec.ofNat 64 ((bitsDown a).filter id).length
def brevVal (a : Word) : Word :=
  BitVec.ofNat 64 ((List.range 64).foldl (fun n i => if bitAt a i then n + 2 ^ (63 - i) else n) 0)
def bswpVal (a : Word) : Word := BitVec.ofNat 64 (leNat (leBytes 8 a.toNat).reverse)
def selzVal (d a b : Word) : Word := if b = 0 then a else d
def lhiVal (i : BitVec 17) : Word := sx64 i <<< 12
def lsiVal (d : Word) (i : BitVec 17) : Word := (d <<< 17) ||| zx64 i

/-- The condition of a branch (R81), cond 0 to 7. -/
def condHolds (cond : Nat) (a b : Word) : Bool :=
  match cond with
  | 0 => a == b
  | 1 => a != b
  | 2 => a.slt b
  | 3 => !(a.slt b)
  | 4 => a.ult b
  | 5 => !(a.ult b)
  | 6 => (a &&& b) != 0
  | _ => (a &&& b) == 0

/-- The scalar destination of a field: x0 is written by nothing (R25). -/
def locX (d : Reg) : List Loc := if d = 0 then [] else [.x d.toNat]
/-- The destination under nw (R27). -/
def dstNw (d : Reg) (nw : BitVec 1) : List Loc := if nw = 1 then [] else locX d
/-- The registers of a group. -/
def groupLocs (d k : Nat) : List Loc := ((List.range k).filter fun i => d + i != 0).map fun i => .x (d + i)

/-! ### CSRs (R36, R47, R48, R401) -/

/-- The CSRs of a compute stream, and those that CSRW writes. -/
def csrAssigned (n : Nat) : Bool := n == 0 || n == 1 || n == 2 || decide (4 ≤ n ∧ n ≤ 0xC)
def csrWritable (n : Nat) : Bool := n == 0 || n == 2 || n == 0xA
def csrSwAssigned (n : Nat) : Bool := n == 0 || n == 5 || n == 0xA || decide (0x400 ≤ n ∧ n ≤ 0x409)
def csrSwWritable (n : Nat) : Bool := n == 0xA || (decide (0x400 ≤ n ∧ n ≤ 0x409) && n != 0x408)
/-- CSR numbers of the SW stream only (R36). -/
def csrSwOnly (n : Nat) : Bool := decide (0x400 ≤ n ∧ n ≤ 0x409)
/-- A reserved CSR number, or a CSRW to a read-only CSR, for a stream (R36). -/
def csrIllegal (sw wr : Bool) (n : Nat) : Bool :=
  if sw then !(if wr then csrSwWritable n else csrSwAssigned n)
  else !(csrSwOnly n) && !(if wr then csrWritable n else csrAssigned n)
/-- A VTYPE value that CSRW and VCFG take (R72). -/
def vtypeOk (v : Word) : Bool := fld v 63 7 == 0 && decide (fld v 3 0 ≤ 6)

/-- The value of a CSR of a compute stream (R47). -/
def csrValue (s : State) (sid n : Nat) : Word :=
  let cid := coreOf sid
  let st := streamAt s sid
  let g := gangOfCore s cid
  match n with
  | 0x0 => st.sstat
  | 0x1 => boolWord (detOf s cid)
  | 0x2 => st.vtype
  | 0x4 => (g.map fun x => zx64 x.tick).getD 0
  | 0x5 => BitVec.ofNat 64 (cid % 4 + cid % 64 / 4 * 4 + cid % 64 * 64 + dieOf cid * 4096 + packageId s * 32768)
  | 0x6 => (g.map fun x =>
      BitVec.ofNat 64 (x.origin + x.w.log2 * 64 + x.h.log2 * 512 + x.origin * 65536)).getD 0
  | 0x7 => (g.map fun x => BitVec.ofNat 64 (bfld x.record 56 4)).getD 0
  | 0x8 => (coreAt s cid).seatVa
  | 0x9 => zx64 (coreAt s cid).seq
  | 0xA => st.loop
  | 0xB => (g.map fun x => zx64 x.slip).getD 0
  | 0xC => BitVec.ofNat 64 (ctxOf s cid)
  | _ => 0
/-- The value of a CSR of a Steward (R401). -/
def csrSwValue (s : State) (sid n : Nat) : Word :=
  let w := stewardAt s (sid - 2048)
  match n with
  | 0x0 => (streamAt s sid).sstat
  | 0x5 => BitVec.ofNat 64 (sid - 2048 + packageId s * 32768)
  | 0xA => (streamAt s sid).loop
  | 0x400 => w.scause
  | 0x401 => w.sepc
  | 0x402 => w.sval
  | 0x403 => w.svec
  | 0x404 => w.sasn
  | 0x405 => w.sstatus
  | 0x406 => w.sevent
  | 0x407 => w.sevmask
  | 0x408 => w.stick
  | 0x409 => w.sscr
  | _ => 0
/-- CSRW on a compute stream (R72). -/
def csrWrite (s : State) (sid n : Nat) (v : Word) : State :=
  modStream s sid fun st =>
    match n with
    | 0x0 => { st with sstat := setFld st.sstat 9 8 (fld v 9 8) }
    | 0x2 => { st with vtype := v }
    | 0xA => { st with loop := v }
    | _ => st
/-- CSRW on the SW stream (R401): reserved bits read 0, SEVENT clears the bits written 1. -/
def csrSwWrite (s : State) (sid n : Nat) (v : Word) : State :=
  let m := sid - 2048
  match n with
  | 0xA => modStream s sid fun st => { st with loop := v }
  | 0x400 => modSteward s m fun w => { w with scause := v &&& 0xFF }
  | 0x401 => modSteward s m fun w => { w with sepc := v &&& 0x3FFFF }
  | 0x402 => modSteward s m fun w => { w with sval := v }
  | 0x403 => modSteward s m fun w => { w with svec := v &&& 0x3FFFF }
  | 0x404 => modSteward s m fun w => { w with sasn := v &&& 0x7F }
  | 0x405 => modSteward s m fun w => { w with sstatus := (w.sstatus &&& 2) ||| (v &&& 1) }
  | 0x406 => modSteward s m fun w => { w with sevent := w.sevent &&& ~~~v }
  | 0x407 => modSteward s m fun w => { w with sevmask := v }
  | 0x409 => modSteward s m fun w => { w with sscr := v }
  | _ => s

end Sys2Proof.Machine
end

