-- ==== Sys2Proof/Machine/System.lean ====
section
/-! DEFINITION. The SYS and CSR majors (R64 to R72, R86) and the privileged forms of the SW stream (R403). -/
namespace Sys2Proof.Machine

/-! ### Snapshots (R466): the trigger -/

def snapctl : Nat := ioBlock 0 + 0x04000200
/-- A trigger while a snapshot is held adds 1 to MISS, which saturates; otherwise it is taken at the end of
the tick, by SNAPSHOT_LATCH. Triggers in one tick give one snapshot. -/
def snapTrigger (s : State) (src : BitVec 3) : State :=
  let v := areg s snapctl
  if bitAt v 7 then setAreg s snapctl (setFld v 63 56 (Nat.min 255 (fld v 63 56 + 1)))
  else if s.snapPend.isSome then s
  else { s with snapPend := some src }

/-! ### SYS -/

def execNop (tk : Tok) (s : State) : Out := issue { legal := allStreams } tk (fun s => .done s {}) s

/-- R66: the entry is written after the pops, the gang freezes, and the stream stays at the TRAP until it is
resolved. On SW it is a Steward exception that returns to the next word (R86, R402). DESIGN CHOICE (log entry 77): on SW
the word does not count as issued, so neither the slot count nor a loop count advances. -/
def execTrap (tk : Tok) (code : BitVec 12) (s : State) : Out :=
  issue { legal := allStreams } tk
    (fun s =>
      let sid := s.cur
      let s' := if 0xF00 ≤ code.toNat then snapTrigger s 3 else s
      if isSW sid then .raw (stewardException s' sid 0x50 (zx64 code) (nextPc s sid))
      else if !canRaise s (dieOf (coreOf sid)) then .stall (setExstat s (dieOf (coreOf sid)) 8)
      else
        let f := coreFault (coreOf sid) (kindOf sid) ((streamAt s sid).pc.setWidth 32) 0x50 (zx64 code) s
        let e := nextEntry s (dieOf (coreOf sid))
        .raw (raise (modStream s' sid fun st => { st with phase := .trapped e tk }) f)) s

/-- The latest landing slot of a result in flight (R54). -/
def lastLanding (st : Stream) : Nat := st.flying.foldl (fun n f => Nat.max n f.due) 0
/-- Every result in flight lands, in order (R54, R57, R68). -/
def landAll (st : Stream) : Stream := st.flying.foldl landFlight { st with flying := [] }
/-- R54, R67: the next slot is max(s + 1, t); a stream parks when a pre-emption is pending, after its pushes. -/
def execSafept (tk : Tok) (imm : BitVec 12) (s : State) : Out :=
  issue { legal := computeStreams } tk
    (fun s =>
      let sid := s.cur
      let pre := match gangOfCore s (coreOf sid) with
        | some x => x.preempt
        | none => false
      .done (modStream s sid fun st =>
        let st' := { st with slot := Nat.max (st.slot + 1) (lastLanding st) - 1 }
        if !pre then st'
        else if pushQueues (kindOf sid) tk = [] then { landAll st' with phase := .parked imm.toNat }
        else { landAll st' with phase := .holding (.park imm.toNat) }) { safe := true }) s

/-- The pushes of a stream that waited for its hold, or for its end, may now be made (R15). -/
def freePushes (s : State) (sid : Nat) (w : PushWhen) : State :=
  modCore s (coreOf sid) fun c =>
    { c with pushes := mapIf (fun p => p.stream == sid && p.cond == w) (fun p => { p with cond := .now }) c.pushes }
/-- The end of an ENDLEG (R68): once nothing is in flight, in no freeze (R352), it is performed; the loop and the latches go. -/
def finishEnd (s : State) (sid : Nat) : State :=
  let st := streamAt s sid
  if st.phase = .ending ∧ st.flying = [] ∧ st.outst = [] ∧ frozen s sid = false then
    freePushes (putStream s sid
      { st with phase := .ended, loop := setFld st.loop 31 0 0, latch := Vector.replicate 4 none }) sid .ends
  else s
def execEndleg (tk : Tok) (s : State) : Out :=
  match issue { legal := computeStreams } tk
    (fun s => .done (modStream s s.cur fun st => { st with phase := .ending })
      { push := .ends, jump := some (streamAt s s.cur).pc }) s with
  | .next s' => .next (finishEnd s' s'.cur)
  | o => o
/-- R69: WAITL issues, and then holds its stream while more than n writes are outstanding. -/
def execWaitl (tk : Tok) (n : BitVec 12) (s : State) : Out :=
  issue { legal := allStreams } tk
    (fun s =>
      let sid := s.cur
      if (streamAt s sid).outst.length ≤ n.toNat then .done s {}
      else .done (modStream s sid fun st => { st with phase := .holding (.waitl n.toNat) }) { push := .holdEnds }) s

/-! ### CSRs -/

def execCsrr (tk : Tok) (d : Reg) (num : BitVec 11) (s : State) : Out :=
  let n := num.toNat
  let sw := isSW s.cur
  issue { illegal := csrIllegal sw false n, legal := if csrSwOnly n then [4] else allStreams, dsts := locX d } tk
    (fun s => landX s s.cur false d.toNat (if isSW s.cur then csrSwValue s s.cur n else csrValue s s.cur n) 1) s
/-- R72: a reserved VTYPE value raises Illegal Encoding and writes nothing. -/
def execCsrw (tk : Tok) (a : Reg) (num : BitVec 11) (s : State) : Out :=
  let n := num.toNat
  let sw := isSW s.cur
  issue { illegal := csrIllegal sw true n, legal := if csrSwOnly n then [4] else allStreams, srcs := [.x a.toNat] } tk
    (fun s =>
      let v := readX (streamAt s s.cur) a.toNat
      if isSW s.cur then .done (csrSwWrite s s.cur n v) {}
      else if n == 2 && !vtypeOk v then .fault s 0x01 0
      else .done (csrWrite s s.cur n v) {}) s

/-! ### The privileged forms (R403) -/

/-- ERET: the return from an exception. With EIN = 0 it raises Illegal Encoding. -/
def execEret (s : State) : Out :=
  issue { legal := [4] } 0
    (fun s =>
      if bitAt (stewardAt s (s.cur - 2048)).sstatus 0 then
        let (s', pc) := stewardReturn s s.cur
        .done s' { jump := some pc }
      else .fault s 0x01 0) s
def execWfe (s : State) : Out :=
  issue { legal := [4], waits := true } 0
    (fun s =>
      let w := stewardAt s (s.cur - 2048)
      if (w.sevent &&& w.sevmask) = 0 then .stall s else .done s {}) s
/-- log2 of the bytes of a page of each SIZE (R357). -/
def pageBits (size : Nat) : Nat := 14 + 4 * size
/-- SIZE of a leaf. -/
def leafSize (leaf : BitVec 64) : Nat := fld leaf 3 1
/-- A translation covers a context and VA[55:14]. -/
def tlbCovers (e : TlbEntry) (ctx page : Nat) : Bool :=
  let k := 2 ^ (pageBits (leafSize e.leaf) - 14)
  e.ctx == ctx && page / k == e.vpn / k
/-- IPI: a release at SYSTEM, then the target's SEVENT[0]. -/
def execIpi (n : BitVec 4) (s : State) : Out :=
  issue { legal := [4] } 0
    (fun s => withQuiet s s.cur (fixedScope s 0 7) fun s =>
      .done (modSteward s ((s.cur - 2048) / 16 * 16 + n.toNat) fun w => { w with sevent := w.sevent ||| 1 }) {}) s

end Sys2Proof.Machine
end

