-- ==== Sys2Proof/Machine/Memory.lean ====
section
/-! DEFINITION. Memory as its home sees it: keys (R272, R273), format windows (R266 to R268), carved storage
(R265), dirty sectors (R271), translation (R355 to R359, R260, R406), race claims (R297, R298), the L1 (R92),
replicas (R264), scopes as an operation captures them (R289 to R295), and packets as they are sent (R378). -/
namespace Sys2Proof.Machine

/-! ### Keys and format windows -/

/-- The 512 bits of a key slot of a die (R273). -/
def slotKey (s : State) (d k : Nat) : BitVec 512 :=
  BitVec.ofNat 512 ((List.range 8).foldl (fun n i => n + (areg s (dieBlock d + 0x01006000 + 64 * k + 8 * i)).toNat * 2 ^ (64 * i)) 0)
/-- The key value under which a sector's DRAM bytes are encrypted; an unlisted one has key 0 (log entry 5). -/
def keyTag (s : State) (sec : Nat) : BitVec 512 := (aget s.keyTags sec).getD 0
/-- A sector's bytes under one key, read with another (R272). -/
def rekey (old new : BitVec 512) (sec : Nat) (bs : List Byte) : List Byte :=
  if old = new then bs
  else xtsSector false (leBytes 64 new.toNat) sec (xtsSector true (leBytes 64 old.toNat) sec bs)

def winPa (d n r : Nat) : Nat := dieBlock d + 0x01005000 + 32 * n + 8 * r
/-- The scale region of a window, as offsets from SPA (R268). DESIGN CHOICE (log entry 112): B is 32 for a format that has no
blocks. -/
def winScaleLen (s : State) (d n : Nat) : Nat :=
  let cfg := areg s (winPa d n 3)
  let row := (fld cfg 31 16 + 1) * 16
  let fmt := fld cfg 4 0
  (fld (areg s (winPa d n 1)) 51 7 - fld (areg s (winPa d n 0)) 51 7) * 128 / Nat.max 1 (rowBytes fmt row) *
    ceilDiv row (blockLen fmt) * fld cfg 9 8
/-- The window of a die that a line belongs to: the lowest-numbered enabled one (R268). -/
def windowOf (s : State) (pa : Nat) : Option Nat :=
  let d := pa / 2 ^ 36
  (List.range 32).find? fun n =>
    bitAt (areg s (winPa d n 3)) 5 && decide (fld (areg s (winPa d n 0)) 51 7 ≤ pa / 128) &&
      decide (pa / 128 < fld (areg s (winPa d n 1)) 51 7)
/-- The format in which a line is transposed, if it is (R268). -/
def planeFmt (s : State) (pa : Nat) : Option Nat :=
  let d := pa / 2 ^ 36
  match windowOf s pa with
  | none => none
  | some n =>
    let cfg := areg s (winPa d n 3)
    let spa := fld (areg s (winPa d n 2)) 51 0
    let line := pa / 128 * 128
    if bitAt cfg 6 && !(decide (spa ≤ line) && decide (line + 128 ≤ spa + winScaleLen s d n)) then some (fld cfg 4 0)
    else none
/-- The bytes of a line in element form, each sector under its own key. -/
def elemLine (s : State) (line : Nat) : List Byte :=
  match planeFmt s line with
  | some c => planeBytes false c (mread s.mem line 128)
  | none => mread s.mem line 128
/-- A line as a slice gives it under a key (R268, R272). -/
def lineUnder (s : State) (line : Nat) (key : BitVec 512) : List Byte :=
  if (List.range 4).all fun i => keyTag s (line / 32 + i) == key then mread s.mem line 128
  else
    let el := elemLine s line
    let v := (List.range 4).flatMap fun i =>
      rekey (keyTag s (line / 32 + i)) key (line / 32 + i) ((el.drop (32 * i)).take 32)
    match planeFmt s line with
    | some c => planeBytes true c v
    | none => v
/-- Bytes of HBM within one line, read at home under a key. -/
def homeRead (s : State) (pa n : Nat) (key : BitVec 512) : List Byte :=
  ((lineUnder s (pa / 128 * 128) key).drop (pa % 128)).take n
/-- An HBM address in region B (R259). -/
def regionB (pa : Nat) : Bool := decide (0xC00000000 ≤ pa % 2 ^ 36)
/-- Keep what DRAM holds of sectors about to become dirty (R271): the bytes, then their key. A bank unit reads DRAM past
the slices: its weights in region B, its scales in any region (R270). -/
def markDirty (s : State) (lo n : Nat) : State :=
  let el := elemLine s (lo / 128 * 128)
  (List.range (n / 32)).foldl (fun s i =>
    let sec := lo / 32 + i
    if (aget s.dram sec).isSome then s
    else
      let old := (el.drop (lo % 128 + 32 * i)).take 32 ++ leBytes 64 (keyTag s sec).toNat
      { s with dram := aput s.dram sec old }) s
/-- The sectors that a write of `n` bytes re-encrypts: whole groups of a transposed line. -/
def granule (s : State) (pa : Nat) : Nat :=
  match planeFmt s pa with
  | some c => Nat.max 32 (groupBytes c)
  | none => 32
/-- Bytes of HBM within one line, written at home under a key. -/
def homeWrite (s : State) (pa : Nat) (bs : List Byte) (key : BitVec 512) : State :=
  let g := granule s pa
  let lo := pa / g * g
  let n := ceilDiv (pa + bs.length) g * g - lo
  let s := markDirty s lo n
  let s :=
    if (List.range (n / 32)).all fun i => keyTag s (lo / 32 + i) == key then s
    else
      { s with
        mem := mwrite s.mem lo (((lineUnder s (lo / 128 * 128) key).drop (lo % 128)).take n)
        keyTags := (List.range (n / 32)).foldl (fun t i =>
          if key = 0 then adel t (lo / 32 + i) else aput t (lo / 32 + i) key) s.keyTags }
  { s with mem := mwrite s.mem pa bs }

/-! ### Reading and writing by physical address -/

/-- MiB of a slice carved as storage (R265). -/
def waysOf (s : State) (d v : Nat) : Nat := fld (areg s (dieBlock d + 0x01004000 + 8 * v)) 3 0
def dstatePa (d : Nat) : Nat := ioBlock 0 + 0x04000300 + 8 * d
def dieState (s : State) (d : Nat) : Nat := fld (areg s (dstatePa d)) 2 0
/-- A die serves its memory: ONLINE or EVACUATING (R406). -/
def dieServes (s : State) (d : Nat) : Bool := dieState s d == 2 || dieState s d == 3
/-- The fault of an access at an address of this package: a lost slice, vault or carve way (R367, R406), carved storage
beyond WAYS (R265). -/
def paFault (s : State) (pa : Nat) : Option (BitVec 8) :=
  match placeOf (localPa s pa) with
  | .hbm d v => if (dieAt s d).offSlices.contains v || (dieAt s d).offVaults.contains v || !dieServes s d then some 0x22 else none
  | .carve d v o =>
    if (dieAt s d).offSlices.contains v || (dieAt s d).offCarve.contains (16 * v + o / 0x100000) || !dieServes s d then some 0x22
    else if waysOf s d v * 0x100000 ≤ o then some 0x23 else none
  | _ => none
/-- Bytes that lie outside the package, or nowhere: the spec states no value (log entry 3). -/
def openBytes (s : State) (n : Nat) : List Byte := leBytes n (Config.freeBits s.freeCtr (8 * n)).toNat
/-- Bytes within one line, at the address's home, under a key slot. -/
def pieceRead (s : State) (pa n k : Nat) : List Byte :=
  match placeOf pa with
  | .hbm d _ => homeRead s pa n (slotKey s d k)
  | .carve .. => mread s.mem pa n
  | _ => openBytes s n
def pieceWrite (s : State) (pa : Nat) (bs : List Byte) (k : Nat) : State :=
  match placeOf pa with
  | .hbm d _ => homeWrite s pa bs (slotKey s d k)
  | .carve .. => { s with mem := mwrite s.mem pa bs }
  | .host l o =>
    { s with hostOut := s.hostOut ++ (List.range bs.length).map fun i => (l, o + i, (bs.getD i 0).setWidth 64) }
  | _ => s
/-- The pieces of a run of bytes, line by line: address, length. -/
def pieces (pa n : Nat) : List (Nat × Nat) :=
  (List.range (ceilDiv (pa % 128 + n) 128)).map fun i =>
    let lo := Nat.max pa (pa / 128 * 128 + 128 * i)
    (lo, Nat.min (pa + n) (pa / 128 * 128 + 128 * (i + 1)) - lo)
def paRead (s : State) (pa n k : Nat) : List Byte :=
  (pieces (localPa s pa) n).flatMap fun p => pieceRead s p.1 p.2 k
def paWrite (s : State) (pa : Nat) (bs : List Byte) (k : Nat) : State :=
  let p0 := localPa s pa
  (pieces p0 bs.length).foldl (fun s p => pieceWrite s p.1 ((bs.drop (p.1 - p0)).take p.2) k) s

/-! ### Translation -/

/-- The right an access needs (R358): R, R and W, R and X. -/
inductive Right where
  | rd | wr | xe
  deriving DecidableEq, Repr
/-- The TLB of a stream: a core's by its number, a Steward's from 512 on, a port's from 544 on (R359). -/
def tlbId (sid : Nat) : Nat := if isSW sid then 512 + (sid - 2048) else coreOf sid
def tlbGet (s : State) (t : Nat) : List TlbEntry :=
  if t < 512 then (coreAt s t).tlb else (aget s.swTlb (t - 512)).getD []
def tlbPut (s : State) (t : Nat) (l : List TlbEntry) : State :=
  if t < 512 then modCore s t fun c => { c with tlb := l } else { s with swTlb := aput s.swTlb (t - 512) l }
/-- The context of a stream's accesses; 64 stands for the Steward root register (R401, SASN KERN). -/
def xctx (s : State) (sid : Nat) : Nat :=
  if isSW sid then
    let a := (stewardAt s (sid - 2048)).sasn
    if bitAt a 6 then 64 else fld a 5 0
  else ctxOf s (coreOf sid)
/-- The root register (R355): the die's own; the kernel writes the same value on every die. -/
def rootOf (s : State) (die ctx : Nat) : BitVec 64 :=
  if ctx = 64 then s.kernRoot else areg s (dieBlock die + 0x02001000 + 8 * ctx)
/-- The die whose root registers an agent translates by: its own, and for a Steward with a context in SASN, a port or the Coach, which
stand on no die, die 0's. DESIGN CHOICE (log entry 117): R355 gives a root register to each die and names none for an I/O die. -/
def tlbDie (t : Nat) : Nat := if t < 512 then dieOf t else 0
/-- The LAYOUT that R260 asks of a frame; `none` for a frame that no page may map. -/
def layoutOf (s : State) (pa : Nat) : Option Nat :=
  let region (o : Nat) : Nat := if o < 0x800000000 then 0 else if o < 0xC00000000 then 1 else 2
  match placeOf (localPa s pa) with
  | .hbm _ _ => some (region (localPa s pa % 2 ^ 36))
  | .carve .. => some 1
  | .host .. => some 1
  | .fabric p o =>
    if bitAt (fabricSet s) p && decide (o < 0x8200000000) then
      some (if o < 0x8000000000 then region (o % 2 ^ 36) else 1)
    else none
  | .atlas => some 3
  | .hole => none
def leafFrame (leaf : BitVec 64) : Nat := fld leaf 51 14 * 2 ^ 14
def leafKey (leaf : BitVec 64) : Nat := fld leaf 63 58
def leafChk (leaf : BitVec 64) : Bool := bitAt leaf 11
def leafRepl (leaf : BitVec 64) : Bool := bitAt leaf 10
/-- The die whose memory a frame lies on. -/
def frameDie (s : State) (pa : Nat) : Option Nat :=
  match placeOf (localPa s pa) with
  | .hbm d _ => some d
  | .carve d _ _ => some d
  | _ => none
def inAtlas (leaf : BitVec 64) : Bool :=
  match placeOf (leafFrame leaf) with
  | .atlas => true
  | _ => false
/-- Steps 1 and 2 of R358. The LAYOUT of a frame in Atlas space is not looked at (R260). -/
def leafForm (s : State) (leaf : BitVec 64) : Option (BitVec 8) :=
  let size := leafSize leaf
  let f := leafFrame leaf
  if !bitAt leaf 0 then some 0x20
  else if 4 < size || (fld leaf 9 8 == 3 && !inAtlas leaf) || fld leaf 57 52 != 0 || fld leaf 13 12 != 0 || bitAt leaf 4 ||
      f % 2 ^ pageBits (Nat.min size 4) != 0 then some 0x22
  else match layoutOf s f with
    | none => some 0x22
    | some 3 => none
    | some l =>
      if l ≠ fld leaf 9 8 then some 0x22
      else match frameDie s f with
        | some d => if dieServes s d then none else some 0x22
        | none => none
/-- The tests of step 3 of R358 that keep a leaf out of the TLB; the Steward's own root may reach the Atlas. -/
def leafBarred (ctx : Nat) (leaf : BitVec 64) : Bool :=
  (bitAt leaf 10 && bitAt leaf 6) || (decide (ctx < 64) && inAtlas leaf)
def hasRight (leaf : BitVec 64) (r : Right) : Bool :=
  bitAt leaf 5 && (match r with
    | .rd => true
    | .wr => bitAt leaf 6
    | .xe => bitAt leaf 7)
/-- The host link of an address, if it names one, is trained (R462). -/
def hostUp (s : State) (pa : Nat) : Bool :=
  match placeOf pa with
  | .host l _ => (vget s.hostLinks l { trained := false, cxl := false }).trained
  | _ => true
/-- The die of a home, through the fabric; a host window, the Atlas or a Steward's access needs no packet. -/
def homeGlobal (s : State) (pa : Nat) : Option Nat :=
  match placeOf (localPa s pa) with
  | .hbm d _ => some (globalDie s d)
  | .carve d _ _ => some (globalDie s d)
  | .fabric p o => some (8 * p + (if o < 0x8000000000 then o / 2 ^ 36 else (o - 0x8000000000) / 0x40000000))
  | _ => none
/-- An entry of a table, read at its home under the root's key (R356). The read is an access of the walker's agent, and may fail
as one: carved storage beyond WAYS (R265), a lost slice or die (R406), a host link not trained (R462), and a home that no way
leads to (R381; `ok` says which dies the walker reaches). A fault comes with its VA field. -/
def pte (s : State) (ok : Nat → Bool) (root va : BitVec 64) (pa : Nat) : Except (BitVec 8 × Word) (BitVec 64) :=
  match paFault s pa with
  | some c => .error (c, va)
  | none =>
    if !hostUp s pa then .error (0x40, BitVec.ofNat 64 pa)
    else if (homeGlobal s pa).any fun d => !ok d then .error (0xF0, BitVec.ofNat 64 pa)
    else .ok (BitVec.ofNat 64 (leNat (paRead s pa 8 (leafKey root))))
/-- An entry of a table of level 2 to 4, which must be present. -/
def walkLevel (s : State) (ok : Nat → Bool) (root va : BitVec 64) (t idx : Nat) : Except (BitVec 8 × Word) (BitVec 64) :=
  (pte s ok root va (t + idx * 8)).bind fun e => if !bitAt e 0 then .error (0x20, va) else .ok e
/-- The table that such an entry points to. -/
def nextTable (e va : BitVec 64) : Except (BitVec 8 × Word) Nat :=
  if fld e 13 1 != 0 || fld e 63 52 != 0 then .error (0x22, va) else .ok (leafFrame e)
/-- The walk of R356: the leaf as read, or the fault of a level. -/
def walk (s : State) (ok : Nat → Bool) (root va : BitVec 64) : Except (BitVec 8 × Word) (BitVec 64) :=
  let big (e : BitVec 64) : Bool := leafSize e == 3 || leafSize e == 4
  if !bitAt root 0 then .error (0x20, va)
  else
    (walkLevel s ok root va (leafFrame root) (fld va 55 47)).bind fun e4 => (nextTable e4 va).bind fun t3 =>
    (walkLevel s ok root va t3 (fld va 46 36)).bind fun e3 => (nextTable e3 va).bind fun t2 =>
    (walkLevel s ok root va t2 (fld va 35 25)).bind fun e2 =>
      if big e2 then .ok e2
      else (nextTable e2 va).bind fun t1 =>
        (pte s ok root va (t1 + fld va 24 14 * 8)).bind fun e => if big e then .error (0x22, va) else .ok e
/-- The PA of a VA under a leaf. -/
def leafPa (leaf va : BitVec 64) : Nat := leafFrame leaf + va.toNat % 2 ^ pageBits (leafSize leaf)
/-- A translation: the PA, and the TLB entry it went by. -/
structure Xlat where
  pa : Nat
  via : TlbEntry
  deriving DecidableEq, Repr
/-- A translation is installed, most recent first; `seen` keeps it until a TLBI of its page (R264, R359). -/
def tlbInstall (s : State) (t : Nat) (e : TlbEntry) : State :=
  let s := tlbPut s t ((e :: tlbGet s t).take 512)
  { s with seen := if s.seen.contains e then s.seen else e :: s.seen }
/-- Translate an access (R304, R355 to R359): the fault with its VA field, or the PA; and the TLB afterwards. -/
def translate (s : State) (t ctx : Nat) (va : BitVec 64) (r : Right) : Except (BitVec 8 × Word) Xlat × State :=
  let page := fld va 55 14
  match (tlbGet s t).find? fun e => tlbCovers e ctx page with
  | some e =>
    let s := tlbPut s t (e :: (tlbGet s t).filter fun f => f != e)
    (if hasRight e.leaf r then .ok ⟨leafPa e.leaf va, e⟩ else .error (0x21, va), s)
  | none =>
    match walk s (tlbReaches s t) (rootOf s (tlbDie t) ctx) va with
    | .error e => (.error e, s)
    | .ok leaf =>
      match leafForm s leaf with
      | some c => (.error (c, va), s)
      | none =>
        if leafBarred ctx leaf then (.error (0x21, va), s)
        else
          let k := 2 ^ (pageBits (leafSize leaf) - 14)
          let e : TlbEntry := { ctx := ctx, vpn := page / k * k, leaf := leaf }
          (if hasRight leaf r then .ok ⟨leafPa leaf va, e⟩ else .error (0x21, va), tlbInstall s t e)
/-! ### TLBI (R264, R403) -/

/-- The translations of a page: those that a TLB has held since the last TLBI of the page, those that TLBs and replicas still
hold, and the one its tables give now. -/
def pageLeaves (s : State) (ctx page : Nat) : List (BitVec 64) :=
  let held := s.seen ++ (s.cores.flatMap fun e => e.2.tlb) ++ (s.swTlb.flatMap fun e => e.2) ++
    s.dies.flatMap fun e => e.2.replicas.map fun r => r.via
  let now := (List.range 8).filterMap fun d => match walk s (fun _ => true) (rootOf s d ctx) (BitVec.ofNat 64 (page * 16384)) with
    | .ok leaf => some leaf
    | .error _ => none
  ((held.filter fun e => tlbCovers e ctx page).map fun e => e.leaf) ++ now
/-- A line, by its local address, lies in the frame of a leaf, which may name it through the package's own window (R451). -/
def inFrame (s : State) (leaf : BitVec 64) (pa : Nat) : Bool :=
  let f := localPa s (leafFrame leaf)
  decide (f ≤ pa) && decide (pa < f + 2 ^ pageBits (leafSize leaf))
/-- Remove every translation that a TLBI covers from every TLB of the package, and every L1 line filled by one (R92, R403). -/
def tlbiOp (s : State) (p : TlbEntry → Bool) : State :=
  { s with
    cores := s.cores.map fun e => (e.1, { e.2 with
      tlb := e.2.tlb.filter fun t => !p t
      l1 := e.2.l1.filter fun l => !p l.via })
    swTlb := s.swTlb.map fun e => (e.1, e.2.filter fun t => !p t) }
/-- TLBI PAGE also invalidates the page's replicas in every slice (R264). A replica is held by its PA, so every one of the
page's frame goes, whichever page it was made through (log entry 92). -/
def tlbiPage (s : State) (ctx page : Nat) : State :=
  let leaves := pageLeaves s ctx page
  let mine (r : Replica) : Bool := tlbCovers r.via ctx page || leaves.any fun l => inFrame s l r.pa
  let s := tlbiOp s fun e => tlbCovers e ctx page
  { s with
    seen := s.seen.filter fun e => !tlbCovers e ctx page
    dies := s.dies.map fun e => (e.1, { e.2 with replicas := e.2.replicas.filter fun r => !mine r }) }
def execTlbi (kind : BitVec 4) (r : Reg) (s : State) : Out :=
  issue { legal := [4], srcs := if kind = 0 then [] else [.x r.toNat] } 0
    (fun s =>
      let v := readX (streamAt s s.cur) r.toNat
      match kind.toNat with
      | 0 => .done (tlbiOp s fun _ => true) {}
      | 1 => .done (tlbiOp s fun e => e.ctx == fld v 5 0) {}
      | _ => .done (tlbiPage s (fld v 63 58) (fld v 55 14)) {}) s

/-- An entry of the part's own, for an address in the window of a host link that was not trained, is unresolved (R462). -/
def hostHeld (s : State) (die pa : Nat) : Bool :=
  (dieAt s die).unresolved.any fun e => e.code == 0x40 && e.gang == 0xFF && e.va == BitVec.ofNat 64 pa
/-- An access by PA of the rings and the Coach may be made: its host link, if any, is trained, and no entry for it is
unresolved. -/
def hostGo (s : State) (die pa : Nat) : Bool := hostUp s pa && !hostHeld s die pa
/-- The access raises Peer Gone, once, and waits for the entry (R462): agent 4 in that die's fault queue, in no gang (log
entry 105). -/
def hostAsk (s : State) (die pa : Nat) : State :=
  if hostUp s pa || hostHeld s die pa then s
  else if !canRaise s die then setExstat s die 8
  else raise s { die := die, agent := 4, code := 0x40, va := BitVec.ofNat 64 pa
                 tick := (areg s (dieBlock die + 0x02000100)).setWidth 48 }
/-- Translate and check the address (R265, R367, R462): the code and the VA field of the fault. -/
def access (s : State) (t ctx : Nat) (va : BitVec 64) (r : Right) : Except (BitVec 8 × Word) Xlat × State :=
  match translate s t ctx va r with
  | (.error e, s) => (.error e, s)
  | (.ok x, s) =>
    match paFault s x.pa with
    | some c => (.error (c, va), s)
    | none => (if hostUp s x.pa then .ok x else .error (0x40, BitVec.ofNat 64 x.pa), s)
/-! ### Race claims (R297, R298) -/

def claimAt (s : State) (line : Nat) : Claim := (aget s.claims line).getD { writer := none, readers := [], sole := 0 }
/-- An agent has claimed a line in its open region: of a stream, the claims that a push is still to release are not in it. -/
def claimsLine (s : State) (g line : Nat) (c : Claim) : Bool :=
  (c.writer == some g && !(closingOf s g).contains (line, true)) || (c.readers.contains g && !(closingOf s g).contains (line, false))
/-- Lines an agent has claimed in its open region. -/
def claimedLines (s : State) (g : Nat) : Nat := (s.claims.filter fun e => claimsLine s g e.1 e.2).length
/-- Check and grant a claim of agent `g` on a line (R298). -/
def claimTake (s : State) (g line : Nat) (wr : Bool) : Except (BitVec 8) State :=
  let c := claimAt s line
  let mine := c.readers.contains g
  let full := decide (g < 4096) && !claimsLine s g line c && decide (512 ≤ claimedLines s g)
  if c.writer.isSome && c.writer != some g then .error 0x28
  else if wr then
    if 2 ≤ c.readers.length || (c.readers.length == 1 && !mine) then .error 0x28
    else if full then .error 0x29
    else
      let c' : Claim := { c with writer := some g }
      .ok { s with claims := aput s.claims line c' }
  else if mine then (if full then .error 0x29 else .ok s)
  else if c.readers.length = 14 || full then .error 0x29
  else
    let c' : Claim := { c with readers := c.readers ++ [g], sole := if c.readers.isEmpty then g else c.sole }
    .ok { s with claims := aput s.claims line c' }

/-! ### The L1 (R92) and replicas (R264) -/

def lineOf (pa : Nat) : Nat := pa / 128 * 128
/-- Lines of the set kept, most recent first, when one more way is needed. DESIGN CHOICE (log entry 79): the set of a line
is its line number modulo 64. -/
def keepWays (set k : Nat) (ls : List L1Line) : List L1Line :=
  match ls with
  | [] => []
  | l :: r =>
    if l.pa / 128 % 64 = set then
      match k with
      | 0 => keepWays set 0 r
      | j + 1 => l :: keepWays set j r
    else l :: keepWays set k r
def l1Same (pa ctx : Nat) (l : L1Line) : Bool := l.pa == lineOf pa && l.via.ctx == ctx
def l1Install (c : Core) (l : L1Line) : Core :=
  { c with l1 := l :: keepWays (l.pa / 128 % 64) 7 (c.l1.filter fun m => !l1Same l.pa l.via.ctx m) }
/-- A line leaves the L1. -/
def l1Evict (c : Core) (pa : Nat) : Core := { c with l1 := c.l1.filter fun l => l.pa != lineOf pa }
/-- A hit: the line, which becomes the most recent one. -/
def l1Hit (s : State) (cid pa ctx : Nat) : Option (List Byte × State) :=
  match (coreAt s cid).l1.find? (l1Same pa ctx) with
  | some l => some (l.data, modCore s cid fun c => { c with l1 := l :: c.l1.filter fun m => !l1Same pa ctx m })
  | none => none
/-- The L1 keeps no line of a host window, of carved storage or of a CHK page. -/
def l1Keeps (s : State) (x : Xlat) : Bool :=
  !leafChk x.via.leaf && (match placeOf (localPa s x.pa) with
    | .hbm .. => true
    | .fabric _ o => decide (o < 0x8000000000)
    | _ => false)
/-- The fills of a core for a line that are in flight will not be installed. -/
def staleFills (s : State) (cid pa : Nat) : State :=
  let hit (r : Req) : Bool := !isSW r.sid && coreOf r.sid == cid && lineOf r.pa == lineOf pa
  { s with requests := mapIf hit (fun r => { r with stale := true }) s.requests }
/-- A store of the core's own streams: copies are updated, and a fill in flight will not be installed. DESIGN CHOICE (log
entry 79): a store that hits is no use of the line for its replacement. -/
def l1Store (s : State) (cid pa : Nat) (bs : List Byte) : State :=
  let s := modCore s cid fun c =>
    { c with l1 := mapIf (fun l => l.pa == lineOf pa) (fun l =>
        { l with data := l.data.take (pa % 128) ++ bs ++ l.data.drop (pa % 128 + bs.length) }) c.l1 }
  staleFills s cid pa
/-- An atomic of the core invalidates the line it names (R308). A fill in flight is older than the atomic, and will not be
installed: a later load of the stream must not return it (R277). -/
def l1Drop (s : State) (cid pa : Nat) : State :=
  staleFills (modCore s cid fun c => l1Evict c pa) cid pa
/-- The slice above a core is the home of an address (R263). -/
def ownHome (s : State) (cid pa : Nat) : Bool :=
  match placeOf (localPa s pa) with
  | .hbm d v => d == dieOf cid && v == cid % 64
  | .carve d v _ => d == dieOf cid && v == cid % 64
  | _ => false
/-- A line is read through the reader's own slice: its page is a REPL page (R264), and it is no line of a host window, which no
LLC holds (R263). -/
def isRepl (leaf : BitVec 64) (pa : Nat) : Bool :=
  leafRepl leaf && (match placeOf pa with
    | .host .. => false
    | _ => true)
/-- The replica of a line that the reader's own slice holds: none where it was evicted (a free bit). -/
def replHit (s : State) (cid pa : Nat) : Option (List Byte) × State :=
  let line := lineOf (localPa s pa)
  let same (r : Replica) : Bool := r.slice == cid % 64 && r.pa == line
  let (gone, s) := freeVal s 1
  if gone = 0 then (((dieAt s (dieOf cid)).replicas.find? same).map fun r => r.data, s)
  else (none, modDie s (dieOf cid) fun y => { y with replicas := y.replicas.filter fun r => !same r })
/-- On a miss the line is read at its home, and the reader's own slice makes a replica; where the slice is itself the home it
holds the line already. -/
def replFill (s : State) (cid : Nat) (x : Xlat) : List Byte × State :=
  let line := lineOf (localPa s x.pa)
  let bs := paRead s line 128 (leafKey x.via.leaf)
  (bs, if ownHome s cid x.pa then s
    else modDie s (dieOf cid) fun y =>
      { y with replicas := ⟨cid % 64, line, x.via, bs⟩ :: y.replicas.filter fun r => !(r.slice == cid % 64 && r.pa == line) })
/-- Hardware that translates through a TLB reaches the home of an address (R381). -/
def homeReached (s : State) (t : Nat) (x : Xlat) : Bool :=
  match homeGlobal s x.pa with
  | some d => tlbReaches s t d
  | none => true
/-- A line of a REPL page for an engine of a core: what its slice holds, or a copy made now from the home, if that is reached. -/
def replLine (s : State) (cid : Nat) (x : Xlat) : Except (BitVec 8 × Word) (List Byte) × State :=
  match replHit s cid x.pa with
  | (some bs, s) => (.ok bs, s)
  | (none, s) =>
    if !homeReached s cid x then (.error (0xF0, BitVec.ofNat 64 x.pa), s)
    else
      let (bs, s) := replFill s cid x
      (.ok bs, s)
/-- Bytes at a translated address, read by what translates through a TLB: at the home, or for a core line by line in its own slice
at a REPL page; or Uncorrectable Error where the home is not reached. -/
def homeBytes (s : State) (t : Nat) (x : Xlat) (n : Nat) : Except (BitVec 8 × Word) (List Byte) × State :=
  if t < 512 && isRepl x.via.leaf x.pa then
    (pieces x.pa n).foldl (fun (a : Except (BitVec 8 × Word) (List Byte) × State) p =>
      match a with
      | (.error e, s) => (.error e, s)
      | (.ok bs, s) =>
        match replLine s t { x with pa := p.1 } with
        | (.error e, s) => (.error e, s)
        | (.ok line, s) => (.ok (bs ++ (line.drop (p.1 % 128)).take p.2), s)) (.ok [], s)
  else if !homeReached s t x then (.error (0xF0, BitVec.ofNat 64 x.pa), s)
  else (.ok (paRead s x.pa n (leafKey x.via.leaf)), { s with freeCtr := s.freeCtr + 1 })
/-- A run of bytes by VA, page by page, read with a right: the first fault, or the bytes; of a REPL page
a core reads its own slice (R264). -/
def vaRead (s : State) (t ctx : Nat) (va : BitVec 64) (n : Nat) (r : Right) : Except (BitVec 8 × Word) (List Byte) × State :=
  let p0 := va.toNat
  (List.range (ceilDiv (p0 % 16384 + n) 16384)).foldl (fun (acc : Except (BitVec 8 × Word) (List Byte) × State) i =>
    match acc with
    | (.error e, s) => (.error e, s)
    | (.ok bs, s) =>
      let lo := Nat.max p0 (p0 / 16384 * 16384 + 16384 * i)
      let m := Nat.min (p0 + n) (p0 / 16384 * 16384 + 16384 * (i + 1)) - lo
      match access s t ctx (BitVec.ofNat 64 lo) r with
      | (.error e, s) => (.error e, s)
      | (.ok x, s) =>
        match homeBytes s t x m with
        | (.error e, s) => (.error e, s)
        | (.ok v, s) => (.ok (bs ++ v), s)) (.ok [], s)
/-- A run of bytes by VA, given page by page, up to the first fault, to what writes them. -/
def vaWriteBy (s : State) (t ctx : Nat) (va : BitVec 64) (bs : List Byte)
    (put : State → Xlat → List Byte → Except (BitVec 8 × Word) Unit × State) : Except (BitVec 8 × Word) Unit × State :=
  let p0 := va.toNat
  (List.range (ceilDiv (p0 % 16384 + bs.length) 16384)).foldl (fun (acc : Except (BitVec 8 × Word) Unit × State) i =>
    match acc with
    | (.error e, s) => (.error e, s)
    | (.ok _, s) =>
      let lo := Nat.max p0 (p0 / 16384 * 16384 + 16384 * i)
      let m := Nat.min (p0 + bs.length) (p0 / 16384 * 16384 + 16384 * (i + 1)) - lo
      match access s t ctx (BitVec.ofNat 64 lo) .wr with
      | (.error e, s) => (.error e, s)
      | (.ok x, s) =>
        if !homeReached s t x then (.error (0xF0, BitVec.ofNat 64 x.pa), s) else put s x ((bs.drop (lo - p0)).take m)) (.ok (), s)
/-- A run of bytes by VA, written page by page up to the first fault. -/
def vaWrite (s : State) (t ctx : Nat) (va : BitVec 64) (bs : List Byte) : Except (BitVec 8 × Word) Unit × State :=
  vaWriteBy s t ctx va bs fun s x b => (.ok (), paWrite s x.pa b (leafKey x.via.leaf))

/-! ### Scopes as an operation captures them (R289 to R295) -/

/-- The context whose scope table a stream uses: a Steward's is the one SASN names (R293). -/
def scopeCtx (s : State) (sid : Nat) : Nat :=
  if isSW sid then fld (stewardAt s (sid - 2048)).sasn 5 0 else ctxOf s (coreOf sid)
def scopeZero : Scope := { hdr := 0, pkgs := 0, cores := 0, slices := 0 }
def scopeKey (ctx i : Nat) : Nat := 64 * ctx + i
def scopeMem (s : State) (ctx i : Nat) : Scope := (aget s.scopes (scopeKey ctx i)).getD scopeZero
/-- Entry `i` of a core's context: the cached version, which while an update is in flight may have been
invalidated already (a free bit), or what its read of context memory returns, which it then caches. -/
def scopeEntry (s : State) (cid i : Nat) : Scope × State :=
  let ctx := ctxOf s cid
  let cache := (coreAt s cid).scopeCache
  let (inval, s) := if s.scopeUpds.any (fun u => u.key == scopeKey ctx i) then freeVal s 1 else (0, s)
  let hit := if inval = 0 then cache.find? (fun e => e.1 == ctx && e.2.1 == i) else none
  let sc := match hit with
    | some e => e.2.2
    | none => scopeMem s ctx i
  (sc, modCore s cid fun c =>
    { c with scopeCache := ((ctx, i, sc) :: c.scopeCache.filter fun e => !(e.1 == ctx && e.2.1 == i)).take 16 })
/-- The scope a fence or an atomic of a stream captures (R293), or its fault. -/
def captureScope (s : State) (sid i : Nat) : Except (BitVec 8) Scope × State :=
  let (sc, s) :=
    if isSW sid then (if i < 8 then fixedScope s 0 i else scopeMem s (scopeCtx s sid) i, s)
    else if i < 8 then (fixedScope s (coreOf sid) i, s) else scopeEntry s (coreOf sid) i
  let member := if isSW sid then bitAt sc.hdr 16 else bitAt sc.cores (coreOf sid)
  if !bitAt sc.hdr 0 then (.error 0x30, s)
  else if !(member && pkgIn s sc (packageId s)) then (.error 0x31, s)
  else (.ok sc, s)

/-! ### Sending an access to its home -/

/-- A packet from one die to another, with the next sequence number of the pair (R378). -/
def sendPacket (s : State) (src dst : Nat) (p : Payload) : State :=
  let d := src % 8
  let q := (aget (dieAt s d).txSeq dst).getD 0
  let (id, s) := fresh s
  let s := modDie s d fun x => { x with txSeq := aput x.txSeq dst ((q + 1) % 65536) }
  let pk : Packet :=
    { id := id, src := src, dst := dst, at_ := src, seq := q, resent := false, response := false, payload := p,
      detour := [], queued := none, flits := 0 }
  { s with packets := s.packets ++ [pk] }
def isFabric (s : State) (pa : Nat) : Bool :=
  match placeOf (localPa s pa) with
  | .fabric .. => true
  | _ => false
/-- The die, through the fabric, that an access of a stream leaves from (a Steward's: die 0, log entry 44). -/
def srcGlobal (s : State) (sid : Nat) : Nat := globalDie s (if isSW sid then 0 else dieOf (coreOf sid))
/-- Tracked requests of a source die unanswered towards one die of another package, its engines' among them (R457). -/
def trackedOut (s : State) (src dst : Nat) : Nat :=
  (s.requests.filter fun r => srcGlobal s r.sid == src && isFabric s r.pa && homeGlobal s r.pa == some dst && (match r.op with
    | .store .. | .atomic .. => true
    | _ => false)).length + (s.remotes.filter fun m => m.src == src && m.dst == dst).length
/-- A tracked write of an engine or a port is sent to its home in another package; `none` where a 257th waits (R457). -/
def sendRemote (s : State) (src pa : Nat) (bs : List Byte) (o : RemoteOwner) : Option State :=
  match homeGlobal s pa with
  | none => some s
  | some dst =>
    if 256 ≤ trackedOut s src dst then none
    else
      let seq := (aget (dieAt s (src % 8)).txSeq dst).getD 0
      let (id, s) := fresh s
      let m : Remote := { id := id, src := src, dst := dst, track := seq, tries := 0, pa := pa, bytes := bs, owner := o }
      some (sendPacket { s with remotes := s.remotes ++ [m] } src dst (.put id))
/-- A tracked write of an owner has not been answered. -/
def remoteOut (s : State) (o : RemoteOwner) : Bool := s.remotes.any fun m => m.owner == o
/-- A write of hardware outside a core at a translated address, at its home at once or, in another package, by a tracked write
(R457); `none` where a 257th waits. -/
def hwPut (s : State) (src : Nat) (x : Xlat) (bs : List Byte) (o : RemoteOwner) : Option State :=
  if isFabric s x.pa then sendRemote s src x.pa bs o else some (paWrite s x.pa bs (leafKey x.via.leaf))
/-- A write of a ring or of the Coach to another package, as die `die`: a tracked write, which waits at issue behind earlier ones
and while 256 are unanswered (R457). -/
def hwSend (s : State) (die pa : Nat) (bs : List Byte) : State :=
  let wait : State := { s with hwOut := s.hwOut ++ [(die, pa, bs)] }
  if s.hwOut.any fun e => e.1 == die then wait
  else (sendRemote s (globalDie s die) pa bs (.hw die)).getD wait
/-- Writes that waited at issue are sent while there is room. -/
def flushHw (s : State) : State := s.hwOut.foldl (fun s e => hwSend s e.1 e.2.1 e.2.2) { s with hwOut := [] }
/-- The same write at its home, wherever that is. -/
def hwStore (s : State) (die pa : Nat) (bs : List Byte) (key : Nat) : State :=
  if isFabric s pa then hwSend s die pa bs else paWrite s pa bs key
/-- Such writes of a die are not all answered. -/
def hwBusy (s : State) (die : Nat) : Bool := remoteOut s (.hw die) || s.hwOut.any fun e => e.1 == die
/-- A die reaches the home of an address (R381). -/
def dieReaches (s : State) (die pa : Nat) : Bool :=
  match homeGlobal s pa with
  | some h => reachable s (globalDie s die) h
  | none => true
/-- An address in another package, or in the memory of a host. -/
def leavesPackage (s : State) (pa : Nat) : Bool :=
  isFabric s pa || (match placeOf pa with
    | .host .. => true
    | _ => false)
/-- Send an access with the registers it writes, if any: to its home on the die at once (R253), by a packet to
another die. A 257th tracked request waits (R457). A Steward's access to a die of the package that it does not reach
is answered at once (R381). A Steward holds for an access to another package or to a host, whose fault is
precise (R402; log entry 80). -/
def sendMem (s : State) (sid : Nat) (op : ReqOp) (x : Xlat) (va : Word) (regs : Option (List Loc)) : Res :=
  let pa := localPa s x.pa
  let src := srcGlobal s sid
  let far : Option Nat := match homeGlobal s pa with
    | some d => if isSW sid then (if isFabric s pa then some d else none)
      else if d = src || isRepl x.via.leaf pa then none else some d
    | none => none
  let tracked := isFabric s pa && (match op with
    | .load .. => false
    | _ => true)
  if isSW sid && !isFabric s pa && !homeReached s (tlbId sid) { x with pa := pa } then .fault s 0xF0 (BitVec.ofNat 64 pa)
  else if tracked && decide (256 ≤ trackedOut s src (far.getD 0)) then .stall s
  else
    let (oid, s) := match regs with
      | some ls => let (o, s) := addOutst s sid ls
        (some o, s)
      | none => (none, s)
    let seq := (aget (dieAt s (src % 8)).txSeq (far.getD 0)).getD 0
    let (id, s) := sendReq s { mkReq s sid op with pa := pa, va := va, leaf := x.via.leaf, outst := oid, arrived := far.isNone, track := seq }
    let s := match far with
      | some d => sendPacket s src d (.req id)
      | none => s
    let s := if isSW sid && leavesPackage s pa then modStream s sid fun st => { st with phase := .holding (.access id st.loop) } else s
    .done s { push := match oid with
      | some o => .written o
      | none => .performed id }
/-- A load of a REPL page looks the line up in its core's own slice, and is not sent on to the home yet (R264). -/
def inSlice (r : Req) : Bool := isRepl r.leaf r.pa && !isSW r.sid && !r.fetched
/-- Where an access goes: packets from one core to one destination, which is a slice, a host link or an Atlas block, arrive in the
order sent (R257). -/
def routeKey (s : State) (r : Req) : Nat :=
  match r.op with
  | .peer t _ => 100000 + t
  | .kvmap _ => 300000
  | .crcv p => 200000 + p
  | _ =>
    let slice (pa : Nat) : Nat := match placeOf pa with
      | .hbm d v => 64 * d + v
      | .carve d v _ => 64 * d + v
      | _ => 0
    let pa := localPa s r.pa
    if inSlice r then coreOf r.sid
    else match placeOf pa with
      | .fabric p o => 10000 + 512 * p + slice o
      | .host l _ => 2048 + l
      | .atlas => 4096 + (pa - 0x9000000000) / 0x10000000
      | _ => slice pa
def reqAt (s : State) (id : Nat) : Option Req := s.requests.find? fun r => r.id == id
def dropReq (s : State) (id : Nat) : State := { s with requests := s.requests.filter fun r => r.id != id }
/-- Two accesses leave from one core, or from one Steward. -/
def sameSource (q r : Req) : Bool := (if isSW q.sid then q.sid else coreOf q.sid) == if isSW r.sid then r.sid else coreOf r.sid
/-- Every access sent before this one, from the same core to the same destination, is done (R257, R277), and those that an
acquire waits for have their values (R280). One that holds for a fault keeps back those of its own stream alone, which are made in
issue order (R172, R239). -/
def inOrder (s : State) (r : Req) : Bool :=
  !acqLate s r && (s.requests.takeWhile fun q => q.id != r.id).all fun q =>
    !(routeKey s q == routeKey s r && (if q.hold.isSome then q.sid == r.sid else sameSource q r))
/-- An access reaches its destination: every one that was sent before it by its core has reached it too, and is done or holds
there for a fault (R248, R257). -/
def reaches (s : State) (r : Req) : Bool :=
  r.arrived && r.hold.isNone && (s.requests.takeWhile fun q => q.id != r.id).all fun q =>
    !(q.hold.isNone && routeKey s q == routeKey s r && sameSource q r)

end Sys2Proof.Machine
end

