-- ==== Sys2Proof/Machine/Global.lean ====
section
/-! DEFINITION. Global loads and stores (R301 to R304), atomics and datum accumulation at issue (R305 to R315),
fences (R316 to R318) and the scope table (R319 to R323). -/
namespace Sys2Proof.Machine

/-- Streams that may issue loads, atomics, fences and scope forms (R37). -/
def memStreams : List Nat := [0, 3, 4]
/-- The VA of an M-format access (R301). -/
def memVa (st : Stream) (a : Reg) (off : BitVec 10) (sz : BitVec 2) : Word :=
  readX st a.toNat + sx64 off * BitVec.ofNat 64 (2 ^ sz.toNat)
/-- The register value of a load of `n` bytes (R302). -/
def loadVal (signed : Bool) (bs : List Byte) : Word :=
  let n := 8 * bs.length
  if signed then BitVec.ofInt 64 (signedOf n (leNat bs)) else BitVec.ofNat 64 (leNat bs)
/-- A claim on a line of a CHK page by a stream, before the access is sent (R296, R298). -/
def withClaim (s : State) (sid : Nat) (x : Xlat) (va : Word) (wr : Bool) (k : State → Res) : Res :=
  if leafChk x.via.leaf && !isSW sid then
    match claimTake s sid (localPa s x.pa / 128) wr with
    | .error c => .fault s c va
    | .ok s => k (keepClaim s sid (localPa s x.pa / 128) wr)
  else k s
/-- The checks of R301 on an address, then its translation, once no acquire of the stream is in flight (R280). -/
def withVa (s : State) (sid : Nat) (va : Word) (n : Nat) (r : Right) (k : State → Xlat → Res) : Res :=
  if acqWaits s sid then .stall s
  else if !vaOk va then .fault s 0x23 va
  else if va.toNat % n ≠ 0 then .fault s 0x24 va
  else match access s (tlbId sid) (xctx s sid) va r with
    | (.error (c, v), s) => .fault s c v
    | (.ok x, s) => k s x

/-- A further effect of a form that has issued. -/
def andThen (r : Res) (f : State → State) : Res :=
  match r with
  | .done s a => .done (f s) a
  | o => o

/-! ### LD, LDU, ST -/

/-- An earlier load of the stream to the line is in flight: a later one must not pass it (R277). -/
def loadBefore (s : State) (sid pa : Nat) : Bool :=
  s.requests.any fun r => r.sid == sid && lineOf r.pa == lineOf pa && (match r.op with
    | .load .. => true
    | _ => false)

def globalLoad (signed : Bool) (tk : Tok) (d a : Reg) (off : BitVec 10) (sz : BitVec 2) (s : State) : Out :=
  issue { legal := [0, 4], srcs := [.x a.toNat], dsts := locX d, var := true } tk
    (fun s =>
      let sid := s.cur
      let n := 2 ^ sz.toNat
      let va := memVa (streamAt s sid) a off sz
      withVa s sid va n .rd fun s x => withClaim s sid x va false fun s =>
        let hit := if isSW sid || !l1Keeps s x || loadBefore s sid (localPa s x.pa) then none else l1Hit s (coreOf sid) (localPa s x.pa) (xctx s sid)
        match hit with
        | some (data, s) =>
          let (o, s) := addOutst s sid (locX d)
          let v := loadVal signed ((data.drop (x.pa % 128)).take n)
          .done (deliver s sid o [wX d.toNat v]) { push := .written o }
        | none => sendMem s sid (.load signed n) x va (some (locX d))) s
def execLd (tk : Tok) (d a : Reg) (off : BitVec 10) (sz : BitVec 2) (s : State) : Out := globalLoad true tk d a off sz s
def execLdu (tk : Tok) (d a : Reg) (off : BitVec 10) (sz : BitVec 2) (s : State) : Out := globalLoad false tk d a off sz s
/-- R303: the L1 is updated as the store is sent; STORE_PERFORM performs it. -/
def execSt (tk : Tok) (d a : Reg) (off : BitVec 10) (sz : BitVec 2) (s : State) : Out :=
  issue { legal := [3, 4], srcs := [.x d.toNat, .x a.toNat] } tk
    (fun s =>
      let sid := s.cur
      let n := 2 ^ sz.toNat
      let va := memVa (streamAt s sid) a off sz
      let v := readX (streamAt s sid) d.toNat
      withVa s sid va n .wr fun s x => withClaim s sid x va true fun s =>
        andThen (sendMem s sid (.store n v) x va none) fun s =>
          if isSW sid then s else l1Store s (coreOf sid) (localPa s x.pa) (leBytes n v.toNat)) s

/-! ### Atomics -/

/-- The die and slice whose table serves a word; none in Atlas space, which has no slice. -/
def datumHome (s : State) (pa : Nat) : Option (Nat × Nat) :=
  match placeOf (localPa s pa) with
  | .hbm d v => some (d, v)
  | .carve d v _ => some (d, v)
  | _ => none
/-- The stretches of a die's spill area that carved storage backs: PA and entries (R261, R265, R315). -/
def spillRuns (s : State) (d : Nat) : List (Nat × Nat) :=
  let r := areg s (dieBlock d + 0x01004200)
  let lo := fld r 29 0
  let hi := lo + 64 * fld r 63 40
  (List.range 64).filterMap fun v =>
    let a := Nat.max lo (v * 0x1000000)
    let b := Nat.min hi (v * 0x1000000 + waysOf s d v * 0x100000)
    if a < b then some (0x8000000000 + d * 0x40000000 + a, (b - a) / 64) else none
def spillRoom (s : State) (d : Nat) : Nat := (spillRuns s d).foldl (fun n r => n + r.2) 0
/-- Room for a new entry: in the slice's table, in the spill area, or none. -/
def datumRoom (s : State) (d v : Nat) : Option Bool :=
  let t := (dieAt s d).datum
  if (t.filter fun e => !e.2.spilled && datumHome s e.1 == some (d, v)).length < 4096 then some false
  else if (t.filter fun e => e.2.spilled).length < spillRoom s d then some true
  else none
/-- A DACC that would find no room for the entry it opens (R315). A Steward's is told at issue, where its fault is
precise (R402). -/
def noRoom (s : State) (i : Instr) (pa : Nat) : Bool :=
  match i, datumHome s pa with
  | .dacc .., some (d, v) => (aget (dieAt s d).datum pa).isNone && (datumRoom s d v).isNone
  | _, _ => false

/-- The checks of R306 in their order, and the sending of an atomic: `al` is the alignment. -/
def atomicSend (s : State) (i : Instr) (va : Word) (scope : BitVec 6) (al : Nat) (v w : Word)
    (regs : Option (List Loc)) : Res :=
  let sid := s.cur
  if acqWaits s sid then .stall s
  else if !vaOk va then .fault s 0x23 va
  else match captureScope s sid scope.toNat with
    | (.error c, s) => .fault s c 0
    | (.ok _, s) =>
      if va.toNat % al ≠ 0 then .fault s 0x24 va
      else match translate s (tlbId sid) (xctx s sid) va .wr with
        | (.error e, s) => .fault s e.1 e.2
        | (.ok x, s) =>
          match placeOf x.pa with
          | .host .. => .fault s 0x21 va
          | _ => match paFault s x.pa <|> (if isSW sid && noRoom s i (localPa s x.pa) then some 0x29 else none) with
            | some c => .fault s c va
            | none =>
              andThen (sendMem s sid (.atomic i v w) x va regs) fun s =>
                if isSW sid then s else l1Drop s (coreOf sid) (localPa s x.pa)
/-- An atomic of one operand: b is read and written (R307). -/
def atomic1 (i : Instr) (tk : Tok) (a b : Reg) (scope : BitVec 6) (sz : BitVec 2) (s : State) : Out :=
  issue { legal := memStreams, srcs := [.x a.toNat, .x b.toNat], dsts := locX b, var := true } tk
    (fun s =>
      let st := streamAt s s.cur
      atomicSend s i (readX st a.toNat) scope (if sz = 0 then 8 else 4) (readX st b.toNat) 0 (some (locX b))) s
/-- An atomic that takes a pair in b. -/
def atomic2 (i : Instr) (both : Bool) (tk : Tok) (a b : Reg) (scope : BitVec 6) (sz : BitVec 2) (s : State) : Out :=
  issue { legal := memStreams, srcs := [.x a.toNat, .xs b.toNat 2]
          dsts := if both then groupLocs b.toNat 2 else locX b, var := true } tk
    (fun s =>
      let st := streamAt s s.cur
      atomicSend s i (readX st a.toNat) scope (if sz = 0 then 8 else 4) (readX st b.toNat) (readX st (b.toNat + 1))
        (some (if both then pairLocs b.toNat else locX b))) s
def execAadd (tk : Tok) (a b : Reg) (scope : BitVec 6) (sz : BitVec 2) (s : State) : Out := atomic1 (.aadd tk a b scope sz) tk a b scope sz s
def execAswp (tk : Tok) (a b : Reg) (scope : BitVec 6) (sz : BitVec 2) (s : State) : Out := atomic1 (.aswp tk a b scope sz) tk a b scope sz s
def execAcas (tk : Tok) (a b : Reg) (scope : BitVec 6) (sz : BitVec 2) (s : State) : Out := atomic2 (.acas tk a b scope sz) false tk a b scope sz s
def execAand (tk : Tok) (a b : Reg) (scope : BitVec 6) (sz : BitVec 2) (s : State) : Out := atomic1 (.aand tk a b scope sz) tk a b scope sz s
def execAor (tk : Tok) (a b : Reg) (scope : BitVec 6) (sz : BitVec 2) (s : State) : Out := atomic1 (.aor tk a b scope sz) tk a b scope sz s
def execAxor (tk : Tok) (a b : Reg) (scope : BitVec 6) (sz : BitVec 2) (s : State) : Out := atomic1 (.axor tk a b scope sz) tk a b scope sz s
def execAmax (tk : Tok) (a b : Reg) (scope : BitVec 6) (sz : BitVec 2) (s : State) : Out := atomic1 (.amax tk a b scope sz) tk a b scope sz s
def execAmin (tk : Tok) (a b : Reg) (scope : BitVec 6) (sz : BitVec 2) (s : State) : Out := atomic1 (.amin tk a b scope sz) tk a b scope sz s
def execAmaxu (tk : Tok) (a b : Reg) (scope : BitVec 6) (sz : BitVec 2) (s : State) : Out := atomic1 (.amaxu tk a b scope sz) tk a b scope sz s
def execAminu (tk : Tok) (a b : Reg) (scope : BitVec 6) (sz : BitVec 2) (s : State) : Out := atomic1 (.aminu tk a b scope sz) tk a b scope sz s
def execAincw (tk : Tok) (a b : Reg) (scope : BitVec 6) (sz : BitVec 2) (s : State) : Out := atomic1 (.aincw tk a b scope sz) tk a b scope sz s
def execAfab (tk : Tok) (a b : Reg) (scope : BitVec 6) (sz : BitVec 2) (s : State) : Out := atomic2 (.afab tk a b scope sz) true tk a b scope sz s

/-- The word size of a datum format code (R310). -/
def datumSize (b : Word) : Nat := if fld b 33 32 = 0 then 4 else 2
/-- A datum operand keeps the limits of R310. -/
def datumOk (b : Word) (val : Bool) : Bool :=
  fld b 33 32 != 3 && fld b 63 34 == 0 && (!val || fld b 31 0 < 2 ^ (8 * datumSize b))
/-- DACC, DRD and DCLR (R306, R310): b is read; DRD and DCLR write it. -/
def datumForm (i : Instr) (val res : Bool) (al : Word → Nat) (tk : Tok) (a b : Reg) (scope : BitVec 6) (s : State) : Out :=
  issue { legal := memStreams, srcs := [.x a.toNat, .x b.toNat], dsts := if res then locX b else [], var := res } tk
    (fun s =>
      let st := streamAt s s.cur
      let v := readX st b.toNat
      if !datumOk v val then .fault s 0x01 0
      else atomicSend s i (readX st a.toNat) scope (al v) v 0 (if res then some (locX b) else none)) s
def execDacc (tk : Tok) (a b : Reg) (scope : BitVec 6) (s : State) : Out :=
  datumForm (.dacc tk a b scope) true false datumSize tk a b scope s
def execDrd (tk : Tok) (a b : Reg) (scope : BitVec 6) (s : State) : Out :=
  datumForm (.drd tk a b scope) false true datumSize tk a b scope s
def execDclr (tk : Tok) (a b : Reg) (scope : BitVec 6) (s : State) : Out :=
  datumForm (.dclr tk a b scope) false true (fun _ => 4) tk a b scope s

/-! ### Fences -/

/-- The accesses that a fence of a kind waits for (R280, R317, R318). DEDUCED (log entry 113): FENCE.ar waits for all that
FENCE.sc waits for. -/
def fenceReqs (s : State) (sid kind : Nat) (sc : Scope) : List Nat :=
  let p (r : Req) : Bool :=
    match kind with
    | 0 => takesValue r.op
    | 1 => reqWaits s sc r
    | 4 => !isLoadOp r.op && paIn s sc r.pa && (match placeOf r.pa with
        | .hbm .. => regionB r.pa
        | .fabric _ o => regionB o
        | _ => false)
    | 5 => takesValue r.op
    | _ => takesValue r.op || reqWaits s sc r
  (s.requests.filter fun r => r.sid == sid && p r).map fun r => r.id
/-- The bank commands that FENCE.br waits for (R318). -/
def fenceCmds (s : State) (sid kind : Nat) : List (BitVec 32) :=
  if kind = 5 && !isSW sid then ((coreAt s (coreOf sid)).cmds.filter fun k => k.engine == 6).map fun k => k.seq else []
/-- What a fence waits for is done. -/
def fenceDone (s : State) (sid : Nat) (reqs : List Nat) (cmds : List (BitVec 32)) : Bool :=
  reqs.all (fun q => !(s.requests.any fun r => r.id == q)) &&
    cmds.all fun q => !((coreAt s (coreOf sid)).cmds.any fun k => k.seq == q)
/-- The vault of a sector lies in a slice set. -/
def sectorIn (slices : BitVec 512) (sec : Nat) : Bool :=
  bitAt slices (64 * (sec * 32 / 2 ^ 36) + vaultOf (sec * 32 % 2 ^ 36))
/-- The end of a fence (R280, R299, R317, R318). FENCE.br has the effects of an acquire of R280 and is no synchronising
operation (R279): no region ends at it (log entry 78). -/
def fenceEffect (s : State) (sid kind : Nat) (cores slices : BitVec 512) : State :=
  match kind with
  | 1 => endRegion s sid
  | 5 => if isSW sid || !bitAt cores (coreOf sid) then s else modCore s (coreOf sid) fun c => { c with l1 := [] }
  | 4 => { s with dram := s.dram.filter fun e => !(sectorIn slices e.1 && regionB (e.1 * 32)) }
  | _ => if isSW sid || bitAt cores (coreOf sid) then acquire s sid else endRegion s sid
def fenceForm (kind : Nat) (tk : Tok) (scope : BitVec 6) (s : State) : Out :=
  issue { legal := memStreams } tk
    (fun s =>
      let sid := s.cur
      match captureScope s sid scope.toNat with
      | (.error c, s) => .fault s c 0
      | (.ok sc, s) =>
        let reqs := fenceReqs s sid kind sc
        let cmds := fenceCmds s sid kind
        if fenceDone s sid reqs cmds then .done (fenceEffect s sid kind sc.cores sc.slices) {}
        else .done (modStream s sid fun st => { st with phase := .holding (.fence kind reqs cmds sc.cores sc.slices) })
          { push := .holdEnds }) s
def execFenceAcq (tk : Tok) (scope : BitVec 6) (s : State) : Out := fenceForm 0 tk scope s
def execFenceRel (tk : Tok) (scope : BitVec 6) (s : State) : Out := fenceForm 1 tk scope s
def execFenceAr (tk : Tok) (scope : BitVec 6) (s : State) : Out := fenceForm 2 tk scope s
def execFenceSc (tk : Tok) (scope : BitVec 6) (s : State) : Out := fenceForm 3 tk scope s
def execFenceBw (tk : Tok) (scope : BitVec 6) (s : State) : Out := fenceForm 4 tk scope s
def execFenceBr (tk : Tok) (scope : BitVec 6) (s : State) : Out := fenceForm 5 tk scope s

/-! ### The scope table -/

/-- The 160 bytes of an entry (R289). -/
def scopeBytes (sc : Scope) : List Byte :=
  leBytes 8 sc.hdr.toNat ++ leBytes 8 sc.pkgs.toNat ++ leBytes 64 sc.cores.toNat ++ leBytes 64 sc.slices.toNat ++
    List.replicate 16 0
/-- An image's reserved bits are 0 (R320). -/
def scopeImageOk (bs : List Byte) : Bool :=
  let h := dword bs 0
  fld h 63 17 == 0 && fld h 7 1 == 0 && bfld bs 144 16 == 0
/-- The entry an image makes, with the generation after the old one. -/
def scopeOfImage (bs : List Byte) (old : Scope) : Scope :=
  { hdr := setFld (dword bs 0) 15 8 (fld old.hdr 15 8 + 1), pkgs := dword bs 1,
    cores := BitVec.ofNat 512 (bfld bs 16 64), slices := BitVec.ofNat 512 (bfld bs 80 64) }
/-- Write a new version (R295) and hold the stream until it has retired (R323). -/
def scopeUpdate (s : State) (sid key : Nat) (d : Reg) (sc : Scope) : Res :=
  let (id, s) := fresh s
  let s := { s with scopes := aput s.scopes key sc, scopeUpds := s.scopeUpds ++ [⟨id, key⟩] }
  .done (modStream s sid fun st => { st with phase := .holding (.scope id d sc.hdr) }) { push := .holdEnds }
def own160 (sid : Nat) (a : Word) : List Range := [⟨coreOf sid, spOff a, 160⟩]
def execScpw (tk : Tok) (d a b : Reg) (s : State) : Out :=
  issue { legal := memStreams, srcs := [.x a.toNat, .x b.toNat], dsts := locX d } tk
    (fun s =>
      let sid := s.cur
      let i := readX (streamAt s sid) a.toNat
      let p := readX (streamAt s sid) b.toNat
      if i.toNat < 8 ∨ 64 ≤ i.toNat then .fault s 0x01 0
      else withCheck s (ownCheck s sid p 160 32 false) p fun s => withSync s sid (own160 sid p) [] fun s =>
        let bs := ownRead s sid (spOff p) 160
        if !scopeImageOk bs then .fault s 0x01 0
        else
          let ctx := scopeCtx s sid
          scopeUpdate s sid (scopeKey ctx i.toNat) d (scopeOfImage bs (scopeMem s ctx i.toNat))) s
def execScpr (tk : Tok) (d a b : Reg) (s : State) : Out :=
  issue { legal := memStreams, srcs := [.x a.toNat, .x b.toNat], dsts := locX d } tk
    (fun s =>
      let sid := s.cur
      let i := readX (streamAt s sid) a.toNat
      let p := readX (streamAt s sid) b.toNat
      if 64 ≤ i.toNat then .fault s 0x01 0
      else withCheck s (ownCheck s sid p 160 32 true) p fun s => withSync s sid [] (own160 sid p) fun s =>
        let (sc, s) :=
          if isSW sid then
            if i.toNat < 5 then
              let (c, s) := freeVal s 512
              let (v, s) := freeVal s 512
              ({ hdr := 1, pkgs := 0, cores := c, slices := if i = 0 then 0 else v }, s)
            else (if i.toNat < 8 then fixedScope s 0 i.toNat else scopeMem s (scopeCtx s sid) i.toNat, s)
          else if i.toNat < 8 then (fixedScope s (coreOf sid) i.toNat, s) else scopeEntry s (coreOf sid) i.toNat
        landX (ownWrite s sid (spOff p) (scopeBytes sc)) sid false d.toNat sc.hdr 1) s
def execScpinv (tk : Tok) (d a : Reg) (s : State) : Out :=
  issue { legal := memStreams, srcs := [.x a.toNat], dsts := locX d } tk
    (fun s =>
      let sid := s.cur
      let i := readX (streamAt s sid) a.toNat
      if i.toNat < 8 ∨ 64 ≤ i.toNat then .fault s 0x01 0
      else
        let key := scopeKey (scopeCtx s sid) i.toNat
        let old := scopeMem s (scopeCtx s sid) i.toNat
        scopeUpdate s sid key d { old with hdr := setFld (setFld old.hdr 0 0 0) 15 8 (fld old.hdr 15 8 + 1) }) s

end Sys2Proof.Machine
end

