-- ==== Sys2Proof/Machine/Sync.lean ====
section
/-! DEFINITION. Scratchpad loads and stores (R201 to R204, R400), semaphores (R209 to R214), rings (R215 to
R217) and waymarks (R218, R219) at issue. -/
namespace Sys2Proof.Machine

/-- A form that adds an outstanding write waits while 32 are outstanding (R52). -/
def withRoom (s : State) (k : State → Res) : Res :=
  if 32 ≤ (streamAt s s.cur).outst.length then .stall (waitFor s s.cur .room) else k s

/-! ### SPLD, SPLDU, SPST -/

/-- The address of an M-format scratchpad access (R201). -/
def spAddr (st : Stream) (a : Reg) (off : BitVec 10) (sz : BitVec 2) : Word :=
  readX st a.toNat + sx64 off * BitVec.ofNat 64 (2 ^ sz.toNat)
/-- The checks of R90, or of R400 on a Steward. -/
def spCheckFor (s : State) (a : Word) (n : Nat) (wr : Bool) : Option (BitVec 8) :=
  if isSW s.cur then swSpCheck a n wr else spCheck s (coreOf s.cur) a n n wr
/-- Bytes as a register value. -/
def extend (signed : Bool) (bs : List Byte) : Word :=
  let n := 8 * bs.length
  if signed then BitVec.ofInt 64 (signedOf n (leNat bs)) else BitVec.ofNat 64 (leNat bs)
def scratchLoad (signed : Bool) (tk : Tok) (d a : Reg) (off : BitVec 10) (sz : BitVec 2) (s : State) : Out :=
  issue { legal := [0, 2, 3, 4], srcs := [.x a.toNat], dsts := locX d } tk
    (fun s =>
      let sid := s.cur
      let n := 2 ^ sz.toNat
      let p := spAddr (streamAt s sid) a off sz
      withCheck s (spCheckFor s p n false) p fun s =>
        let (t, peer) := if isSW sid then (0, false) else spTarget (coreOf sid) p
        withSync s sid [⟨t, spOff p, n⟩] [] fun s =>
          if peer then withRoom s fun s =>
            sendLoad s sid (locX d) { mkReq s sid (.peer t (.load signed n (spOff p))) with va := p }
          else landX s sid false d.toNat (extend signed (ownRead s sid (spOff p) n)) 3) s
def execSpld (tk : Tok) (d a : Reg) (off : BitVec 10) (sz : BitVec 2) (s : State) : Out := scratchLoad true tk d a off sz s
def execSpldu (tk : Tok) (d a : Reg) (off : BitVec 10) (sz : BitVec 2) (s : State) : Out := scratchLoad false tk d a off sz s
/-- Offset and byte pairs of a run of bytes. -/
def offBytes (off : Nat) (bs : List Byte) : List (Nat × Byte) := (List.range bs.length).map fun i => (off + i, bs.getD i 0)
def execSpst (tk : Tok) (d a : Reg) (off : BitVec 10) (sz : BitVec 2) (s : State) : Out :=
  issue { legal := [2, 3, 4], srcs := [.x d.toNat, .x a.toNat] } tk
    (fun s =>
      let sid := s.cur
      let n := 2 ^ sz.toNat
      let p := spAddr (streamAt s sid) a off sz
      let bs := leBytes n (readX (streamAt s sid) d.toNat).toNat
      withCheck s (spCheckFor s p n true) p fun s =>
        let (t, peer) := if isSW sid then (0, false) else spTarget (coreOf sid) p
        withSync s sid [] [⟨t, spOff p, n⟩] fun s =>
          if peer then sendStore s { mkReq s sid (.peer t (.store (offBytes (spOff p) bs))) with va := p }
          else .done (ownWrite s sid (spOff p) bs) {}) s

/-! ### Semaphores -/

/-- Resolve the target of a t field, then carry on. -/
def withTarget (s : State) (t : Reg) (k : State → Nat → Bool → Res) : Res :=
  match targetOf s s.cur t.toNat with
  | .ok (c, peer) => k s c peer
  | .error code => .fault s code (readX (streamAt s s.cur) t.toNat)
/-- CORE for an own operation, CLUSTER for a peer operation (R213). -/
def relScope (s : State) (peer : Bool) : Scope := fixedScope s (coreOf s.cur) (if peer then 2 else 1)
/-- A peer operation on a semaphore or a ring has no scratchpad address for the VA field of its Peer Gone entry (R248). DESIGN CHOICE
(log entry 83): the field is the peer address of OFFSET 0 of the rank it names, as R88 lays one out. -/
def rankVa (t : Nat) : Word := BitVec.ofNat 64 (t % 4 * 2 ^ 21)
def peerReq (s : State) (t : Nat) (op : PeerOp) : Req := { mkReq s s.cur (.peer t op) with va := rankVa t }

def execSinc (tk : Tok) (sem : BitVec 5) (a t : Reg) (s : State) : Out :=
  issue { legal := computeStreams, srcs := [.x a.toNat, .x t.toNat] } tk
    (fun s => withTarget s t fun s0 c peer => withQuiet s0 s0.cur (relScope s0 peer) fun s =>
      let inc := readX (streamAt s s.cur) a.toNat
      if peer then sendStore s (peerReq s c (.sinc sem.toNat inc))
      else match semAdd s c sem.toNat inc.toNat .core [] with
        | some s => .done s {}
        | none => .fault s0 0x12 0) s
def execSacq (tk : Tok) (sem : BitVec 5) (n : BitVec 13) (s : State) : Out :=
  issue { legal := computeStreams, waits := true } tk
    (fun s =>
      if n.toNat ≤ (semAt s (coreOf s.cur) sem.toNat).count.toNat then .done (semTake s s.cur sem.toNat n.toNat true) {}
      else .stall s) s
def execSwait (tk : Tok) (sem : BitVec 5) (n : BitVec 13) (s : State) : Out :=
  issue { legal := computeStreams, waits := true } tk
    (fun s =>
      if n.toNat ≤ (semAt s (coreOf s.cur) sem.toNat).count.toNat then .done (semTake s s.cur sem.toNat n.toNat false) {}
      else .stall s) s
/-- SSET (R210, R214): the tag becomes CORE and the settle set is cleared. -/
def execSset (tk : Tok) (sem : BitVec 5) (a : Reg) (s : State) : Out :=
  issue { legal := computeStreams, srcs := [.x a.toNat] } tk
    (fun s => withQuiet s s.cur (relScope s false) fun s =>
      let v := (readX (streamAt s s.cur) a.toNat).setWidth 32
      .done (testWaiters (putSem s (coreOf s.cur) sem.toNat { Sem.zero with count := v }) (coreOf s.cur) sem.toNat) {}) s
def execSrd (tk : Tok) (sem : BitVec 5) (a t : Reg) (s : State) : Out :=
  issue { legal := computeStreams, srcs := [.x t.toNat], dsts := locX a } tk
    (fun s => withTarget s t fun s c peer =>
      if peer then withRoom s fun s => sendLoad s s.cur (locX a) (peerReq s c (.srd sem.toNat))
      else landX s s.cur false a.toNat (zx64 (semAt s c sem.toNat).count) 1) s
def execSincw (tk : Tok) (sem : BitVec 5) (a t : Reg) (s : State) : Out :=
  issue { legal := computeStreams, srcs := [.x a.toNat, .x t.toNat], dsts := locX a } tk
    (fun s => withTarget s t fun s c peer => withQuiet s s.cur (relScope s peer) fun s =>
      let bound : BitVec 32 := (readX (streamAt s s.cur) a.toNat).setWidth 32
      if peer then withRoom s fun s => sendLoad s s.cur (locX a) (peerReq s c (.sincw sem.toNat bound))
      else
        let old := (semAt s c sem.toNat).count
        landX (acquire (semSet s c sem.toNat (incwNew old bound) (old < bound) false) s.cur) s.cur false a.toNat (zx64 old) 1) s
/-- Land a pair once; b0 takes the lower register (R29, R206). -/
def landPair (s : State) (sid d : Nat) (v w : Word) : Res :=
  let (id, s) := landIn s sid [wX d v, wX (d + 1) w] (v.setWidth 2048) 1
  .done s { push := .landed id }
def execSfab (tk : Tok) (sem : BitVec 5) (a t : Reg) (s : State) : Out :=
  issue { legal := computeStreams, srcs := [.xs a.toNat 2, .x t.toNat], dsts := groupLocs a.toNat 2 } tk
    (fun s => withTarget s t fun s c peer => withQuiet s s.cur (relScope s peer) fun s =>
      let st := streamAt s s.cur
      let add : BitVec 32 := (readX st a.toNat).setWidth 32
      let bound : BitVec 32 := (readX st (a.toNat + 1)).setWidth 32
      if peer then withRoom s fun s => sendLoad s s.cur (pairLocs a.toNat) (peerReq s c (.sfab sem.toNat add bound))
      else
        let old := (semAt s c sem.toNat).count
        let (new, ok) := fabNew old add bound
        landPair (acquire (semSet s c sem.toNat new ok false) s.cur) s.cur a.toNat (zx64 old) (boolWord ok)) s

/-! ### Rings -/

def execRcfg (tk : Tok) (ring : BitVec 3) (a : Reg) (s : State) : Out :=
  issue { legal := computeStreams, srcs := [.x a.toNat] } tk
    (fun s =>
      let v := readX (streamAt s s.cur) a.toNat
      if ringCfgOk v then .done (putRing s (coreOf s.cur) ring.toNat { RingState.zero with cfg := v &&& 0x7FFFFFFF }) {}
      else .fault s 0x05 0) s
def execRclaim (tk : Tok) (ring : BitVec 3) (d : Reg) (s : State) : Out :=
  issue { legal := computeStreams, dsts := locX d, waits := true } tk
    (fun s =>
      let x := ringAt s (coreOf s.cur) ring.toNat
      let mode := ringMode x
      if mode = 0 ∨ (mode = 2 ∧ x.claimed ≠ 0) then .fault s 0x05 0
      else if ringN x ≤ x.claimed + x.filled then .stall s
      else
        let s := putRing s (coreOf s.cur) ring.toNat { x with tail := (x.tail + 1) % ringN x, claimed := x.claimed + 1 }
        landX (acquire s s.cur) s.cur false d.toNat (BitVec.ofNat 64 x.tail) 1) s
def execRpub (tk : Tok) (ring : BitVec 3) (a : Reg) (s : State) : Out :=
  issue { legal := computeStreams, srcs := [.x a.toNat] } tk
    (fun s =>
      let x := ringAt s (coreOf s.cur) ring.toNat
      let v := readX (streamAt s s.cur) a.toNat
      if ringMode x = 0 ∨ fld v 63 14 ≠ 0 ∨ !ringClaimed x v.toNat then .fault s 0x05 0
      else withQuiet s s.cur (relScope s (ringMode x == 2)) fun s =>
        .done (putRing s (coreOf s.cur) ring.toNat (ringPublish x v.toNat)) {}) s
def execRwaitf (tk : Tok) (ring : BitVec 3) (d : Reg) (s : State) : Out :=
  issue { legal := computeStreams, dsts := locX d, waits := true } tk
    (fun s =>
      let x := ringAt s (coreOf s.cur) ring.toNat
      if ringMode x ≠ 1 then .fault s 0x05 0
      else if x.filled = 0 then .stall s
      else landX (acquire s s.cur) s.cur false d.toNat (BitVec.ofNat 64 x.head) 1) s
def execRfree (tk : Tok) (ring : BitVec 3) (s : State) : Out :=
  issue { legal := computeStreams } tk
    (fun s =>
      let x := ringAt s (coreOf s.cur) ring.toNat
      if ringMode x ≠ 1 ∨ x.filled = 0 then .fault s 0x05 0
      else withQuiet s s.cur (relScope s false) fun s =>
        .done (putRing s (coreOf s.cur) ring.toNat { x with head := (x.head + 1) % ringN x, filled := x.filled - 1 }) {}) s
def execRwaite (tk : Tok) (ring : BitVec 3) (s : State) : Out :=
  issue { legal := computeStreams, waits := true } tk
    (fun s =>
      let x := ringAt s (coreOf s.cur) ring.toNat
      if ringMode x ≠ 1 then .fault s 0x05 0
      else if ringN x ≤ x.claimed + x.filled then .stall s
      else .done s {}) s
/-- What a removal returns in d and d+1 (R101): −1 leaves d+1 unchanged. -/
def landRemoval (s : State) (sid d : Nat) (r : Word) (v : Option Word) : Res :=
  match v with
  | some w => landPair s sid d r w
  | none => landX s sid false d r 1
def execRpopo (tk : Tok) (ring : BitVec 3) (d : Reg) (s : State) : Out :=
  issue { legal := computeStreams, dsts := groupLocs d.toNat 2 } tk
    (fun s =>
      let cid := coreOf s.cur
      let x := ringAt s cid ring.toNat
      if ringMode x ≠ 2 ∨ x.claimed ≠ 0 then .fault s 0x05 0
      else if x.filled = 0 then landRemoval (acquire s s.cur) s.cur d.toNat (BitVec.allOnes 64) none
      else
        let i := (x.tail + ringN x - 1) % ringN x
        withSync s s.cur [⟨cid, slotOff x i, 8⟩] [] fun s =>
          let v : Word := BitVec.ofNat 64 (mnat (coreAt s cid).scratch (slotOff x i) 8)
          let s := putRing s cid ring.toNat { x with tail := i, filled := x.filled - 1 }
          landRemoval (acquire s s.cur) s.cur d.toNat (BitVec.ofNat 64 i) (some v)) s
def execRsteal (tk : Tok) (ring : BitVec 3) (d t : Reg) (s : State) : Out :=
  issue { legal := computeStreams, srcs := [.x t.toNat], dsts := groupLocs d.toNat 2 } tk
    (fun s => withTarget s t fun s c peer =>
      if peer then withSync s s.cur (stealRange s c ring.toNat) [] fun s =>
        withRoom s fun s => sendLoad s s.cur (pairLocs d.toNat) (peerReq s c (.rsteal ring.toNat))
      else
        let x := ringAt s c ring.toNat
        if ringMode x ≠ 2 then .fault s 0x05 0
        else
          withSync s s.cur (stealRange s c ring.toNat) [] fun s =>
            let (r, v, s) := ringSteal s c ring.toNat
            landRemoval (acquire s s.cur) s.cur d.toNat r v) s
def execRstat (tk : Tok) (ring : BitVec 3) (d t : Reg) (s : State) : Out :=
  issue { legal := computeStreams, srcs := [.x t.toNat], dsts := locX d } tk
    (fun s => withTarget s t fun s c peer =>
      if peer then withRoom s fun s => sendLoad s s.cur (locX d) (peerReq s c (.rstat ring.toNat))
      else landX s s.cur false d.toNat (ringStatus (ringAt s c ring.toNat)) 1) s

/-! ### Waymarks -/

/-- The check of R111 or R114 for a WMK form, which does not conflict with any command's waymark (R204). -/
def waySync (s : State) (rd wr : List Range) : Sync :=
  let cid := coreOf s.cur
  let c := coreAt s cid
  let hit (r : Rec) : Bool := conflicts rd wr r.rd (withoutWay r.wr r.wm)
  if acqWaits s s.cur then .stall
  else if detOf s cid then
    if c.recs.any fun r => !r.settled.contains (kindOf s.cur) && hit r then .conflict else .ok
  else if c.recs.any fun r => c.cmds.any (fun q => q.seq == r.seq) && hit r then .stall
  else .ok
/-- Carry on when it allows the access. -/
def withWaySync (s : State) (rd wr : List Range) (k : State → Res) : Res :=
  match waySync s rd wr with
  | .ok => k s
  | .stall => .stall s
  | .conflict => .fault s 0x11 0
def execWminit (tk : Tok) (d a b : Reg) (s : State) : Out :=
  issue { legal := computeStreams, srcs := [.x d.toNat, .x a.toNat, .x b.toNat] } tk
    (fun s =>
      let st := streamAt s s.cur
      let arr := (readX st d.toNat).toNat
      let sec := (readX st b.toNat).toNat
      let p := readX st a.toNat
      if 2 ^ 20 ≤ arr ∨ 2 ^ 32 ≤ sec then .fault s 0x01 0
      else withCheck s (ownCheck s s.cur p 16 16 true) p fun s =>
        withSync s s.cur [] [⟨coreOf s.cur, spOff p, 16⟩] fun s =>
          .done (putWay s (coreOf s.cur) (spOff p)
            { sexp := sec, aexp := arr, spend := sec, apend := arr, ovr := false, err := false, phase := 0 }) {}) s
def execWmarrive (tk : Tok) (a : Reg) (s : State) : Out :=
  issue { legal := computeStreams, srcs := [.x a.toNat] } tk
    (fun s =>
      let p := readX (streamAt s s.cur) a.toNat
      withCheck s (spCheck s (coreOf s.cur) p 16 16 true) p fun s =>
        let (t, peer) := spTarget (coreOf s.cur) p
        withWaySync s [] [⟨t, spOff p, 16⟩] fun s => withQuiet s s.cur (relScope s peer) fun s =>
          if peer then sendStore s { mkReq s s.cur (.peer t (.wmArrive (spOff p))) with va := p }
          else .done (wayApply s t (spOff p) false) {}) s
/-- Add to SPEND of the phase (R219), unless it would pass 2^32 − 1. -/
def wayExpect (s : State) (cid off n : Nat) : Option State :=
  let w := wayAt s cid off
  if 2 ^ 32 ≤ w.spend + n then none else some (putWay s cid off { w with spend := w.spend + n })
def execWmexpect (tk : Tok) (a b : Reg) (s : State) : Out :=
  issue { legal := computeStreams, srcs := [.x a.toNat, .x b.toNat] } tk
    (fun s =>
      let p := readX (streamAt s s.cur) a.toNat
      let n := readX (streamAt s s.cur) b.toNat
      withCheck s (spCheck s (coreOf s.cur) p 16 16 true) p fun s =>
        let (t, peer) := spTarget (coreOf s.cur) p
        withWaySync s [] [⟨t, spOff p, 16⟩] fun s =>
          if peer then sendStore s { mkReq s s.cur (.peer t (.wmExpect (spOff p) n)) with va := p }
          else match wayExpect s t (spOff p) n.toNat with
            | some s => .done s {}
            | none => .fault s 0x12 0) s
/-- The commands that a WMWAIT on a waymark settles: those that had drained at its last phase change (R113). -/
def drainedBy (c : Core) (off : Nat) : List (BitVec 32) :=
  (c.recs.filter fun r => r.wm == some off && r.drained).map fun r => r.seq
def execWmwait (tk : Tok) (a b : Reg) (s : State) : Out :=
  issue { legal := computeStreams, srcs := [.x a.toNat, .x b.toNat], waits := true } tk
    (fun s =>
      let st := streamAt s s.cur
      let cid := coreOf s.cur
      let p := readX st a.toNat
      withCheck s (ownCheck s s.cur p 16 16 false) p fun s =>
        withWaySync s [⟨cid, spOff p, 16⟩] [] fun s =>
          if (wayAt s cid (spOff p)).phase = (readX st b.toNat).toNat % 16 then .stall s
          else .done (acquire (modCore s cid fun c => settle c (kindOf s.cur) (drainedBy c (spOff p))) s.cur) {}) s
def execWmtest (tk : Tok) (d a : Reg) (s : State) : Out :=
  issue { legal := computeStreams, srcs := [.x a.toNat], dsts := locX d } tk
    (fun s =>
      let cid := coreOf s.cur
      let p := readX (streamAt s s.cur) a.toNat
      withCheck s (ownCheck s s.cur p 16 16 false) p fun s =>
        withWaySync s [⟨cid, spOff p, 16⟩] [] fun s =>
          landX s s.cur false d.toNat (dword (wayBytes (wayAt s cid (spOff p))) 0) 3) s

end Sys2Proof.Machine
end

