-- ==== Sys2Proof/Machine/VecMath.lean ====
section
/-! DEFINITION. The values of the vector unit: element types (R147), lane operations (R155 to R158), the math
functions correctly rounded (R162), conversions (R146, R163), block packing (R164, R165), plane conversion
(R166), tree sums and binned sums (R140 to R143). -/
namespace Sys2Proof.Machine

/-! ### Element types and lanes -/

/-- An element type of VTYPE (R147). -/
inductive VTy where
  | int (signed : Bool) (n : Nat)
  | flt (f : Fmt)
  deriving DecidableEq, Repr
def vtyOf (c : Nat) : VTy :=
  match c with
  | 0 => .int true 8
  | 1 => .int true 16
  | 2 => .int true 32
  | 3 => .int false 8
  | 4 => .flt fBF16
  | 5 => .flt fFP16
  | _ => .flt fFP32
def tyBits (t : VTy) : Nat :=
  match t with
  | .int _ n => n
  | .flt f => fmtBits f
def tyLanes (t : VTy) : Nat := 2048 / tyBits t
def isFlt (t : VTy) : Bool :=
  match t with
  | .flt _ => true
  | _ => false
/-- VTYPE taken apart: type, rounding, saturation (R154). -/
structure VCtl where
  ty : VTy
  rnd : Nat
  sat : Bool
  deriving DecidableEq, Repr
def vctl (v : BitVec 64) : VCtl := { ty := vtyOf (fld v 3 0), rnd := fld v 5 4, sat := bitAt v 6 }
/-- Lane `i` of width `n` (R147). -/
def lane (n : Nat) (v : BitVec 2048) (i : Nat) : Nat := v.toNat / 2 ^ (n * i) % 2 ^ n
/-- A vector from its lanes, lane 0 first; lanes not given are 0. -/
def ofLanes (n : Nat) (ls : List Nat) : BitVec 2048 := BitVec.ofNat 2048 (packFields (ls.map fun x => (n, x)))
def lanesOf (n : Nat) (v : BitVec 2048) : List Nat := (List.range (2048 / n)).map (lane n v)
/-- The bits of the lanes that satisfy `p`. -/
def laneMask (n : Nat) (p : Nat → Bool) : BitVec 2048 :=
  ofLanes n ((List.range (2048 / n)).map fun i => if p i then 2 ^ n - 1 else 0)

/-! ### Lane operations -/

/-- An integer result: wrapped, or clamped when the saturation bit is set (R145, R157). -/
def intOut (c : VCtl) (signed : Bool) (n : Nat) (v : Int) : Nat :=
  (BitVec.ofInt n (if c.sat then clampInt signed n v else v)).toNat
def laneInt (signed : Bool) (n b : Nat) : Int := if signed then signedOf n b else (b : Int)
/-- A float result, rounded once (R144). -/
def fltOut (c : VCtl) (f : Fmt) (x : XNum) : Nat := (convertF f c.rnd x).1
/-- An exact sum under the rounding mode, which sets the sign of an exact zero. -/
def sumX (c : VCtl) (x y : XNum) : XNum := xadd (c.rnd == 2) x y
inductive VOp where
  | add | sub | mul | mac | min | max | abs | neg
  deriving DecidableEq, Repr
/-- The lesser (or greater) of two float patterns (R156): NaN is canonical, −0 lies below +0. -/
def pickF (f : Fmt) (less : Bool) (a b : Nat) : Nat :=
  let x := fltVal f a
  let y := fltVal f b
  if isNaN x || isNaN y then nanPat f
  else
    let aLess := match xcmp x y with
      | .lt => true
      | .gt => false
      | .eq => isNegX x
    if aLess == less then a else b
/-- A lane of VARITH or of VNEG: d, a and b are the lanes' bits (R155 to R158). -/
def laneOp (c : VCtl) (op : VOp) (d a b : Nat) : Nat :=
  match c.ty with
  | .flt f =>
    let x := fltVal f a
    let y := fltVal f b
    match op with
    | .add => fltOut c f (sumX c x y)
    | .sub => fltOut c f (sumX c x (xneg y))
    | .mul => fltOut c f (xmul x y)
    | .mac => fltOut c f (sumX c (fltVal f d) (xmul x y))
    | .min => pickF f true a b
    | .max => pickF f false a b
    | .abs => if isNaN x then nanPat f else a % 2 ^ (fmtBits f - 1)
    | .neg => if isNaN x then nanPat f else (a + 2 ^ (fmtBits f - 1)) % 2 ^ fmtBits f
  | .int g n =>
    let x := laneInt g n a
    let y := laneInt g n b
    intOut c g n (match op with
      | .add => x + y
      | .sub => x - y
      | .mul => x * y
      | .mac => laneInt g n d + x * y
      | .min => Min.min x y
      | .max => Max.max x y
      | .abs => x.natAbs
      | .neg => -x)
/-- The logic and shift lanes of R158 at width n. -/
inductive VLog where
  | and | or | xor | shl | shr | sra
  deriving DecidableEq, Repr
def laneLog (n : Nat) (op : VLog) (a k : Nat) : Nat :=
  match op with
  | .and => a &&& k
  | .or => a ||| k
  | .xor => a ^^^ k
  | .shl => if n ≤ k then 0 else a * 2 ^ k % 2 ^ n
  | .shr => if n ≤ k then 0 else a / 2 ^ k
  | .sra => (BitVec.ofInt n (signedOf n a / (2 ^ Nat.min k (n - 1) : Nat))).toNat
/-- A compare (R160): 0 EQ, 1 NE, 2 LT, 3 LE. -/
def laneCmp (t : VTy) (k a b : Nat) : Bool :=
  let pick (o : Ordering) : Bool :=
    match k with
    | 0 => o == .eq
    | 1 => o != .eq
    | 2 => o == .lt
    | _ => o != .gt
  match t with
  | .flt f =>
    let x := fltVal f a
    let y := fltVal f b
    if isNaN x || isNaN y then k == 1 else pick (xcmp x y)
  | .int g n => pick (compare (laneInt g n a) (laneInt g n b))

/-! ### Quotients, roots, powers and logarithms -/

/-- num / den · 2^e with a sticky bit below at least 64 significant bits: a rounding of it is a rounding of the
exact quotient. -/
def quot (neg : Bool) (num den : Nat) (e : Int) : XNum :=
  let k := Nat.log2 den + 66
  let q := num * 2 ^ k / den
  if num * 2 ^ k % den = 0 then .fin neg q (e - k) else .fin neg (2 * q + 1) (e - k - 1)
/-- ⌊√n⌋, bit by bit. -/
def isqrt (n : Nat) : Nat :=
  (List.range (Nat.log2 n / 2 + 1)).reverse.foldl (fun r b => if (r + 2 ^ b) * (r + 2 ^ b) ≤ n then r + 2 ^ b else r) 0
def sqrtX (m : Nat) (e : Int) : XNum :=
  let odd := e % 2 = 1
  let n := (if odd then 2 * m else m) * 2 ^ 128
  let h := (if odd then e - 1 else e) / 2 - 64
  let q := isqrt n
  if q * q = n then .fin false q h else .fin false (2 * q + 1) (h - 1)
def rsqX (m : Nat) (e : Int) : XNum :=
  let odd := e % 2 = 1
  let d := if odd then 2 * m else m
  let h := (if odd then e - 1 else e) / 2
  let k := 66 + Nat.log2 d
  let q := isqrt (2 ^ (2 * k) / d)
  if q * q * d = 2 ^ (2 * k) then .fin false q (-h - k) else .fin false (2 * q + 1) (-h - k - 1)
/-- ln 2 in units of 2^−192, rounded down. -/
def ln2 : Nat := 0xb17217f7d1cf79abc9e3b39803f2f6af40f343267298b62d
/-- 2^(t · 2^−192) for 0 ≤ t < 2^192, in units of 2^−192, by the series of e^x; the error is far below the
distance of any value of R162's formats from a rounding boundary. -/
def exp2Series (t : Nat) : Nat :=
  let x := t * ln2 / 2 ^ 192
  ((List.range 60).foldl (fun (p : Nat × Nat) i => (p.1 + p.2, p.2 * x / 2 ^ 192 / (i + 1))) (0, 2 ^ 192)).1
def exp2X (neg : Bool) (m : Nat) (e : Int) : XNum :=
  if (e + (Nat.log2 m : Int)) < -40 then
    .fin false (if neg then 2 ^ 100 - 1 else 2 ^ 100 + 1) (-100)
  else
    let v := inUnits neg m (Max.max e (-192)) (-192)
    let i := v / (2 ^ 192 : Nat)
    let t := (v % (2 ^ 192 : Nat)).toNat
    let j := Max.max (-2000) (Min.min 2000 i)
    if t = 0 then .fin false 1 j else .fin false (2 * exp2Series t + 1) (j - 193)
/-- log₂ of m · 2^e, which is no power of 2 or is taken exactly. -/
def log2X (m : Nat) (e : Int) : XNum :=
  let l := Nat.log2 m
  let p := 2 ^ l
  let i : Int := e + l
  if m = p then .fin (decide (i < 0)) i.natAbs 0
  else
    let z := (m - p) * 2 ^ 192 / (m + p)
    let z2 := z * z / 2 ^ 192
    let s := ((List.range 64).foldl (fun (a : Nat × Nat) k => (a.1 + a.2 / (2 * k + 1), a.2 * z2 / 2 ^ 192)) (0, z)).1
    let v : Int := i * (2 ^ 192 : Nat) + (2 * s * 2 ^ 192 / ln2 : Nat)
    .fin (decide (v < 0)) (2 * v.natAbs + 1) (-193)
/-- The math functions of R162: 0 EXP2, 1 LOG2, 2 RCP, 3 RSQ, 4 SQRT, before the one rounding. -/
def mathX (k : Nat) (x : XNum) : XNum :=
  match k, x with
  | _, .nan => .nan
  | 0, .inf n => if n then .fin false 0 0 else .inf false
  | 0, .fin n m e => if m = 0 then .fin false 1 0 else exp2X n m e
  | 1, .inf n => if n then .nan else .inf false
  | 1, .fin n m e => if m = 0 then .inf true else if n then .nan else log2X m e
  | 2, .inf n => .fin n 0 0
  | 2, .fin n m e => if m = 0 then .inf n else quot n 1 m (-e)
  | 3, .inf n => if n then .nan else .fin false 0 0
  | 3, .fin n m e => if m = 0 then .inf n else if n then .nan else rsqX m e
  | _, .inf n => if n then .nan else .inf false
  | _, .fin n m e => if m = 0 then .fin n 0 0 else if n then .nan else sqrtX m e

/-! ### Conversions -/

/-- One element of VCVT (R146, R163): the bits, and whether a NaN became an integer 0. -/
def convElem (c : VCtl) (src : VTy) (b : Nat) : Nat × Bool :=
  if src = c.ty then (b, false)
  else match src, c.ty with
    | .flt f, .flt g => (fltOut c g (fltVal f b), false)
    | .flt f, .int s n =>
      let x := fltVal f b
      ((BitVec.ofInt n (convertI s n c.rnd x).1).toNat, isNaN x)
    | .int s n, .flt g => (fltOut c g (intVal (laneInt s n b)), false)
    | .int s n, .int s' n' => (intOut c s' n' (laneInt s n b), false)
/-- The lanes that VCVT reads and writes: pairs (source lane, destination lane) (R163). -/
def cvtLanes (src dst : VTy) (part : Nat) : List (Nat × Nat) :=
  let k := Nat.min (tyLanes src) (tyLanes dst)
  (List.range k).map fun i => if tyBits dst < tyBits src then (i, part * k + i) else (part * k + i, i)
/-- A part at or above the ratio of the widths is illegal. -/
def cvtOk (src dst : VTy) (part : Nat) : Bool :=
  decide (part < Nat.max (tyBits src) (tyBits dst) / Nat.min (tyBits src) (tyBits dst))

/-! ### Block packing (R164, R165) -/

/-- qmax of an element format, as num · 2^exp. -/
def qmaxOf (c : Nat) : Nat × Int :=
  match elemCode c with
  | 6 => (6, 0)
  | 7 => (15, -1)
  | 8 => (28, 0)
  | 9 => (448, 0)
  | 0xA => (57344, 0)
  | 2 => (127, 0)
  | 1 => (7, 0)
  | _ => (1, 0)
/-- The pattern of 1.0, and of NaN, of a scale format; `none` is E8M0. -/
def scaleOne (o : Option Fmt) : Nat :=
  match o with
  | some f => (convertF f 0 (.fin false 1 0)).1
  | none => 0x7F
def scaleNaN (o : Option Fmt) : Nat :=
  match o with
  | some f => nanPat f
  | none => 0xFF
/-- The least positive scale whose product with qmax reaches amax = m·2^e, or the largest finite one. -/
def scaleFor (c m : Nat) (e : Int) : Nat :=
  let (q, qe) := qmaxOf c
  match scaleFmt c with
  | some f => Nat.min (maxPat f) (convertF f 3 (quot false m q (e - qe))).1
  | none =>
    -- the least E with m·2^e ≤ q·2^(qe + E − 127)
    ((List.range 255).find? fun (k : Nat) =>
      xcmp (.fin false m e) (.fin false q (qe + (k : Int) - 127)) != .gt).getD 254
/-- An element of a block: x / scale rounded once (R164). -/
def packElem (c rnd : Nat) (x s : XNum) : Nat :=
  let y := match x, s with
    | .fin a m e, .fin b k f => if k = 0 then XNum.fin a 0 0 else if m = 0 then .fin a 0 0 else quot (a != b) m k (e - f)
    | _, _ => .fin false 0 0
  match fclass c with
  | .flt f => (convertF f rnd y).1
  | .sint n => (BitVec.ofInt n (convertI true n rnd y).1).toNat
  | _ => 0
/-- A block of FP32 patterns: its scale and its elements. -/
def packBlock (c rnd : Nat) (xs : List Nat) : Nat × List Nat :=
  let vs := xs.map (fltVal fFP32)
  let bad := vs.any fun v => match v with
    | .fin .. => false
    | _ => true
  if bad then (scaleNaN (scaleFmt c), xs.map fun _ => 0)
  else
    let amax := vs.foldl (fun (m : XNum) v =>
      let a := if isNegX v then xneg v else v
      if xcmp m a == .lt then a else m) (.fin false 0 0)
    let s := match amax with
      | .fin _ m e => if m = 0 then scaleOne (scaleFmt c) else scaleFor c m e
      | _ => scaleOne (scaleFmt c)
    (s, vs.map fun v => packElem c rnd v (scaleVal c s))
/-- Lanes in consecutive blocks of `n`. -/
def blocks (n k : Nat) (xs : List Nat) : List (List Nat) := (List.range k).map fun i => (xs.drop (i * n)).take n
/-- VPACK: the element register and the scale register. -/
def vpackVal (c rnd : Nat) (lo hi : BitVec 2048) : BitVec 2048 × BitVec 2048 :=
  let n := blockLen c
  let bs := (blocks n (128 / n) (lanesOf 32 lo ++ lanesOf 32 hi)).map (packBlock c rnd)
  (ofLanes (elemBits c) (bs.flatMap fun b => b.2), ofLanes (8 * scaleBytes c) (bs.map fun b => b.1))
/-- VUNPK: the two registers of FP32 lanes. -/
def vunpkVal (c rnd : Nat) (el sc : BitVec 2048) : BitVec 2048 × BitVec 2048 :=
  let one (j : Nat) : Nat :=
    let e := elemVal c (lane (elemBits c) el j)
    (convertF fFP32 rnd (xmul e (scaleVal c (lane (8 * scaleBytes c) sc (j / blockLen c))))).1
  (ofLanes 32 ((List.range 64).map one), ofLanes 32 ((List.range 64).map fun j => one (64 + j)))
/-- VPLANE and VUNPL (R166). -/
def vplaneVal (toP : Bool) (c : Nat) (v : BitVec 2048) : BitVec 2048 :=
  let n := 8 * groupBytes c
  ofLanes n ((List.range (2048 / n)).map fun i => (if toP then toPlane c else fromPlane c) (lane n v i))

/-! ### Reductions -/

/-- One level of the tree of R143. -/
def treeLevel (f : Nat → Nat → Nat) (xs : List Nat) : List Nat :=
  match xs with
  | a :: b :: r => f a b :: treeLevel f r
  | r => r
def treeSum (f : Nat → Nat → Nat) (levels : Nat) (xs : List Nat) : List Nat :=
  match levels with
  | 0 => xs
  | k + 1 => treeSum f k (treeLevel f xs)
def vrsumVal (c : VCtl) (act : Nat → Bool) (v : BitVec 2048) : BitVec 2048 :=
  match c.ty with
  | .flt f =>
    let xs := (List.range (tyLanes c.ty)).map fun i => if act i then lane (tyBits c.ty) v i else 0
    ofLanes (tyBits c.ty) ((treeSum (fun a b => fltOut c f (sumX c (fltVal f a) (fltVal f b)))
      (Nat.log2 (tyLanes c.ty)) xs).take 1)
  | .int g n =>
    let s := (List.range (tyLanes c.ty)).foldl (fun (s : Int) i => if act i then s + laneInt g n (lane n v i) else s) 0
    (BitVec.ofInt 64 s).setWidth 2048
/-- VRMAX and VRMIN (R167). -/
def vrextVal (c : VCtl) (less : Bool) (act : Nat → Bool) (v : BitVec 2048) : BitVec 2048 :=
  let n := tyBits c.ty
  let xs := ((List.range (tyLanes c.ty)).filter act).map (lane n v)
  let r := match c.ty with
    | .flt f => xs.foldl (pickF f less) (signPat f (!less) (infPat f))
    | .int g n => (BitVec.ofInt n (xs.foldl (fun (m : Int) x =>
        if less then Min.min m (laneInt g n x) else Max.max m (laneInt g n x)) (if less then intHi g n else intLo g n))).toNat
  ofLanes n [r]
/-- One addend of a binned sum (R141): the bins are 64-bit lanes, lane 12 the flags. -/
def binAdd (bins : List (BitVec 64)) (x : Nat) : List (BitVec 64) :=
  match fltVal fFP32 x with
  | .nan => bins.modify 12 (· ||| 1)
  | .inf n => bins.modify 12 (· ||| (if n then 4 else 2))
  | .fin neg m e =>
    let w := m * 2 ^ (e + 150).toNat
    (List.range 12).foldl (fun bs k =>
      let part := w / 2 ^ (24 * k) % 2 ^ 24
      if part = 0 then bs
      else bs.modify k fun b => if neg then b - BitVec.ofNat 64 part else b + BitVec.ofNat 64 part) bins
def vbsumVal (act : Nat → Bool) (d a : BitVec 2048) : BitVec 2048 :=
  let bins := (List.range 13).map fun k => BitVec.ofNat 64 (lane 64 d k)
  let flags := bins.modify 12 (· &&& 7)
  ofLanes 64 (((List.range 64).foldl (fun bs i => if act i then binAdd bs (lane 32 a i) else bs) flags).map (·.toNat))
def vbfinVal (rnd : Nat) (a : BitVec 2048) : BitVec 2048 :=
  let fl := lane 64 a 12
  let x : XNum :=
    if fl % 2 = 1 ∨ fl / 2 % 4 = 3 then .nan
    else if fl / 2 % 2 = 1 then .inf false
    else if fl / 4 % 2 = 1 then .inf true
    else
      let s := (List.range 12).foldl (fun (s : Int) k => s + signedOf 64 (lane 64 a k) * (2 ^ (24 * k) : Nat)) 0
      .fin (decide (s < 0)) s.natAbs (-150)
  ofLanes 32 [(convertF fFP32 rnd x).1]

end Sys2Proof.Machine
end

