-- ==== Sys2Proof/Machine/Matrix.lean ====
section
/-! DEFINITION. The plane arrays (R175 to R200): operands, tile configuration, the MA instructions at issue, and
what each does when it retires (`maEffect`, called by COMMAND_RETIRE). -/
namespace Sys2Proof.Machine

/-! ### Tiles -/

/-- A configuration word taken apart (R181); `pa` is the significand width where PA is 0. -/
structure TCfg where
  rowBase : Nat
  k : Nat
  n : Nat
  m : Nat
  rnd : Nat
  pa : Nat
  a : Nat
  b : Nat
  deriving DecidableEq, Repr
def tcfg (w : BitVec 64) : TCfg :=
  { rowBase := fld w 63 46, k := fld w 45 34 + 1, n := fld w 33 26 + 1, m := fld w 25 18 + 1, rnd := fld w 16 15,
    pa := if fld w 14 10 = 0 then sigWidth (fld w 4 0) else fld w 14 10, a := fld w 4 0, b := fld w 9 5 }
/-- The words that MCFG takes (R187). -/
def tcfgOk (w ts : Word) : Bool :=
  !fmtReserved (fld w 4 0) && !fmtReserved (fld w 9 5) && decide (fld w 14 10 ≤ sigWidth (fld w 4 0)) &&
    !bitAt w 17 && fld ts 63 34 == 0
def tileAt (s : State) (cid t : Nat) : Tile := vget (coreAt s cid).tiles t Tile.zero
def putTile (s : State) (cid t : Nat) (x : Tile) : State :=
  modCore s cid fun c => { c with tiles := vset c.tiles t x }
def elemAt (t : Tile) (i j : Nat) : Acc := (aget t.elems (256 * i + j)).getD t.dflt
/-- The tensor scales (R182): 1.0 where not enabled. -/
def tsOf (t : Tile) (b : Bool) : XNum :=
  if bitAt t.tscale (if b then 33 else 32) then fltVal fBF16 (if b then fld t.tscale 31 16 else fld t.tscale 15 0)
  else .fin false 1 0
/-- An element's value before the scales (R137), and after them. -/
def elemX (t : Tile) (a : Acc) : XNum := accBase a.val.toInt a.n a.ip a.im a.z t.datum.toInt
def scaledX (t : Tile) (x : XNum) : XNum := xmul (xmul x (tsOf t false)) (tsOf t true)
/-- The configuration a command uses: that of the latest MCFG issued before it (R184). -/
def cfgView (s : State) (cid t : Nat) : BitVec 64 :=
  (coreAt s cid).cmds.foldl (fun v k => match k.ins with
    | .mcfg _ u _ _ => if u.toNat = t then k.ops.getD 0 0 else v
    | _ => v) (tileAt s cid t).cfg

/-! ### Operands (R178, R179, R132) -/

/-- K′ (R178). -/
def padK (c k : Nat) : Nat := if isBlock c then ceilDiv k (blockLen c) * blockLen c else k
def aLine (c k : Nat) : Nat := ceilDiv (padK c k) 16 * groupBytes c
def bLine (c k : Nat) : Nat := rowBytes c (padK c k)
def scaleLine (c k : Nat) : Nat := ceilDiv k (blockLen c) * scaleBytes c
/-- Element k of an operand line: +0 beyond K, padding elements among them (R129, R178). -/
def lineElem (c pA K : Nat) (line : List Byte) (k : Nat) : XNum :=
  if k < K then rowElem c pA line k else .fin false 0 0
/-- Scale of block b of line i, read from the scale region's bytes (R129). -/
def scaleAt (c K : Nat) (region : List Byte) (i b : Nat) : XNum :=
  if isBlock c then scaleVal c (bfld region ((i * ceilDiv K (blockLen c) + b) * scaleBytes c) (scaleBytes c))
  else .fin false 1 0
/-- The length of a term block (R132). -/
def termBlock (a b : Nat) : Nat :=
  if isBlock a then (if isBlock b then Nat.min (blockLen a) (blockLen b) else blockLen a) else blockLen b
/-- The terms of row i of A and line j of B, in ascending order (R131, R132). The planes and chunks that the cells read never
change them: each is an exact product or block sum (R175). -/
def lineTerms (g : TCfg) (aL bL aS bS : List Byte) (i j : Nat) : List XNum :=
  if isBlock g.a || isBlock g.b then
    let tb := termBlock g.a g.b
    (List.range (ceilDiv g.k tb)).map fun t =>
      let sum := blockSum ((List.range tb).map fun e =>
        xmul (lineElem g.a g.pa g.k aL (t * tb + e)) (lineElem g.b (sigWidth g.b) g.k bL (t * tb + e)))
      xmul (xmul sum (scaleAt g.a g.k aS i (t * tb / blockLen g.a))) (scaleAt g.b g.k bS j (t * tb / blockLen g.b))
  else (List.range g.k).map fun k => xmul (rowElem g.a g.pa aL k) (rowElem g.b (sigWidth g.b) bL k)
/-- Line i of an A operand of a core, in element form. -/
def aLineAt (s : State) (cid base : Nat) (c k i : Nat) : List Byte :=
  planeBytes false c (mread (coreAt s cid).scratch (base + i * aLine c k) (aLine c k))
def bLineAt (s : State) (cid base : Nat) (c k j : Nat) : List Byte :=
  mread (coreAt s cid).scratch (base + j * bLine c k) (bLine c k)

/-! ### Seats (R191) -/

/-- The seat a row belongs to in a seat map: the lowest whose entry holds it. -/
def seatOf (map : List Byte) (row : Nat) : Option Nat :=
  (List.range 512).find? fun q =>
    let lo := bfld map (64 + 16 * q + 8) 2
    decide (lo ≤ row) && decide (row < lo + bfld map (64 + 16 * q + 10) 2)
/-- mask(g, h) of R199. -/
def maskedAt (map : List Byte) (mode g h : Nat) : Bool :=
  (mode % 2 == 1 && decide (g < h)) || (decide (2 ≤ mode) && ((seatOf map g).isNone || seatOf map g != seatOf map h))

/-! ### Effects -/

/-- MCLR (R189, R195). -/
def tileClear (t : Tile) (neg : Bool) : Tile :=
  { t with
    elems := [], dflt := { Acc.zero with z := neg }, nan := false, sat := false, touched := true
    rowB := [], rowL := [] }
/-- Replace the M × N elements of a tile. -/
def tileMap (t : Tile) (m n : Nat) (f : Nat → Nat → Acc → Acc) : Tile :=
  let rows := forN m (fun i es => forN n (fun j es => aput es (256 * i + j) (f i j (elemAt t i j))) es) t.elems
  { t with elems := rows, touched := true }
/-- One element under a new datum (R188). -/
def rescale (sh : Int) (a : Acc) : Acc :=
  let v := a.val.toInt
  let x := roundToInt 0 (decide (v < 0)) v.natAbs sh
  if accMax < x then { a with val := BitVec.ofInt 48 accMax, s := true }
  else if x < -accMax then { a with val := BitVec.ofInt 48 (-accMax), s := true }
  else { a with val := BitVec.ofInt 48 x }
def tileDatum (t : Tile) (v : Int) : Tile :=
  { t with
    elems := t.elems.map fun e => (e.1, rescale (t.datum.toInt - v) e.2)
    dflt := rescale (t.datum.toInt - v) t.dflt, datum := BitVec.ofInt 16 v, touched := true }
/-- What R190 does once an MMAZ has cleared the tile: every element takes the exact terms of `lineTerms` (R175). -/
def mmaInto (s : State) (cid : Nat) (t : Tile) (map : List Byte) (rag neg : Bool) (pa pb sa sb : Nat) : Tile :=
  let g := tcfg t.cfg
  let m := (coreAt s cid).scratch
  let aS := if isBlock g.a then mread m sa (g.m * scaleLine g.a g.k) else []
  let bS := if isBlock g.b then mread m sb (g.n * scaleLine g.b g.k) else []
  let skip (i : Nat) : Bool := rag && (seatOf map (g.rowBase + i)).isNone
  tileMap t g.m g.n fun i j e =>
    if skip i then e
    else ((lineTerms g (aLineAt s cid pa g.a g.k i) (bLineAt s cid pb g.b g.k j) aS bS i j).map
      (if neg then xneg else id)).foldl (accAdd t.datum) e
/-- MACC (R192). -/
def maccTerm (src : Tile) (a : Acc) : XNum :=
  if a.n || (a.ip && a.im) then .nan else elemX src a
def tileMacc (t src : Tile) : Tile :=
  let g := tcfg t.cfg
  tileMap t g.m g.n fun i j e =>
    let x := elemAt src i j
    let e' := accAdd t.datum e (maccTerm src x)
    { e' with s := e'.s || x.s }
/-- The formats of MRD's output codes (R186); code 7 is raw. -/
def outFmt (c : Nat) : OutFmt :=
  match c with
  | 0 => .flt fFP32
  | 1 => .flt fBF16
  | 2 => .flt fFP16
  | 3 => .flt fE4M3
  | 4 => .flt fE5M2
  | 5 => .int 8
  | _ => .int 32
def outBytes (c : Nat) : Nat :=
  match c with
  | 0 => 4
  | 1 => 2
  | 2 => 2
  | 6 => 4
  | 7 => 8
  | _ => 1
/-- Division by a row sum of l · 2^−40 (R193). An infinity stays one, over 0 too (log entry 36). -/
def overSum (x : XNum) (l : Nat) : XNum :=
  match x with
  | .fin neg m e => if l = 0 then (if m = 0 then .nan else .inf neg) else quot neg m l (e + 40)
  | y => y
/-- The read-out of an element (R137, R193): bytes, NAN set, SAT set. -/
def mrdElem (t : Tile) (out : Nat) (norm : Bool) (i j : Nat) : Nat × Bool × Bool :=
  let a := elemAt t i j
  let l := ((aget t.rowL i).getD 0).toNat
  let r := (tcfg t.cfg).rnd
  let x := elemX t a
  if out = 7 then ((accRaw a).toNat, false, false)
  else if !norm then readOut (outFmt out) r a.s (scaledX t x)
  else match x with
    | .fin _ _ _ => if l = 0 then (0, false, false) else readOut (outFmt out) r a.s (overSum (scaledX t x) l)
    | _ => readOut (outFmt out) r a.s (overSum (scaledX t x) l)
/-- MRD (R193): the bytes, and the tile with its status flags. -/
def tileRead (t : Tile) (out : Nat) (norm : Bool) : List Byte × Tile :=
  let g := tcfg t.cfg
  let rs := (List.range (g.m * g.n)).map fun e => mrdElem t out norm (e / g.n) (e % g.n)
  let nan := rs.any fun r => r.2.1
  let sat := rs.any fun r => r.2.2
  (rs.flatMap fun r => leBytes (outBytes out) r.1,
    { t with nan := t.nan || nan, sat := t.sat || sat, touched := t.touched || nan || sat })
/-- The record of MSTAT (R194). -/
def tileStat (t : Tile) (att : Bool) : List Byte :=
  leBytes 8 (t.nan.toNat + 2 * t.sat.toNat + 4 * t.touched.toNat) ++ leBytes 8 t.cfg.toNat ++
    leBytes 8 t.tscale.toNat ++
    leBytes 8 (t.datum.toNat + (if att then
      fld t.att 33 32 * 2 ^ 16 + fld t.att 34 34 * 2 ^ 18 + fld t.att 31 0 * 2 ^ 32 else 0))

/-! ### The attention chain (R195 to R199) -/

/-- log₂ e = 1 / ln 2, in units of 2^−190, rounded down. -/
def log2e : Nat := 2 ^ 382 / ln2
/-- c = round_rne(SCALE × log₂e) (R196). -/
def softScale (scale : Nat) : XNum :=
  match fltVal fFP32 scale with
  | .fin neg m e => if m = 0 then .fin neg 0 0 else fltVal fFP32 (convertF fFP32 0 (.fin neg (2 * (m * log2e) + 1) (e - 191))).1
  | x => x
def isFiniteX (x : XNum) : Bool :=
  match x with
  | .fin .. => true
  | _ => false
/-- The greater of two values that are not NaN. -/
def maxX (x y : XNum) : XNum := if xcmp x y == .lt then y else x
/-- ⌈x⌉ clamped to ±(2^31 − 1), and whether it was clamped. -/
def ceilClamp (x : XNum) : Int × Bool :=
  match x with
  | .fin neg m e =>
    let v := roundToInt 3 neg m e
    let c := Max.max (-(2 ^ 31 - 1)) (Min.min (2 ^ 31 - 1) v)
    (c, c != v)
  | _ => (0, false)
/-- A row of the stage: the values p_j, B_i, l_i, the shift of O, and whether SAT of O is set. -/
structure SoftRow where
  p : List XNum
  b : Option (BitVec 32)
  l : BitVec 64
  shift : Nat
  sat : Bool
  deriving DecidableEq, Repr
/-- p_j for an unmasked key (R198). -/
def softP (pf : Fmt) (t : XNum) (b : Int) : XNum :=
  let y := (convertF fFP32 0 (mathX 0 (xadd false t (intVal (-b))))).1
  fltVal pf (convertF pf 0 (fltVal fFP32 y)).1
/-- One row of the stage (R198). `ts` holds t_j and whether key j is masked. DESIGN CHOICE (log entry 118): where the clamp of m leaves
B_i below a t_j, the pseudocode is followed, whose p_j = EXP2(t_j - B_i) is then above 1 or +infinity, though a bullet of the rule
says that every p_j lies in [0, 1]; an infinite p_j makes l_i saturate. -/
def softRow (pf : Fmt) (b : Option (BitVec 32)) (l : BitVec 64) (ts : List (XNum × Bool)) : SoftRow :=
  let ts := ts.map fun t => (t.1, t.2 || t.1 == .inf true)
  let live := (ts.filter fun t => !t.2).map fun t => t.1
  if live.any fun t => !isFiniteX t then { p := ts.map fun _ => .nan, b := b, l := l, shift := 0, sat := false }
  else match live with
    | [] => { p := ts.map fun _ => .fin false 0 0, b := b, l := l, shift := 0, sat := false }
    | t0 :: r =>
      let (m, clamped) := ceilClamp (r.foldl maxX t0)
      let (b', shift) : Int × Nat := match b with
        | none => (m, 0)
        | some v => if v.toInt < m then (m, (m - v.toInt).toNat) else (v.toInt, 0)
      let l0 := roundShift 0 false l.toNat (Nat.min shift 100)
      let ps := ts.map fun t => if t.2 then XNum.fin false 0 0 else softP pf t.1 b'
      let (lNew, ovf) := ps.foldl (fun (a : Nat × Bool) p => match p with
        | .fin _ m e =>
          let v := a.1 + (roundToInt 0 false m (e + 40)).toNat
          if 2 ^ 64 ≤ v then (2 ^ 64 - 1, true) else (v, a.2)
        | .inf _ => (2 ^ 64 - 1, true)
        | .nan => a) (l0, false)
      { p := ps, b := some (BitVec.ofInt 32 b'), l := BitVec.ofNat 64 lNew, shift := shift, sat := clamped || ovf }
/-- V × 2^−Δ rounded to nearest even. -/
def shiftAcc (k : Nat) (a : Acc) : Acc :=
  let v := a.val.toInt
  { a with val := BitVec.ofInt 48 (roundToInt 0 (decide (v < 0)) v.natAbs (-(Nat.min k 100 : Nat))) }
/-- MATT (R198), on tiles S and O. -/
def mattEffect (s : State) (cid : Nat) (map : List Byte) (first : Bool) (q k v k0 : Nat) (tS tO : Tile) : Tile × Tile :=
  let o := if first then tileClear tO false else tO
  let sc := mmaInto s cid (tileClear tS false) map false false q k 0 0
  let gs := tcfg sc.cfg
  let go := tcfg o.cfg
  let pf := if bitAt o.att 34 then fE4M3 else fBF16
  let c := softScale (fld o.att 31 0)
  let vs := (List.range go.n).map fun j => bLineAt s cid v go.b go.k j
  let o := forN gs.m (fun i (o : Tile) =>
    let ts := (List.range gs.n).map fun j =>
      let a := elemAt sc i j
      let sv := fltVal fFP32 (readOut (.flt fFP32) 0 a.s (scaledX sc (elemX sc a))).1
      (fltVal fFP32 (convertF fFP32 0 (xmul sv c)).1, maskedAt map (fld o.att 33 32) (go.rowBase + i) (k0 + j))
    let r := softRow pf (aget o.rowB i) ((aget o.rowL i).getD 0) ts
    let row := forN go.n (fun j es =>
      let e := elemAt o i j
      let e := if r.shift = 0 then e else shiftAcc r.shift e
      let terms := (List.range gs.n).map fun h => xmul (r.p.getD h .nan) (rowElem go.b (sigWidth go.b) (vs.getD j []) h)
      aput es (256 * i + j) (terms.foldl (accAdd o.datum) e)) o.elems
    { o with
      elems := row, sat := o.sat || r.sat, touched := true
      rowB := match r.b with
        | some b => aput o.rowB i b
        | none => o.rowB
      rowL := aput o.rowL i r.l }) o
  (sc, { o with touched := true })

/-- What an MA command does when it retires (R183): its tiles, and what it writes to scratchpad. -/
def maEffect (s : State) (cid : Nat) (k : Cmd) : State :=
  let op (i : Nat) : Word := k.ops.getD i 0
  let off (i : Nat) : Nat := spOff (op i)
  let mma (t : BitVec 5) (clear neg rag : Bool) : State :=
    let x := tileAt s cid t.toNat
    let x := if clear then tileClear x false else x
    putTile s cid t.toNat (mmaInto s cid x k.image rag neg (off 0) (off 2) (off 1) (off 3))
  let write (p : Nat) (bs : List Byte) (s : State) : State :=
    modCore s cid fun c => { c with scratch := mwrite c.scratch p bs }
  match k.ins with
  | .mcfg _ t _ _ => putTile s cid t.toNat { tileAt s cid t.toNat with cfg := op 0, tscale := op 1, touched := true }
  | .mdat _ t _ => putTile s cid t.toNat (tileDatum (tileAt s cid t.toNat) (op 0).toInt)
  | .mclr _ t neg => putTile s cid t.toNat (tileClear (tileAt s cid t.toNat) (neg == 1))
  | .mma _ t _ _ _ rag => mma t false false (rag == 1)
  | .mmaz _ t _ _ _ rag => mma t true false (rag == 1)
  | .mmas _ t _ _ _ rag => mma t false true (rag == 1)
  | .matt _ t _ first =>
    let (x, o) := mattEffect s cid k.image (first == 1) (off 0) (off 1) (off 2) (fld (op 3) 31 0)
      (tileAt s cid (t.toNat - 2)) (tileAt s cid t.toNat)
    putTile (putTile s cid (t.toNat - 2) x) cid t.toNat o
  | .msmx _ t _ => putTile s cid t.toNat { tileAt s cid t.toNat with att := op 0, touched := true }
  | .mrd _ t _ out norm =>
    let (bs, x) := tileRead (tileAt s cid t.toNat) out.toNat (norm == 1)
    putTile (write (off 0) bs s) cid t.toNat x
  | .macc _ t src => putTile s cid t.toNat (tileMacc (tileAt s cid t.toNat) (tileAt s cid src.toNat))
  | .mstat _ t _ => write (off 0) (tileStat (tileAt s cid t.toNat) (decide (2 ≤ t.toNat))) s
  | _ => s

/-! ### Issue -/

/-- Several scratchpad regions, each checked in turn (R180): address, bytes, alignment, written. DESIGN CHOICE (log entry 95):
R180 and R90 order the checks of one region and name no order among regions; the model takes A, the scales of A, B, the scales
of B (for MATT Q, K, V), so the first region that fails names the fault. -/
def withRegions (s : State) (rs : List (Word × Nat × Nat × Bool)) (k : State → Res) : Res :=
  match rs.findSome? fun r => (ownCheck s s.cur r.1 r.2.1 r.2.2.1 r.2.2.2).map fun c => (c, r.1) with
  | some (c, va) => .fault s c va
  | none => k s
/-- An MA form: the shared checks, then a command of the matrix engine. -/
def maForm (illegal : Bool) (srcs : List Src) (tk : Tok) (i : Instr) (body : State → (List Word → List Byte →
    List Range → List Range → Res) → Res) (s : State) : Out :=
  issue { illegal := illegal, legal := [1], srcs := srcs } tk
    (fun s => body s fun ops image rd wr => issueCmd s s.cur i ops image rd wr 8 none) s
def rangeOf (s : State) (a : Word) (n : Nat) : Range := ⟨coreOf s.cur, spOff a, n⟩
def evenPair (r : Reg) : Bool := r.toNat % 2 == 0 && decide (r.toNat ≤ 26)
def badTile (t : BitVec 5) : Bool := decide (3 < t.toNat)
def notAttTile (t : BitVec 5) : Bool := decide (3 < t.toNat ∨ t.toNat < 2)

def execMcfg (tk : Tok) (t : BitVec 5) (a b : Reg) (s : State) : Out :=
  maForm (badTile t) [.x a.toNat, .x b.toNat] tk (.mcfg tk t a b) (fun s issue =>
    let w := readX (streamAt s s.cur) a.toNat
    let ts := readX (streamAt s s.cur) b.toNat
    if tcfgOk w ts then issue [w, ts] [] [] [] else .fault s 0x01 0) s
def execMdat (tk : Tok) (t : BitVec 5) (a : Reg) (s : State) : Out :=
  maForm (badTile t) [.x a.toNat] tk (.mdat tk t a) (fun s issue =>
    let v := readX (streamAt s s.cur) a.toNat
    if v.toInt < -32768 ∨ 32767 < v.toInt then .fault s 0x01 0 else issue [v] [] [] []) s
def execMclr (tk : Tok) (t : BitVec 5) (neg : BitVec 1) (s : State) : Out :=
  maForm (badTile t) [] tk (.mclr tk t neg) (fun _ issue => issue [] [] [] []) s
/-- The three products (R190). An SCL that does not fit the tile's formats is a fault of the forms' own description
(R40 step 4). -/
def mmaForm (i : Instr) (tk : Tok) (t : BitVec 5) (a b : Reg) (scl rag : BitVec 1) (s : State) : Out :=
  let g := tcfg (cfgView s (coreOf s.cur) t.toNat)
  let blk := isBlock g.a || isBlock g.b
  let pair := scl == 1
  let illegal := badTile t || (pair && !(evenPair a && evenPair b))
  let src (r : Reg) (c : Nat) : List Src := if pair && isBlock c then [.xs r.toNat 2] else [.x r.toNat]
  maForm illegal (src a g.a ++ src b g.b) tk i (fun s issue =>
    let st := streamAt s s.cur
    let g := tcfg (cfgView s (coreOf s.cur) t.toNat)
    let pa := readX st a.toNat
    let pb := readX st b.toNat
    let sa := if isBlock g.a then readX st (a.toNat + 1) else 0
    let sb := if isBlock g.b then readX st (b.toNat + 1) else 0
    if pair != blk then .fault s 0x01 0 else
    let rs := [(pa, g.m * aLine g.a g.k, 16, false)] ++
      (if isBlock g.a then [(sa, g.m * scaleLine g.a g.k, 2, false)] else []) ++
      [(pb, g.n * bLine g.b g.k, 16, false)] ++
      (if isBlock g.b then [(sb, g.n * scaleLine g.b g.k, 2, false)] else [])
    withRegions s rs fun s =>
      issue [pa, sa, pb, sb] (if rag = 1 then (coreAt s (coreOf s.cur)).seatMap else [])
        (rs.map fun r => rangeOf s r.1 r.2.1) []) s
def execMma (tk : Tok) (t : BitVec 5) (a b : Reg) (scl rag : BitVec 1) (s : State) : Out :=
  mmaForm (.mma tk t a b scl rag) tk t a b scl rag s
def execMmaz (tk : Tok) (t : BitVec 5) (a b : Reg) (scl rag : BitVec 1) (s : State) : Out :=
  mmaForm (.mmaz tk t a b scl rag) tk t a b scl rag s
def execMmas (tk : Tok) (t : BitVec 5) (a b : Reg) (scl rag : BitVec 1) (s : State) : Out :=
  mmaForm (.mmas tk t a b scl rag) tk t a b scl rag s
/-- MATT (R197). -/
def execMatt (tk : Tok) (t : BitVec 5) (b : Reg) (first : BitVec 1) (s : State) : Out :=
  let illegal := notAttTile t || b.toNat % 4 != 0 || decide (24 < b.toNat)
  maForm illegal [.xs b.toNat 4] tk (.matt tk t b first) (fun s issue =>
    let cid := coreOf s.cur
    let ops := quadOf (streamAt s s.cur) b
    let gs := tcfg (cfgView s cid (t.toNat - 2))
    let go := tcfg (cfgView s cid t.toNat)
    if fld (ops.getD 3 0) 63 32 ≠ 0 ∨ gs.m ≠ go.m ∨ go.k ≠ gs.n ∨ isBlock gs.a || isBlock gs.b || isBlock go.b then
      .fault s 0x01 0
    else
      let rs := [(ops.getD 0 0, gs.m * aLine gs.a gs.k, 16, false), (ops.getD 1 0, gs.n * bLine gs.b gs.k, 16, false),
        (ops.getD 2 0, go.n * bLine go.b go.k, 16, false)]
      withRegions s rs fun s => issue ops (coreAt s cid).seatMap (rs.map fun r => rangeOf s r.1 r.2.1) []) s
def execMsmx (tk : Tok) (t : BitVec 5) (a : Reg) (s : State) : Out :=
  maForm (notAttTile t) [.x a.toNat] tk (.msmx tk t a) (fun s issue =>
    let w := readX (streamAt s s.cur) a.toNat
    if fld w 63 35 ≠ 0 then .fault s 0x01 0 else issue [w] [] [] []) s
def execMrd (tk : Tok) (t : BitVec 5) (a : Reg) (out : BitVec 5) (norm : BitVec 1) (s : State) : Out :=
  let illegal := badTile t || decide (7 < out.toNat) || (norm == 1 && (decide (t.toNat < 2) || out.toNat == 7))
  maForm illegal [.x a.toNat] tk (.mrd tk t a out norm) (fun s issue =>
    let g := tcfg (cfgView s (coreOf s.cur) t.toNat)
    let p := readX (streamAt s s.cur) a.toNat
    let n := g.m * g.n * outBytes out.toNat
    withRegions s [(p, n, outBytes out.toNat, true)] fun s => issue [p] [] [] [rangeOf s p n]) s
def execMacc (tk : Tok) (t : BitVec 5) (src : Reg) (s : State) : Out :=
  maForm (badTile t || decide (3 < src.toNat)) [] tk (.macc tk t src) (fun _ issue => issue [] [] [] []) s
def execMstat (tk : Tok) (t : BitVec 5) (a : Reg) (s : State) : Out :=
  maForm (badTile t) [.x a.toNat] tk (.mstat tk t a) (fun s issue =>
    let p := readX (streamAt s s.cur) a.toNat
    withRegions s [(p, 32, 16, true)] fun s => issue [p] [] [] [rangeOf s p 32]) s

end Sys2Proof.Machine
end

