-- ==== Sys2Proof/Machine/Engine.lean ====
section
/-! DEFINITION. What the engines of a core share: faults of a command (R117, R222, R352), memory read and written
for a command (R296 to R298), completion (R98, R105, R108, R223), and the Plat as a die holds it (R229, R382, R387, R392). -/
namespace Sys2Proof.Machine

/-! ### Commands that fault, complete or go -/

def dropCmd (s : State) (cid : Nat) (seq : BitVec 32) : State :=
  modCore s cid fun c => { c with cmds := c.cmds.filter fun k => k.seq != seq }
/-- A command retires: it is in flight no more, its claims go (R299), and its sector decrements are complete. -/
def retireCmd (s : State) (cid : Nat) (seq : BitVec 32) : State := endRegion (dropCmd s cid seq) (agentOf cid seq)
/-- What stands for a fault code where a command waits for an earlier access of its stream and nothing is raised. -/
def notYet : BitVec 8 := 0
/-- A fault of a command (R117): the engine is the agent, and the sequence number stands for the PC. A class 1
fault holds the command for the entry; a command that faults otherwise, or whose leg was killed, is over
(R350): its claims go with it (R299), and no entry of it is left to resolve. What an uncorrectable error leaves of it is in `ueSweep`. -/
def engineFail (s : State) (cid : Nat) (seq : BitVec 32) (agent : Nat) (code : BitVec 8) (va : Word) (seat : Nat) : State :=
  let d := dieOf cid
  if code = notYet then s
  else if !canRaise s d then setExstat s d 8
  else
    let e := nextEntry s d
    let runs := legRuns s cid
    let s' := raise s { coreFault cid agent seq code va s with seat := seat }
    if classOf code = 1 && runs then modCmd s' cid seq fun k => { k with hold := some e }
    else if classOf code = 4 && runs then s'
    else
      retireCmd (modDie s' d fun x => { x with unresolved := if runs then x.unresolved else x.unresolved.filter fun y => y.seq != e })
        cid seq
/-- An increment would overflow while no fault can be raised: the engine is held (R98, R363). -/
def incHeld (s : State) (cid target sem inc : Nat) : Bool :=
  !canRaise s (dieOf cid) && decide (2 ^ 32 ≤ (semAt s target sem).count.toNat + inc)
/-- The overflow that holds an engine is recorded (R363). -/
def heldByQueue (s : State) (cid : Nat) : State := setExstat s (dieOf cid) 8
/-- Add a completion increment to a semaphore (R97, R98, R214). The overflow kills the leg of the command's core. -/
def engineInc (s : State) (cid : Nat) (seq : BitVec 32) (agent target sem inc : Nat) (t : Tag) (own : Bool) : State :=
  match semAdd s target sem inc t (if own then [seq] else []) with
  | some s => s
  | none =>
    if canRaise s (dieOf cid) then raise s (coreFault cid agent seq 0x12 0 s) else setExstat s (dieOf cid) 8

/-! ### Memory for a command -/

/-- A claim of a command on a line of a CHK page (R296 to R298). -/
def cmdClaim (s : State) (g : Nat) (x : Xlat) (wr : Bool) : Except (BitVec 8) State :=
  if leafChk x.via.leaf then claimTake s g (localPa s x.pa / 128) wr else .ok s
/-- An earlier access of the command's stream to some of the bytes is in flight: a read follows the writes among them, a
write every one (R277, R284). -/
def priorHit (s : State) (cid g pa n : Nat) (wr : Bool) : Bool :=
  let size (o : ReqOp) : Nat := match o with
    | .load _ k => if wr then k else 0
    | .store k _ => k
    | .atomic .. => 8
    | _ => 0
  match (coreAt s cid).cmds.find? fun k => agentOf cid k.seq == g with
  | none => false
  | some k => s.requests.any fun r =>
    k.prior.contains r.id && decide (r.pa < localPa s pa + n) && decide (localPa s pa < r.pa + size r.op)
/-- Bytes by VA for a command, line by line: the first fault, or the bytes. -/
def cmdRead (s : State) (cid g : Nat) (va n : Nat) : Except (BitVec 8 × Word) (List Byte) × State :=
  (pieces va n).foldl (fun (acc : Except (BitVec 8 × Word) (List Byte) × State) p =>
    match acc with
    | (.error e, s) => (.error e, s)
    | (.ok bs, s) =>
      match access s cid (ctxOf s cid) (BitVec.ofNat 64 p.1) .rd with
      | (.error e, s) => (.error e, s)
      | (.ok x, s) =>
        if priorHit s cid g x.pa p.2 false then (.error (notYet, BitVec.ofNat 64 p.1), s)
        else match cmdClaim s g x false with
        | .error c => (.error (c, BitVec.ofNat 64 p.1), s)
        | .ok s =>
          match homeBytes s cid x p.2 with
          | (.error e, s) => (.error e, s)
          | (.ok v, s) => (.ok (bs ++ v), s)) (.ok [], s)
/-- The agent number in the entries of an engine's commands (R364): the Porter's for a KVAPP (log entry 48). -/
def cmdAgent (e : Engine) : Nat := if e = 9 then 4 else e
/-- The command of a core that the agent number stands for, as the owner of a tracked write. -/
def ownerOf (s : State) (cid g : Nat) : RemoteOwner :=
  match (coreAt s cid).cmds.find? fun k => agentOf cid k.seq == g with
  | some k => .cmd cid k.seq (cmdAgent k.engine)
  | none => .cmd cid 0 4
/-- Write runs of bytes of one sector at its home, or send them to their home in another package (R457). -/
def putRuns (s : State) (cid g : Nat) (x : Xlat) (runs : List (Nat × List Byte)) : Option State :=
  runs.foldl (fun s r => s.bind fun s =>
    hwPut s (globalDie s (dieOf cid)) { x with pa := x.pa + r.1 } r.2 (ownerOf s cid g)) (some s)
/-- Runs of bytes written within one 32-byte sector that was translated; `runs` are offsets in it and the bytes there. -/
def cmdPut (s : State) (cid g : Nat) (va : Word) (x : Xlat) (runs : List (Nat × List Byte)) : Except (BitVec 8 × Word) Unit × State :=
    if runs.any fun r => priorHit s cid g (x.pa + r.1) r.2.length true then (.error (notYet, va), s)
    else if !homeReached s cid x then (.error (0xF0, BitVec.ofNat 64 x.pa), s)
    else match cmdClaim s g x true with
    | .error c => (.error (c, va), s)
    | .ok t => match putRuns t cid g x runs with
      | some t => (.ok (), t)
      | none => (.error (notYet, va), s)
/-- Bytes written by VA within one 32-byte sector. -/
def cmdWrite (s : State) (cid g : Nat) (sector : Nat) (runs : List (Nat × List Byte)) : Except (BitVec 8 × Word) Unit × State :=
  let va : Word := BitVec.ofNat 64 sector
  match access s cid (ctxOf s cid) va .wr with
  | (.error e, s) => (.error e, s)
  | (.ok x, s) => cmdPut s cid g va x runs

/-! ### Plat -/

def platKey (ctx i : Nat) : Nat := 16 * ctx + i
def platMem (s : State) (ctx i : Nat) : BitVec 512 := (aget s.plats (platKey ctx i)).getD 0
/-- An entry as a die's copy holds it: until a PLATW retires, each die takes the new version at a moment of its
own, which a free bit decides (R387). -/
def platEntry (s : State) (die ctx i : Nat) : BitVec 512 × State :=
  let (found, s) := (s.platUpds.filter fun u => u.key == platKey ctx i && u.dies.contains die).foldl
    (fun (a : Option (BitVec 512) × State) u =>
      match a.1 with
      | some _ => a
      | none =>
        let (b, s) := freeVal a.2 1
        if b = 0 then (some u.old, s)
        else
          let us := mapIf (fun v => v.id == u.id) (fun v => { v with dies := v.dies.filter fun d => d != die }) s.platUpds
          (none, { s with platUpds := us })) (none, s)
  (found.getD (platMem s ctx i), s)
def platGen (e : BitVec 512) : Nat := fld e 39 32
def platValid (e : BitVec 512) : Bool := bitAt e 47
/-- A REPLAT in flight names the entry. -/
def replatNames (s : State) (ctx i : Nat) : Bool := s.replats.any fun r => r.ctx == ctx && (r.src == i || r.dst == i)
/-- The check of a generation (R229, R392): go on, wait, or Stale Layout. -/
inductive PlatChk where
  | ok | wait | stale
  deriving DecidableEq, Repr
def platJudge (s : State) (ctx i gen : Nat) (e : BitVec 512) : PlatChk :=
  if replatNames s ctx i then (if gen = (platGen e + 1) % 256 then .wait else .stale)
  else if platValid e && platGen e == gen then .ok else .stale
/-- The same, of the entry as a die holds it. -/
def platCheck (s : State) (die ctx i gen : Nat) : PlatChk × State :=
  let (e, s) := platEntry s die ctx i
  (platJudge s ctx i gen e, s)

/-! ### What a command reads at issue -/

/-- Bytes of scratchpad that a command of an engine reads at its issue: what an earlier command writes there must have been
written (R110, R111), or is unordered (R114): neither settled nor a transitive predecessor (R112, R113). -/
def withImage (s : State) (engine : Engine) (rd : List Range) (k : State → Res) : Res :=
  let cid := coreOf s.cur
  let c := coreAt s cid
  let recs := cmdRecs c
  let before := closure recs 64 (cmdPreds s s.cur engine)
  if acqWaits s s.cur then .stall s
  else if detOf s cid && recs.any fun r => conflicts rd [] r.rd r.wr && !r.settled.contains (kindOf s.cur) && !before.contains r.seq then
    .fault s 0x11 0
  else if c.cmds.any fun q => conflicts rd [] q.rd q.wr then .stall s
  else if !detOf s cid && !(peerConflicts s cid rd [] none).isEmpty then .stall s
  else k s

end Sys2Proof.Machine
end

