-- ==== Sys2Proof/Machine/Porter.lean ====
section
/-! DEFINITION. The Porter: CPY, TLD, TST, TLDM, PFT and MIG (R220 to R229, R242 to R244, R331, R332) at issue,
their sectors (PORTER_SECTOR) and their retirement. -/
namespace Sys2Proof.Machine

/-! ### Tensor maps (R225) -/

structure TMap where
  base : Nat
  d0 : Nat
  d1 : Nat
  d2 : Nat
  s1 : Int
  s2 : Int
  b0 : Nat
  b1 : Nat
  b2 : Nat
  fmt : Nat
  plane : Bool
  rag : Bool
  chk : Bool
  plat : Nat
  gen : Nat
  fill : Nat
  pitchF : Nat
  deriving DecidableEq, Repr
def tmapOf (bs : List Byte) : TMap :=
  { base := bfld bs 0 8, d0 := bfld bs 8 4, d1 := bfld bs 12 4, d2 := bfld bs 16 4
    s1 := signedOf 64 (bfld bs 24 8), s2 := signedOf 64 (bfld bs 32 8), b0 := bfld bs 40 2, b1 := bfld bs 42 2
    b2 := bfld bs 44 2, fmt := bfld bs 48 1 % 32, plane := nfld (bfld bs 48 1) 5 5 == 1
    rag := nfld (bfld bs 48 1) 6 6 == 1, chk := nfld (bfld bs 48 1) 7 7 == 1, plat := bfld bs 49 1 % 16
    gen := bfld bs 50 1, fill := bfld bs 52 4, pitchF := bfld bs 56 4 }
def rowLen (m : TMap) : Nat := m.b0 * elemBits m.fmt / 8
def pitchOf (m : TMap) : Nat := if m.pitchF = 0 then rowLen m else m.pitchF
/-- The limits whose breach is an Illegal Encoding (R119, R225, R229). -/
def tmapOk (bs : List Byte) : Bool :=
  let m := tmapOf bs
  !fmtReserved m.fmt && m.b0 != 0 && m.b1 != 0 && m.b2 != 0 && bfld bs 20 4 == 0 && bfld bs 46 2 == 0 &&
    bfld bs 49 1 < 16 && bfld bs 51 1 == 0 && bfld bs 60 4 == 0 && (m.chk || bfld bs 49 2 == 0) &&
    (m.pitchF == 0 || (m.pitchF % 32 == 0 && decide (rowLen m ≤ m.pitchF)))
/-- A box in progress: the map, the signed origins, the seat map of a ragged one, and the seats suppressed (R421). -/
structure Box where
  m : TMap
  o0 : Int
  o1 : Int
  o2 : Int
  seats : List Byte
  supp : List Nat
  deriving DecidableEq, Repr
/-- Multiples that box0 and o0 must keep (R225). -/
def boxAligned (b : Box) : Bool :=
  let n := elemBits b.m.fmt
  (!(b.m.plane || isSx b.m.fmt) || (b.m.b0 % 16 == 0 && b.o0 % 16 == 0)) &&
    (8 ≤ n || (b.m.b0 * n % 8 == 0 && b.o0 * n % 8 == 0))
def rowCount (m : TMap) : Nat := m.b1 * m.b2
def rowC1 (b : Box) (r : Nat) : Int := b.o1 + (r % b.m.b1 : Nat)
def rowC2 (b : Box) (r : Nat) : Int := b.o2 + (r / b.m.b1 : Nat)
/-- The seat of a ragged row (R226). -/
def rowSeat (b : Box) (r : Nat) : Option Nat := if rowC1 b r < 0 then none else seatOf b.seats (rowC1 b r).toNat
/-- The in-bounds columns of the box: from the first to before the last. -/
def colLo (b : Box) : Int := Max.max 0 b.o0
def colHi (b : Box) : Int := Min.min (b.m.d0 : Int) (b.o0 + b.m.b0)
/-- Row r has in-bounds elements. -/
def rowLive (b : Box) (r : Nat) : Bool :=
  decide (0 ≤ rowC1 b r ∧ rowC1 b r < b.m.d1 ∧ 0 ≤ rowC2 b r ∧ rowC2 b r < b.m.d2 ∧ colLo b < colHi b)
def rowTaken (b : Box) (r : Nat) : Bool :=
  rowLive b r && (!b.m.rag || (match rowSeat b r with
    | some q => !b.supp.contains q
    | none => false))
def rowAddr (b : Box) (r : Nat) : Int := b.m.base + rowC1 b r * b.m.s1 + rowC2 b r * b.m.s2
/-- The lowest and the highest address of an in-bounds element lie in the VA space (R225). -/
def boxInSpace (b : Box) : Bool :=
  let n := elemBits b.m.fmt
  let lo := colLo b * n / 8
  let hi := (colHi b * n + 7) / 8 - 1
  let y0 := Max.max 0 b.o1
  let y1 := Min.min (b.m.d1 : Int) (b.o1 + b.m.b1) - 1
  let z0 := Max.max 0 b.o2
  let z1 := Min.min (b.m.d2 : Int) (b.o2 + b.m.b2) - 1
  let at_ (y z : Int) : Int := b.m.base + y * b.m.s1 + z * b.m.s2
  y1 < y0 || z1 < z0 || colHi b ≤ colLo b ||
    [at_ y0 z0, at_ y0 z1, at_ y1 z0, at_ y1 z1].all fun a => decide (0 ≤ a + lo ∧ a + hi < 2 ^ 56)
/-- The map, the origins and the seat map a command read at its issue. -/
def boxOf (k : Cmd) : Box :=
  { m := tmapOf (k.image.take 64), o0 := (k.ops.getD 2 0).toInt, o1 := (k.ops.getD 3 0).toInt
    o2 := (k.ops.getD 4 0).toInt, seats := k.image.drop 64, supp := k.supp }

/-! ### Sectors -/

/-- Destination sectors of a TLD (R226). -/
def tldCount (m : TMap) : Nat :=
  if m.pitchF = 0 then ceilDiv (rowCount m * rowLen m) 32 else rowCount m * ceilDiv (rowLen m) 32
/-- The parts of sector i: row, first and last byte position in the row, offset from the destination. -/
def tldParts (m : TMap) (i : Nat) : List (Nat × Nat × Nat × Nat) :=
  let n := rowLen m
  if m.pitchF = 0 then
    let lo := 32 * i
    let hi := Nat.min (lo + 32) (rowCount m * n)
    (List.range ((hi - 1) / n + 1 - lo / n)).map fun j =>
      let r := lo / n + j
      let a := Nat.max lo (r * n)
      (r, a - r * n, Nat.min hi (r * n + n) - r * n, a)
  else
    let per := ceilDiv n 32
    let p := 32 * (i % per)
    [(i / per, p, Nat.min n (p + 32), i / per * m.pitchF + p)]
/-- A failed part: code, VA and the seat that a ragged row belongs to (R421). -/
abbrev PartFault := BitVec 8 × Word × Nat
/-- Bytes p0 to p1 − 1 of a row of the box in element form (R226). -/
def rowElems (s : State) (cid g : Nat) (b : Box) (r p0 p1 : Nat) : Except PartFault (List Byte) × State :=
  let n := elemBits b.m.fmt
  let e0 := p0 * 8 / n
  let e1 := ceilDiv (p1 * 8) n
  let lo := Max.max (colLo b) (b.o0 + e0)
  let hi := Min.min (colHi b) (b.o0 + e1)
  let take := rowTaken b r && decide (lo < hi)
  let a := lo.toNat * n / 8
  let got : Except (BitVec 8 × Word) (List Byte) × State :=
    if take then cmdRead s cid g (rowAddr b r + a).toNat (ceilDiv (hi.toNat * n) 8 - a) else (.ok [], s)
  match got with
  | (.error (c, va), s) => (.error (c, va, if b.m.rag then (rowSeat b r).getD 0xFFFF else 0xFFFF), s)
  | (.ok bs, s) =>
    let v := leNat bs
    let v : Nat := (List.range (e1 - e0)).foldl (fun (t : Nat) (i : Nat) =>
      let c : Int := b.o0 + e0 + i
      let e := if take && decide (lo ≤ c) && decide (c < hi) then v / 2 ^ (c.toNat * n - a * 8) % 2 ^ n else b.m.fill % 2 ^ n
      t + e * 2 ^ (i * n)) 0
    (.ok (leBytes (p1 - p0) (v / 2 ^ (p0 * 8 - e0 * n))), s)
/-- The same of the row as it is written: in plane form where PLANE is set. -/
def rowSlice (s : State) (cid g : Nat) (b : Box) (r p0 p1 : Nat) : Except PartFault (List Byte) × State :=
  if b.m.plane then
    let w := groupBytes b.m.fmt
    let q0 := p0 / w * w
    match rowElems s cid g b r q0 (ceilDiv p1 w * w) with
    | (.error e, s) => (.error e, s)
    | (.ok bs, s) => (.ok (((planeBytes true b.m.fmt bs).drop (p0 - q0)).take (p1 - p0)), s)
  else rowElems s cid g b r p0 p1
/-- The memory run that a part of a row reads, as `rowElems` reads it: address and bytes. -/
def partRun (b : Box) (r p0 p1 : Nat) : Option (Nat × Nat) :=
  let n := elemBits b.m.fmt
  let w := if b.m.plane then groupBytes b.m.fmt else 1
  let lo := Max.max (colLo b) (b.o0 + (p0 / w * w * 8 / n : Nat))
  let hi := Min.min (colHi b) (b.o0 + (ceilDiv (ceilDiv p1 w * w * 8) n : Nat))
  let a := lo.toNat * n / 8
  if rowTaken b r && decide (lo < hi) then some ((rowAddr b r + a).toNat, ceilDiv (hi.toNat * n) 8 - a) else none
/-- The memory runs that the rows of the box read, and those of sector i: address, bytes and row. -/
def boxRuns (b : Box) : List (Nat × Nat × Nat) :=
  (List.range (rowCount b.m)).filterMap fun r => (partRun b r 0 (rowLen b.m)).map fun p => (p.1, p.2, r)
def sectorRuns (b : Box) (i : Nat) : List (Nat × Nat × Nat) :=
  (tldParts b.m i).filterMap fun p => (partRun b p.1 p.2.1 p.2.2.1).map fun q => (q.1, q.2, p.1)
/-- The pages of 16 KiB, from `lo` to before `hi`, that hold a byte of some runs, ascending: for each its first such address and
that address's row (R360). -/
def runPages (runs : List (Nat × Nat × Nat)) (lo hi : Nat) : AMap (Nat × Nat) :=
  runs.foldl (fun (t : AMap (Nat × Nat)) r =>
    (List.range (ceilDiv (r.1 + r.2.1) 16384 - r.1 / 16384)).foldl (fun t i =>
      let p := r.1 / 16384 + i
      let a := Nat.max r.1 (p * 16384)
      let first := match aget t p with
        | some f => decide (a < f.1)
        | none => true
      if decide (lo ≤ p) && decide (p < hi) && first then aput t p (a, r.2.2) else t) t) []
/-- The page before which the runs of sector i of a TLD end. -/
def sectorTop (b : Box) (i : Nat) : Nat := (sectorRuns b i).foldl (fun n r => Nat.max n (ceilDiv (r.1 + r.2.1) 16384)) 0
/-- A copy translates its pages in ascending VA order, however its rows lie (R360): before a sector, every page of the box from
page `walked` to the highest that the sector reads. -/
def tldWalk (s : State) (cid : Nat) (b : Box) (i walked : Nat) : State :=
  (runPages (boxRuns b) walked (sectorTop b i)).foldl (fun s p => (access s cid (ctxOf s cid) (BitVec.ofNat 64 p.2.1) .rd).2) s
/-- A page that faults stops the copy at the first sector that reads it (R222, R360): the fault of the lowest such page of sector
i, with the seat of a ragged row (R421). -/
def sectorFault (s : State) (cid : Nat) (b : Box) (i : Nat) : Option PartFault × State :=
  (runPages (sectorRuns b i) 0 (sectorTop b i)).foldl (fun (acc : Option PartFault × State) p =>
    match acc with
    | (some e, s) => (some e, s)
    | (none, s) => match access s cid (ctxOf s cid) (BitVec.ofNat 64 p.2.1) .rd with
      | (.error (c, va), s) => (some (c, va, if b.m.rag then (rowSeat b p.2.2).getD 0xFFFF else 0xFFFF), s)
      | (.ok _, s) => (none, s)) (none, s)
/-- Sector i of a TLD: offsets from the destination, and bytes. -/
def tldSector (s : State) (cid g : Nat) (b : Box) (i : Nat) : Except PartFault (List (Nat × List Byte)) × State :=
  (tldParts b.m i).foldl (fun (acc : Except PartFault (List (Nat × List Byte)) × State) p =>
    match acc with
    | (.error e, s) => (.error e, s)
    | (.ok l, s) =>
      match rowSlice s cid g b p.1 p.2.1 p.2.2.1 with
      | (.error e, s) => (.error e, s)
      | (.ok bs, s) => (.ok (l ++ [(p.2.2.2, bs)]), s)) (.ok [], s)
/-- The memory bytes of row r's in-bounds elements: first address, and one past the last. -/
def rowSpan (b : Box) (r : Nat) : Nat × Nat :=
  let n := elemBits b.m.fmt
  ((rowAddr b r + ((colLo b).toNat * n / 8 : Nat)).toNat, (rowAddr b r + (ceilDiv ((colHi b).toNat * n) 8 : Nat)).toNat)
/-- The rows of a box that a copy moves: a PFT fetches every in-bounds row, whatever its seat (R228). -/
def unitRow (b : Box) (r : Nat) (seats : Bool) : Bool := if seats then rowTaken b r else rowLive b r
/-- The units of memory (of 32 or 128 bytes) that hold an in-bounds byte of the box, ascending (R227, R228). -/
def boxUnits (b : Box) (u : Nat) (seats : Bool) : List Nat :=
  let all : AMap Unit := (List.range (rowCount b.m)).foldl (fun (t : AMap Unit) r =>
    if unitRow b r seats then
      let (lo, hi) := rowSpan b r
      (List.range ((hi - 1) / u + 1 - lo / u)).foldl (fun t i => aput t (lo / u + i) ()) t
    else t) []
  all.map fun e => e.1
/-- Row r of the box in scratchpad, in element form. -/
def tstRow (s : State) (t off : Nat) (b : Box) (r : Nat) : List Byte :=
  let bs := mread (coreAt s t).scratch (off + r * pitchOf b.m) (rowLen b.m)
  if b.m.plane then planeBytes false b.m.fmt bs else bs
/-- What a TST writes in the sector at address `a`: runs, in the order of the rows (R227). -/
def tstRuns (s : State) (t off : Nat) (b : Box) (a : Nat) : List (Nat × List Byte) :=
  let n := elemBits b.m.fmt
  (List.range (rowCount b.m)).flatMap fun r =>
    let (lo, hi) := rowSpan b r
    let l := Nat.max lo a
    let h := Nat.min hi (a + 32)
    if rowTaken b r && decide (l < h) then
      let first : Int := rowAddr b r + b.o0 * n / 8
      [(l - a, ((tstRow s t off b r).drop (l - first).toNat).take (h - l))]
    else []

/-! ### Commands of the Porter -/

def compKind (i : Instr) : Nat :=
  match i with
  | .cpy _ _ _ _ k => k.toNat
  | .tld _ _ _ _ k => k.toNat
  | .tst _ _ _ _ k => k.toNat
  | .tldm _ _ _ _ k => k.toNat
  | .pft _ _ _ k => k.toNat
  | .mig _ _ _ k => k.toNat
  | .kvapp .. => 2
  | _ => 0
/-- The completion word of a copy. -/
def compWord (k : Cmd) : Word := k.ops.getD 5 0
def isTldm (i : Instr) : Bool :=
  match i with
  | .tldm .. => true
  | _ => false
/-- A CPY's spaces: the source, or the destination, is a VA (R221). -/
def cpyVa (k : Cmd) (dst : Bool) : Bool := bitAt (k.ops.getD 3 0) (if dst then 1 else 0)
/-- The sectors of a command: those it has to perform. -/
def sectorCount (k : Cmd) : Nat :=
  match k.ins with
  | .cpy .. => (k.ops.getD 2 0).toNat / 32
  | .tld .. => tldCount (tmapOf (k.image.take 64))
  | .tldm .. => tldCount (tmapOf (k.image.take 64))
  | .tst .. => (boxUnits (boxOf k) 32 true).length
  | .pft .. => (boxUnits (boxOf k) 128 false).length
  | .mig .. => (k.ops.getD 2 0).toNat
  | _ => 0
/-- The four ranks of a core's cluster, all targets of its TLDM (R243). -/
def tldmRanks (cid : Nat) : List Nat := (List.range 4).map fun r => cid / 4 * 4 + r
/-- The scratchpads a copy names as peers (R244): address of the first sector, core. DESIGN CHOICE (log entry 94): of a CPY the
source comes first, so where both its peers are not live, Peer Gone names the source; a TST always names read(d). -/
def peersOf (cid : Nat) (k : Cmd) : List (Word × Nat) :=
  let d := k.ops.getD 0 0
  let a := k.ops.getD 1 0
  let peer (w : Word) (sp : Bool) : List (Word × Nat) :=
    if sp && (spTarget cid w).2 then [(w &&& 0x7FFFFF, (spTarget cid w).1)] else []
  match k.ins with
  | .cpy .. => peer a (!cpyVa k false) ++ peer d (!cpyVa k true)
  | .tld .. => peer d true
  | .tst .. => peer d true
  | .tldm .. => (tldmRanks cid).map fun t => (BitVec.ofNat 64 (spOff d + t % 4 * 2 ^ 21), t)
  | _ => []
def peerLive (s : State) (cid t : Nat) : Bool := liveTo s cid t
/-- The legs of a command's peers. -/
def peerLegs (s : State) (cid : Nat) (k : Cmd) : AMap Nat :=
  (peersOf cid k).foldl (fun t p => aput t p.2 (legSerial s p.2)) []
/-- A peer is lost to a command: it is not live, or it runs another leg than when the command started (R244). -/
def peerLost (s : State) (cid : Nat) (k : Cmd) (t : Nat) : Bool :=
  !peerLive s cid t || (match aget k.saw t with
    | some n => n != legSerial s t
    | none => false)
/-- The peers that a command has lost, now or before: they take nothing more (R244). -/
def lostNow (s : State) (cid : Nat) (k : Cmd) : List Nat :=
  (k.lost ++ ((peersOf cid k).filter fun p => peerLost s cid k p.2).map fun p => p.2).eraseDups
/-- A command has begun its first sector: the legs of its peers are noted. -/
def begin_ (s : State) (cid : Nat) (k : Cmd) : State :=
  if k.start then s else modCmd s cid k.seq fun q => { q with start := true, saw := peerLegs s cid k }
/-- ERR of a waymark is set (R105, R244). -/
def wayErr (s : State) (cid off : Nat) : State := putWay s cid off { wayAt s cid off with err := true }
/-- `n` sector decrements (R104). -/
def wayDecs (s : State) (cid off n : Nat) : State := forN n (fun _ s => wayApply s cid off true) s
/-- The waymark that a copy's completion word names. -/
def cmdWay (k : Cmd) : Nat := spOff (BitVec.ofNat 64 (compWm (compWord k)))
/-- The last decrements of a command are applied: with the last one, all of them have been (R113). -/
def wayLast (s : State) (cid : Nat) (k : Cmd) (n : Nat) : State :=
  let s := wayDecs s cid (cmdWay k) (n - 1)
  wayDecs (modCmd s cid k.seq fun q => { q with swept := true }) cid (cmdWay k) 1
/-- A sector is done: the command goes on, and applies `n` decrements to its waymark (R104, R223), which take effect when it
retires, and not before (R108; log entry 19). -/
def sectorDone (s : State) (cid : Nat) (k : Cmd) (n : Nat) (err : Bool) : State :=
  let s := modCmd (begin_ s cid k) cid k.seq fun q => { q with next := k.next + 1, err := q.err || err, stage := 0 }
  if compKind k.ins % 2 = 1 then
    modCmd (if err then wayErr s cid (cmdWay k) else s) cid k.seq fun q => { q with owed := q.owed + n }
  else s
/-- The writes of a sector were made: it is done, unless they went to another package and are still to be answered. -/
def sectorMade (s : State) (cid : Nat) (k : Cmd) : State :=
  if remoteOut s (.cmd cid k.seq 4) then modCmd (begin_ s cid k) cid k.seq fun q => { q with stage := 1 }
  else sectorDone s cid k 1 false
/-- Write into a scratchpad for a copy. -/
def copyPut (s : State) (t off : Nat) (bs : List Byte) : State :=
  modCore s t fun c => { c with scratch := mwrite c.scratch off bs }
/-- A sector would write a code ring's words at a target (R44). -/
def copyHit (s : State) (ts : List Nat) (d : Word) (l : List (Nat × List Byte)) : Bool :=
  ts.any fun t => l.any fun p => codeHit s t (spOff d + p.1) p.2.length
/-- The leaf of a present page, whatever its rights: held in the TLB, or as a walk finds it (R332). -/
def presentLeaf (s : State) (cid ctx : Nat) (va : Word) : Option (BitVec 64) :=
  match (tlbGet s cid).find? fun e => tlbCovers e ctx (fld va 55 14) with
  | some e => some e.leaf
  | none => match walk s (tlbReaches s cid) (rootOf s (dieOf cid) ctx) va with
    | .ok leaf => if (leafForm s leaf).isNone then some leaf else none
    | .error _ => none
/-- A page of a MIG is done at a tick (R332, R360): a late one adds 1 to SLIP, which saturates. -/
def pageArrives (s : State) (cid : Nat) (deadline tick : BitVec 48) : State :=
  if deadline < tick then
    match gangKey s cid with
    | some g => modGang s g fun x => { x with slip := if x.slip = BitVec.allOnes 32 then x.slip else x.slip + 1 }
    | none => s
  else s
/-- The bytes of a TLD's next sector, after the translations that come before it. -/
def tldRead (s : State) (cid g : Nat) (k : Cmd) : Except PartFault (List (Nat × List Byte)) × State :=
  let b := boxOf k
  let s := modCmd (tldWalk s cid b k.next k.walked) cid k.seq fun q => { q with walked := Nat.max k.walked (sectorTop b k.next) }
  match sectorFault s cid b k.next with
  | (some e, s) => (.error e, s)
  | (none, s) => tldSector s cid g b k.next
/-- The pages of 16 KiB of a CPY between two VAs, from page `lo` to page `hi`, ascending: for each the first addresses of the
copy in it, and the rights they need (R360). -/
def cpyPages (a d n lo hi : Nat) : AMap (List (Nat × Right)) :=
  let add (t : AMap (List (Nat × Right))) (w : Nat) (r : Right) : AMap (List (Nat × Right)) :=
    (List.range (ceilDiv (w + n) 16384 - w / 16384)).foldl (fun t i =>
      let p := w / 16384 + i
      if decide (lo ≤ p) && decide (p ≤ hi) then aput t p (((aget t p).getD []) ++ [(Nat.max w (p * 16384), r)]) else t) t
  add (add [] a .rd) d .wr
/-- Before a sector of a CPY between two VAs the pages of both ranges up to the sector's highest one are translated, in ascending
VA order, each once (R360; log entry 52). A page that faults stops the copy at the first sector that lies in it: of the two
pages of one sector the lower one faults first, and the answer is that fault of this sector. -/
def cpyWalk (s : State) (cid : Nat) (k : Cmd) : Option (BitVec 8 × Word) × State :=
  let o := 32 * k.next
  let a := (k.ops.getD 1 0).toNat
  let d := (k.ops.getD 0 0).toNat
  if !(cpyVa k false && cpyVa k true) then (none, s)
  else
    let hi := (Nat.max a d + o) / 16384
    let s := (cpyPages a d (k.ops.getD 2 0).toNat k.walked hi).foldl (fun s p =>
      p.2.foldl (fun s q => (access s cid (ctxOf s cid) (BitVec.ofNat 64 q.1) q.2).2) s) s
    let s := modCmd s cid k.seq fun q => { q with walked := hi + 1 }
    if a ≤ d then (none, s)
    else match access s cid (ctxOf s cid) (BitVec.ofNat 64 (d + o)) .wr with
      | (.error e, s) => (some e, s)
      | (.ok _, s) => (none, s)
/-- Perform a command's next sector (R222 to R228, R243, R244). -/
def copySector (s : State) (cid : Nat) (k : Cmd) : State :=
  let g := agentOf cid k.seq
  let d := k.ops.getD 0 0
  let a := k.ops.getD 1 0
  let fail (s : State) (e : PartFault) : State := engineFail s cid k.seq 4 e.1 e.2.1 e.2.2
  let t := if isTldm k.ins then cid else (spTarget cid d).1
  let lost := lostNow s cid k
  let dead := !lost.isEmpty
  let s := if dead then modCmd s cid k.seq fun q => { q with lost := lost } else s
  match k.ins with
  | .cpy .. =>
    let o := 32 * k.next
    let got (s : State) : Except (BitVec 8 × Word) (List Byte) × State :=
      if cpyVa k false then cmdRead s cid g (a.toNat + o) 32
      else (.ok (mread (coreAt s (spTarget cid a).1).scratch (spOff a + o) 32), s)
    if dead then sectorDone s cid k 1 true
    else match cpyWalk s cid k with
    | (some (c, va), s) => fail s (c, va, 0xFFFF)
    | (none, s) => match got s with
      | (.error (c, va), s) => fail s (c, va, 0xFFFF)
      | (.ok bs, s) =>
        if cpyVa k true then
          match cmdWrite s cid g (d.toNat + o) [(0, bs)] with
          | (.error (c, va), s) => fail s (c, va, 0xFFFF)
          | (.ok _, s) => sectorMade s cid k
        else if copyHit s [t] d [(o, bs)] then fail s (0x10, d + BitVec.ofNat 64 o, 0xFFFF)
        else sectorDone (copyPut s t (spOff d + o) bs) cid k 1 false
  | .tld .. =>
    if dead then sectorDone s cid k 1 true
    else match tldRead s cid g k with
      | (.error e, s) => fail s e
      | (.ok l, s) =>
      if copyHit s [t] d l then fail s (0x10, d, 0xFFFF)
      else sectorDone (l.foldl (fun s p => copyPut s t (spOff d + p.1) p.2) s) cid k 1 false
  | .tldm .. =>
    match tldRead s cid g k with
    | (.error e, s) => fail s e
    | (.ok l, s) =>
      let ts := (tldmRanks cid).filter fun t => !lost.contains t
      if copyHit s ts d l then fail s (0x10, d, 0xFFFF)
      else sectorDone (ts.foldl (fun s t => l.foldl (fun s p => copyPut s t (spOff d + p.1) p.2) s) s) cid k 4 dead
  | .tst .. =>
    let b := boxOf k
    let sec := (boxUnits b 32 true).getD k.next 0 * 32
    if dead then sectorDone s cid k 1 true
    else match cmdWrite s cid g sec (tstRuns s t (spOff d) b sec) with
      | (.error (c, va), s) => fail s (c, va, 0xFFFF)
      | (.ok _, s) => sectorMade s cid k
  | .pft .. =>
    let va := (boxUnits (boxOf k) 128 false).getD k.next 0 * 128
    match access s cid (ctxOf s cid) (BitVec.ofNat 64 va) .rd with
    | (.ok x, s) => sectorDone (if isRepl x.via.leaf x.pa then (replLine s cid x).2 else s) cid k 1 false
    | (.error _, s) => sectorDone s cid k 1 false
  | .mig .. =>
    let va : Word := a + BitVec.ofNat 64 (k.next * (k.image.map fun b => b.toNat).foldl (fun n b => n * 256 + b) 0)
    let target := fld (k.ops.getD 3 0) 2 0
    let here := match presentLeaf s cid (ctxOf s cid) va with
      | some leaf => frameDie s (leafPa leaf va) == some target
      | none => false
    let s := if here then pageArrives s cid ((k.ops.getD 4 0).setWidth 48) (((gangOfCore s cid).map fun x => x.tick).getD 0)
      else
        let r : MigReq :=
          { va := va, ctx := ctxOf s cid, target := target, deadline := (k.ops.getD 4 0).setWidth 48, core := cid, seq := k.seq }
        eventAll (modDie s (dieOf cid) fun x => { x with mig := x.mig ++ [r] }) 4
    sectorDone s cid k 0 false
  | _ => s
/-- PORTER_SECTOR: before the first sector every peer must be live (R244). A sector homed in another package is performed when
its writes are answered (R223). -/
def porterSector (s : State) (cid : Nat) (seq : BitVec 32) : State :=
  match cmdAt s cid seq with
  | none => s
  | some k =>
    if k.engine ≠ 4 || !cmdReady s cid k || decide (sectorCount k ≤ k.next) then s
    else if k.stage ≠ 0 then (if remoteOut s (.cmd cid seq 4) then s else sectorDone s cid k 1 false)
    else match (if k.start then none else (peersOf cid k).find? fun p => !peerLive s cid p.2) with
      | some p => engineFail s cid seq 4 0x40 p.1 0xFFFF
      | none => copySector s cid k
def execPorterSector (cid : Nat) (seq : BitVec 32) (s : State) : Out := .next (porterSector s cid seq)
/-- The pages of a MIG that still wait for the Steward (R332). -/
def migWaits (s : State) (cid : Nat) (seq : BitVec 32) : Bool :=
  (dieAt s (dieOf cid)).mig.any fun r => r.core == cid && r.seq == seq
/-- A copy retires (R108, R223, R243): a release by the Porter at CLUSTER, the decrements that waited for it, then the
increments, each of which takes place whatever another one does. -/
def retireCopy (s : State) (cid : Nat) (k : Cmd) : State :=
  let sem := compSem (compWord k)
  let inc := compInc (compWord k)
  let targets := if compKind k.ins / 2 = 0 then []
    else if isTldm k.ins then (tldmRanks cid).filter fun t => !peerLost s cid k t && !k.lost.contains t
    else [cid]
  if k.next < sectorCount k || migWaits s cid k.seq then s
  else if targets.any fun t => incHeld s cid t sem inc then heldByQueue s cid
  else
    let s := if k.owed = 0 then s else wayLast s cid k k.owed
    targets.foldl (fun s t => engineInc s cid k.seq 4 t sem inc .cluster (t == cid)) (retireCmd s cid k.seq)

/-! ### Issue -/

def badQuad (b : Reg) : Bool := b.toNat % 4 != 0 || decide (24 < b.toNat)
def wayRange (cid k : Nat) (w : Word) : List Range :=
  if k % 2 = 1 then [⟨cid, spOff (BitVec.ofNat 64 (compWm w)), 16⟩] else []
/-- A scratchpad range of a copy, own or of a peer (R222). -/
def copyCheck (s : State) (cid : Nat) (own : Bool) (a : Word) (n : Nat) (wr : Bool) : Option (BitVec 8) :=
  if own && !bitAt a 23 then some 0x23 else spCheck s cid a n 32 wr
/-- The check of the completion word's waymark (R222). -/
def withWay (s : State) (k : Nat) (w : Word) (f : State → Res) : Res :=
  withCheck s (compCheck s (coreOf s.cur) k w) (BitVec.ofNat 64 (compWm w)) f
/-- The shape of every copy: a context-dependent encoding, three or two source fields, a quad. -/
def copyForm (illegal : Bool) (legal : List Nat) (k : BitVec 2) (srcs : List Src) (d a b : Reg) (tk : Tok)
    (body : State → List Word → Res) (s : State) : Out :=
  issue { illegal := illegal || badQuad b, legal := legal, srcs := srcs ++ [.xs b.toNat 4] } tk
    (fun s =>
      let st := streamAt s s.cur
      let ops := [readX st d.toNat, readX st a.toNat] ++ quadOf st b
      if compOk k.toNat (ops.getD 5 0) then body s ops else .fault s 0x01 0) s
/-- A tensor map (R225, R229): its checks, then the box. DESIGN CHOICE (log entry 111): they come before those of the scratchpad
range, of the waymark and of Plat. -/
def withMap (s : State) (ops : List Word) (f : State → List Byte → Box → Res) : Res :=
  let a := ops.getD 1 0
  let cid := coreOf s.cur
  withCheck s (ownCheck s s.cur a 64 64 false) a fun s =>
  withImage s 4 [⟨cid, spOff a, 64⟩] fun s =>
    let bs := mread (coreAt s cid).scratch (spOff a) 64
    let seats := if (tmapOf bs).rag then (coreAt s cid).seatMap else []
    let b : Box :=
      { m := tmapOf bs, o0 := (ops.getD 2 0).toInt, o1 := (ops.getD 3 0).toInt, o2 := (ops.getD 4 0).toInt,
        seats := seats, supp := [] }
    if !tmapOk bs then .fault s 0x01 0
    else if 2 ^ 56 ≤ b.m.base then .fault s 0x23 (BitVec.ofNat 64 b.m.base)
    else if !boxAligned b then .fault s 0x24 a
    else if !boxInSpace b then .fault s 0x23 (BitVec.ofNat 64 b.m.base)
    else f s (bs ++ seats) b
/-- The Plat check of a map (R229, R392): Stale Layout names the map's address. -/
def withPlat (s : State) (b : Box) (a : Word) (f : State → Res) : Res :=
  if !b.m.chk then f s
  else
    let cid := coreOf s.cur
    match platCheck s (dieOf cid) (ctxOf s cid) b.m.plat b.m.gen with
    | (.ok, s) => f s
    | (.wait, s) => .stall s
    | (.stale, s) => .fault s 0x38 a
def hull (m : TMap) : Nat := (rowCount m - 1) * pitchOf m + rowLen m
def wmOff (k : BitVec 2) (w : Word) : Option Nat :=
  if k.toNat % 2 = 1 then some (spOff (BitVec.ofNat 64 (compWm w))) else none

/-- DESIGN CHOICE (log entry 111): of several checks of R222 that fail, the source's comes first, then the destination's and the
waymark's; a VA range that runs past 2^56 raises Address Form at issue too. -/
def execCpy (tk : Tok) (d a b : Reg) (k : BitVec 2) (s : State) : Out :=
  copyForm false [0, 3] k [.x d.toNat, .x a.toNat] d a b tk (fun s ops =>
    let cid := coreOf s.cur
    let p := ops.getD 1 0
    let q := ops.getD 0 0
    let n := (ops.getD 2 0).toNat
    let w := ops.getD 5 0
    let va (dst : Bool) : Bool := bitAt (ops.getD 3 0) (if dst then 1 else 0)
    let check (x : Word) (v wr : Bool) : Option (BitVec 8) :=
      if v then (if !vaOk x || decide (2 ^ 56 < x.toNat + n) then some 0x23 else if x.toNat % 32 ≠ 0 then some 0x24 else none)
      else copyCheck s cid false x n wr
    if n % 32 ≠ 0 ∨ n = 0 ∨ scratchSize < n ∨ fld (ops.getD 3 0) 63 2 ≠ 0 ∨ ops.getD 4 0 ≠ 0 then .fault s 0x01 0
    else withCheck s (check p (va false) false) p fun s => withCheck s (check q (va true) true) q fun s =>
      withWay s k.toNat w fun s =>
        let rd : List Range := if va false then [] else [⟨(spTarget cid p).1, spOff p, n⟩]
        let wr : List Range := if va true then [] else [⟨(spTarget cid q).1, spOff q, n⟩]
        issueCmd s s.cur (.cpy tk d a b k) ops [] rd (wr ++ wayRange cid k.toNat w) 4 (wmOff k w)) s
def execTld (tk : Tok) (d a b : Reg) (k : BitVec 2) (s : State) : Out :=
  copyForm false [0] k [.x d.toNat, .x a.toNat] d a b tk (fun s ops =>
    let cid := coreOf s.cur
    let q := ops.getD 0 0
    withMap s ops fun s image b' =>
    withCheck s (copyCheck s cid false q (hull b'.m) true) q fun s =>
    withWay s k.toNat (ops.getD 5 0) fun s =>
    withPlat s b' (ops.getD 1 0) fun s =>
      issueCmd s s.cur (.tld tk d a b k) ops image [⟨cid, spOff (ops.getD 1 0), 64⟩]
        (⟨(spTarget cid q).1, spOff q, hull b'.m⟩ :: wayRange cid k.toNat (ops.getD 5 0)) 4 (wmOff k (ops.getD 5 0))) s
def execTst (tk : Tok) (d a b : Reg) (k : BitVec 2) (s : State) : Out :=
  copyForm false [3] k [.x d.toNat, .x a.toNat] d a b tk (fun s ops =>
    let cid := coreOf s.cur
    let q := ops.getD 0 0
    withMap s ops fun s image b' =>
    withCheck s (copyCheck s cid false q (hull b'.m) false) q fun s =>
    withWay s k.toNat (ops.getD 5 0) fun s =>
    withPlat s b' (ops.getD 1 0) fun s =>
      let seq := (coreAt s cid).seq
      andThen (issueCmd s s.cur (.tst tk d a b k) ops image
        [⟨cid, spOff (ops.getD 1 0), 64⟩, ⟨(spTarget cid q).1, spOff q, hull b'.m⟩]
        (wayRange cid k.toNat (ops.getD 5 0)) 4 (wmOff k (ops.getD 5 0))) fun s =>
          modCmd s cid seq fun c => { c with swept := (boxUnits b' 32 true).isEmpty }) s
def execTldm (tk : Tok) (d a b : Reg) (k : BitVec 2) (s : State) : Out :=
  copyForm false [0] k [.x d.toNat, .x a.toNat] d a b tk (fun s ops =>
    let cid := coreOf s.cur
    let q := ops.getD 0 0
    withMap s ops fun s image b' =>
    withCheck s (copyCheck s cid true q (hull b'.m) true) q fun s =>
    withCheck s (if (tldmRanks cid).any fun t => codeHit s t (spOff q) (hull b'.m) then some 0x10 else none) q fun s =>
    withWay s k.toNat (ops.getD 5 0) fun s =>
    withPlat s b' (ops.getD 1 0) fun s =>
      issueCmd s s.cur (.tldm tk d a b k) ops image [⟨cid, spOff (ops.getD 1 0), 64⟩]
        ((tldmRanks cid).map (fun t => ⟨t, spOff q, hull b'.m⟩) ++ wayRange cid k.toNat (ops.getD 5 0)) 4
        (wmOff k (ops.getD 5 0))) s
def execPft (tk : Tok) (a b : Reg) (k : BitVec 2) (s : State) : Out :=
  copyForm (k.toNat % 2 == 1) [0] k [.x a.toNat] 0 a b tk (fun s ops =>
    let cid := coreOf s.cur
    withMap s ops fun s image b' =>
    withPlat s b' (ops.getD 1 0) fun s =>
      issueCmd s s.cur (.pft tk a b k) ops image [⟨cid, spOff (ops.getD 1 0), 64⟩] [] 4 none) s
/-- The page size that the code image gives for the buffer a VA lies in (R483); 16 KiB for a VA in no buffer. -/
def bufPage (s : State) (cid : Nat) (va : Word) : Nat :=
  let frame := ((gangOfCore s cid).map fun x => bfld x.record 8 8).getD 0
  match (coreAt s cid).memBufs.find? fun b => decide (frame + b.off ≤ va.toNat) && decide (va.toNat < frame + b.off + b.size) with
  | some b => b.page
  | none => 16384
/-- MIG (R331). The page size is kept as the command's image. DESIGN CHOICE (log entry 111): pages that run past 2^56 raise Address
Form at issue. -/
def execMig (tk : Tok) (a b : Reg) (k : BitVec 2) (s : State) : Out :=
  copyForm (k.toNat % 2 == 1) [0] k [.x a.toNat] 0 a b tk (fun s ops =>
    let va := ops.getD 1 0
    let page := bufPage s (coreOf s.cur) va
    let n := (ops.getD 2 0).toNat
    if n = 0 ∨ 65535 < n ∨ fld (ops.getD 3 0) 63 3 ≠ 0 ∨ fld (ops.getD 4 0) 63 48 ≠ 0 then .fault s 0x01 0
    else if !vaOk va || decide (2 ^ 56 < va.toNat + n * page) then .fault s 0x23 va
    else if va.toNat % page ≠ 0 then .fault s 0x24 va
    else issueCmd s s.cur (.mig tk a b k) ops (leBytes 8 page).reverse [] [] 4 none) s

end Sys2Proof.Machine
end

