-- ==== Sys2Proof/Machine/Control.lean ====
section
/-! DEFINITION. WAITSEQ, PRED, DRAIN (R116, R230 to R233), CBAR (R245 to R247), GSYNC, SPAWN and JOINW (R333 to
R338), with the rings of the Atlas (R343) that a leg is pushed into. -/
namespace Sys2Proof.Machine

/-! ### Order of commands -/

/-- What WAITSEQ waits for (R231). -/
def seqWaits (c : Core) (n : BitVec 32) : Bool :=
  (n - c.seq).toNat < 2 ^ 31 || (decide ((c.seq - n).toNat ≤ 64) && c.cmds.any fun k => k.seq == n)
def execWaitseq (tk : Tok) (a : Reg) (s : State) : Out :=
  issue { legal := computeStreams, srcs := [.x a.toNat], waits := true } tk
    (fun s =>
      let cid := coreOf s.cur
      let n : BitVec 32 := (readX (streamAt s s.cur) a.toNat).setWidth 32
      if seqWaits (coreAt s cid) n then .stall s
      else .done (acquire (modCore s cid fun c => settle c (kindOf s.cur) [n]) s.cur) {}) s
/-- R232: the opt3 bits say which operands are valid; an operand that is not must be x0. -/
def execPred (tk : Tok) (a b : Reg) (bv av : BitVec 1) (s : State) : Out :=
  issue { legal := computeStreams,
          srcs := (if av = 1 then [.x a.toNat] else []) ++ (if bv = 1 then [.x b.toNat] else []) } tk
    (fun s =>
      let st := streamAt s s.cur
      let one (v : BitVec 1) (r : Reg) : Pred := if v = 1 then [(readX st r.toNat).setWidth 32] else []
      .done (modStream s s.cur fun t => { t with pred := one av a ++ one bv b }) {}) s
/-- Where a copy still has to write: scratchpad, or a VA. -/
def restOf (k : Cmd) : List (Option Word) :=
  let left := sectorCount k - k.next
  let d := k.ops.getD 0 0
  match k.ins with
  | .cpy .. =>
    if cpyVa k true then (List.range left).map fun i => some (d + BitVec.ofNat 64 (32 * (k.next + i)))
    else if left = 0 then [] else [none]
  | .tld .. => if left = 0 then [] else [none]
  | .tldm .. => if left = 0 then [] else [none]
  | .tst .. => ((boxUnits (boxOf k) 32 true).drop k.next).map fun u => some (BitVec.ofNat 64 (u * 32))
  | _ => []
/-- A destination lies on a path (R116). One whose translation is absent may lie on any path of memory. -/
def onPath (s : State) (cid : Nat) (p : Nat) (d : Option Word) : Bool :=
  p == 4 || (match d with
    | none => p == 2
    | some va => p != 2 && (match (translate s cid (ctxOf s cid) va .wr).1 with
      | .error _ => true
      | .ok x => match placeOf (localPa s x.pa) with
        | .hbm d v => if d ≠ dieOf cid then p == 3 else if v = cid % 64 then p == 0 else p == 1
        | .carve d v _ => if d ≠ dieOf cid then p == 3 else if v = cid % 64 then p == 0 else p == 1
        | .fabric .. => p == 3
        | _ => false))
/-- SEQ as it was when the waiting form was reached (R116). -/
def reachedSeq (s : State) (sid : Nat) : BitVec 32 :=
  match (streamAt s sid).phase with
  | .held q _ => q
  | _ => (coreAt s (coreOf sid)).seq
def execDrain (tk : Tok) (p : BitVec 3) (s : State) : Out :=
  issue { illegal := decide (4 < p.toNat), legal := computeStreams, waits := true } tk
    (fun s =>
      let cid := coreOf s.cur
      let q := reachedSeq s s.cur
      if (coreAt s cid).cmds.any fun k =>
          k.engine == 4 && decide (1 ≤ (q - k.seq).toNat ∧ (q - k.seq).toNat ≤ 64) && (restOf k).any (onPath s cid p.toNat)
      then .stall s else .done s {}) s

/-! ### CBAR -/

/-- The cores that meet in a barrier: members of the gang in the core's cluster (R246). -/
def barrierCores (s : State) (cid : Nat) : List Nat :=
  match gangKey s cid, gangOfCore s cid with
  | some g, some x => (membersOf g x).filter fun m => m / 4 == cid / 4
  | _, _ => [cid]
def barrierAt (s : State) (cid n : Nat) : Barrier := vget (coreAt s cid).barriers n { here := none, done := [] }
def putBarrier (s : State) (cid n : Nat) (b : Barrier) : State :=
  modCore s cid fun c => { c with barriers := vset c.barriers n b }
/-- A round that every participant has reached completes. -/
def completeRound (s : State) (cid n : Nat) : State :=
  let ps := barrierCores s cid
  if ps.all fun m => (barrierAt s m n).here.isSome then
    ps.foldl (fun s m =>
      let b := barrierAt s m n
      putBarrier s m n { here := none, done := b.done ++ b.here.toList }) s
  else s
/-- R246: the arrival is a release at CLUSTER and the completion an acquire; an arrival takes no pop. -/
def execCbar (tk : Tok) (n : BitVec 2) (s : State) : Out :=
  issue { legal := computeStreams, waits := true } tk
    (fun s1 =>
      let sid := s1.cur
      let cid := coreOf sid
      let b := barrierAt s1 cid n.toNat
      let single := barrierCores s1 cid == [cid]
      if b.done.contains sid then
        .done (acquire (putBarrier s1 cid n.toNat { b with done := b.done.filter fun q => q != sid }) sid) {}
      else if b.here.isSome || !quiet s1 sid (fixedScope s1 cid 2) then .stall s1
      else if single then .done (acquire s1 sid) {}
      else
        let s2 := completeRound (putBarrier s1 cid n.toNat { b with here := some sid }) cid n.toNat
        .raw (endRegion (undoPops s2 s sid tk) sid)) s
def execGsync (tk : Tok) (a : Reg) (s : State) : Out :=
  issue { legal := computeStreams, srcs := [.x a.toNat], waits := true } tk
    (fun s =>
      let v := readX (streamAt s s.cur) a.toNat
      if fld v 63 48 ≠ 0 then .fault s 0x01 0
      else if v.toNat ≤ ((gangOfCore s (coreOf s.cur)).map Gang.tick |>.getD 0).toNat then .done s {}
      else .stall s) s

/-! ### Rings in memory (R343), and leg queues -/

/-- A ring's registers stand at BASE, CTL (+8), HEAD (+16) and TAIL (+24). The ring is read and written under
key slot 0 (log entry 38). -/
def ringHead (s : State) (r : Nat) : Nat := fld (areg s (r + 16)) 31 0
def ringTail (s : State) (r : Nat) : Nat := fld (areg s (r + 24)) 31 0
def ringEn (s : State) (r : Nat) : Bool := bitAt (areg s (r + 8)) 8 && fld (areg s (r + 8)) 4 0 != 0
/-- Entries of the ring; 0 while LOG2N is 0. -/
def ringCap (s : State) (r : Nat) : Nat := if fld (areg s (r + 8)) 4 0 = 0 then 0 else 2 ^ fld (areg s (r + 8)) 4 0
def ringUsed (s : State) (r : Nat) : Nat := (ringTail s r + 2 ^ 32 - ringHead s r) % 2 ^ 32
def ringRoom (s : State) (r : Nat) : Bool := decide (ringUsed s r < ringCap s r)
/-- The PA of entry `i` of a ring of entries of `n` bytes. -/
def ringPa (s : State) (r n i : Nat) : Nat := (areg s r).toNat + n * (i % Nat.max 1 (ringCap s r))
def ringGet (s : State) (r n i : Nat) : List Byte := paRead s (ringPa s r n i) n 0
/-- The die that a ring's registers stand in; 0 for an I/O die. -/
def ringDie (r : Nat) : Nat := if r < ioBlock 0 then (r - 0x9000000000) / 0x10000000 else 0
/-- Write an entry at the tail and advance it. -/
def ringPush (s : State) (r : Nat) (bs : List Byte) : State :=
  let t := ringTail s r
  setAreg (hwStore s (ringDie r) (ringPa s r bs.length t) bs 0) (r + 24) (BitVec.ofNat 64 ((t + 1) % 2 ^ 32))
/-- Advance the head. -/
def ringPop (s : State) (r : Nat) : State :=
  setAreg s (r + 16) (BitVec.ofNat 64 ((ringHead s r + 1) % 2 ^ 32))
/-- The registers of leg queue q of a die; 8 stands for the caravan queue (R348). -/
def lqRegs (d q : Nat) : Nat := if q = 8 then ioBlock 0 + 0x02000000 else dieBlock d + 0x02000000 + 0x20 * q
def dtickPa (d : Nat) : Nat := dieBlock d + 0x02000100

/-! ### Records (R335, R340, R341) -/

def recShape (bs : List Byte) : Nat := bfld bs 32 8
def recW (bs : List Byte) : Nat := 2 ^ (recShape bs % 8)
def recH (bs : List Byte) : Nat := 2 ^ (nfld (recShape bs) 4 3)
def recMask (bs : List Byte) : Nat := nfld (recShape bs) 15 8
def recPrio (bs : List Byte) : Nat := nfld (recShape bs) 18 16
def recCaravan (bs : List Byte) : Bool := nfld (recShape bs) 20 20 == 1
def recJoin (bs : List Byte) : Nat := bfld bs 16 8
def recLeg (bs : List Byte) : BitVec 32 := BitVec.ofNat 32 (bfld bs 56 4)
/-- The dies of a mask. -/
def maskDies (m : Nat) : List Nat := (List.range 8).filter fun d => m / 2 ^ d % 2 == 1
/-- The rules of R335 and R341. -/
def recordOk (bs : List Byte) : Bool :=
  let w := recShape bs
  w / 2 ^ 21 == 0 && nfld w 7 5 == 0 && w % 8 ≤ 4 && nfld w 4 3 ≤ 2 && recMask bs != 0 && bfld bs 60 4 == 0 &&
    recCaravan bs == decide (1 < (maskDies (recMask bs)).length) && bfld bs 0 8 % 4096 == 0 && bfld bs 48 8 % 4096 == 0 &&
    bfld bs 7 1 == 0
/-- A queue entry (R343). -/
def queueEntry (bs : List Byte) (ctx tick : Nat) : List Byte :=
  bs ++ [BitVec.ofNat 8 ctx] ++ List.replicate 7 0 ++ leBytes 6 tick ++ List.replicate 50 0
/-- The queue a record goes to: a die and a queue number. -/
def recQueue (bs : List Byte) : Nat × Nat :=
  if recCaravan bs then (0, 8) else ((maskDies (recMask bs)).headD 0, recPrio bs)

/-! ### SPAWN and JOINW -/

/-- The add of 1 to a join object homed in another package, a tracked request (R335, R457): it is sent once the form could issue,
and its answer, which may say that the count would overflow there (a free bit; log entry 99), lets the form go on. -/
def joinFar (s : State) (sid : Nat) (x : Xlat) (k : State → Res) : Res :=
  let o : RemoteOwner := .spawn sid (streamAt s sid).pc
  if remoteOut s o then .stall s
  else if workDone (streamAt s sid) then
    let (b, s) := freeVal s 1
    if b = 1 then .fault s 0x12 0 else k s
  else match sendRemote s (srcGlobal s sid) x.pa [] o with
    | some s => .stall (begun s sid)
    | none => .stall s
/-- The atomic add of 1 to a join object's count at its home (R335): the checks of an atomic, then the effect. -/
def joinAdd (s : State) (sid : Nat) (va : Word) (k : State → Res) : Res :=
  if va = 0 then k s
  else if !vaOk va then .fault s 0x23 va
  else if va.toNat % 16 ≠ 0 then .fault s 0x24 va
  else match access s (tlbId sid) (xctx s sid) va .wr with
    | (.error (c, v), s) => .fault s c v
    | (.ok x, s) =>
      match placeOf x.pa with
      | .host .. => .fault s 0x21 va
      | _ =>
        if isFabric s x.pa then joinFar s sid x k
        else
        let n := leNat (paRead s x.pa 4 (leafKey x.via.leaf))
        if 2 ^ 32 ≤ n + 1 then .fault s 0x12 0
        else k (l1Drop (paWrite s x.pa (leBytes 4 (n + 1)) (leafKey x.via.leaf)) (coreOf sid) (localPa s x.pa))
/-- SPAWN (R335): it is held until the queue has room and, as R207 has it, its tokens are there; the release, the add and the
push are made only then, and raise their faults then: Peer Gone of a queue in a window whose link is not trained (R462), then
those of the add. -/
def execSpawn (tk : Tok) (a : Reg) (s : State) : Out :=
  let ready := tokensReady s s.cur tk
  issue { legal := computeStreams, srcs := [.x a.toNat], waits := true } tk
    (fun s =>
      let sid := s.cur
      let p := readX (streamAt s sid) a.toNat
      withCheck s (ownCheck s sid p 64 64 false) p fun s => withAcq s fun s =>
        let bs := ownRead s sid (spOff p) 64
        if !recordOk bs then .fault s 0x01 0
        else
          let r := lqRegs (recQueue bs).1 (recQueue bs).2
          if !ringRoom s r || !ready then .stall s
          else withQuiet s sid (fixedScope s (coreOf sid) 5) fun s =>
            let pa := ringPa s r 128 (ringTail s r)
            if !hostUp s pa then .fault s 0x40 (BitVec.ofNat 64 pa)
            else joinAdd s sid (BitVec.ofNat 64 (recJoin bs)) fun s =>
            let tick := fld (areg s (dtickPa (recQueue bs).1)) 47 0
            .done (ringPush s r (queueEntry bs (ctxOf s (coreOf sid)) tick)) {}) s
def execJoinw (tk : Tok) (d a : Reg) (s : State) : Out :=
  issue { legal := computeStreams, srcs := [.x a.toNat], dsts := locX d, waits := true } tk
    (fun s =>
      let sid := s.cur
      withVa s sid (readX (streamAt s sid) a.toNat) 16 .rd fun s x =>
        let bs := paRead s x.pa 8 (leafKey x.via.leaf)
        let s := { s with freeCtr := s.freeCtr + 1 }
        if bfld bs 0 4 ≠ 0 then .stall s
        else landX (acquire s sid) sid false d.toNat (BitVec.ofNat 64 (if bfld bs 5 1 % 2 = 1 then bfld bs 4 1 else 0)) 1) s

end Sys2Proof.Machine
end

