-- ==== Sys2Proof/Machine/Circuit.lean ====
section
/-! DEFINITION. Circuits (R254 to R256, R327 to R330) and the bank units (R269 to R271, R324 to R326). -/
namespace Sys2Proof.Machine

/-! ### Circuits -/

/-- The entry of a core's send table in force (R254). -/
def sendEntry (s : State) (cid slot : Nat) : BitVec 8 :=
  (aget (dieAt s (dieOf cid)).send (256 * (cid % 64) + slot)).getD 0
def sendsTo (s : State) (cid slot q : Nat) : Bool :=
  bitAt (sendEntry s cid slot) 7 && fld (sendEntry s cid slot) 5 0 == q
/-- Some slot of the core's table names q (R256). -/
def slotAssigned (s : State) (cid q : Nat) : Bool := (List.range 256).any fun t => sendsTo s cid t q
/-- A core id names a member of the issuing gang (R328). -/
def gangMember (s : State) (cid q : Nat) : Bool :=
  match gangKey s cid, gangOfCore s cid with
  | some g, some x => (membersOf g x).contains (64 * dieOf cid + q)
  | _, _ => false
def creditOf (s : State) (cid q : Nat) : Nat := (aget (coreAt s cid).credits q).getD 4
def fifoOf (s : State) (cid p : Nat) : List Word := (aget (coreAt s cid).fifos p).getD []
/-- The first slot at or after the present one that names q (R256). -/
def nextSlot (s : State) (cid q : Nat) : Nat :=
  let t := (dieAt s (dieOf cid)).slotCtr.toNat
  (((List.range 256).map fun i => (t + i) % 256).find? fun u => sendsTo s cid u q).getD t
/-- The slot a CSND waits for: the one it waits for already, while that still names q (R255), or the first to come. -/
def csndSlotOf (s : State) (cid q : Nat) : Nat :=
  match (coreAt s cid).csndSlot with
  | some t => if sendsTo s cid t q then t else nextSlot s cid q
  | none => nextSlot s cid q
def csndNow (s : State) (cid q : Nat) : Bool :=
  csndSlotOf s cid q == (dieAt s (dieOf cid)).slotCtr.toNat
/-- A CSND that waits keeps its slot; one whose slot passes without a credit waits for the next slot that comes (R329). -/
def waitSlot (s : State) (cid q : Nat) : State :=
  let t := csndSlotOf s cid q
  modCore s cid fun c => { c with
    csndSlot := if t = (dieAt s (dieOf cid)).slotCtr.toNat then none else some t }
def execCsnd (tk : Tok) (a b : Reg) (s : State) : Out :=
  issue { legal := [3], srcs := [.x a.toNat, .x b.toNat], waits := true } tk
    (fun s =>
      let cid := coreOf s.cur
      let q := (readX (streamAt s s.cur) a.toNat).toNat
      let v := readX (streamAt s s.cur) b.toNat
      if 63 < q then .fault s 0x23 (BitVec.ofNat 64 q)
      else if !slotAssigned s cid q then .fault s 0x41 0
      else if !gangMember s cid q then .fault s 0x40 (BitVec.ofNat 64 q)
      else if creditOf s cid q = 0 || !csndNow s cid q then .stall (waitSlot s cid q)
      else
        let s := modCore s cid fun c => { c with credits := aput c.credits q (creditOf s cid q - 1), csndSlot := none }
        .done (modDie s (dieOf cid) fun x => { x with circuits := x.circuits ++ [(cid % 64, q, v)] }) {}) s
/-- The oldest CRCV of core `cid` from source `p` takes the oldest value, and a credit goes back (R330). -/
def serveCrcv (s : State) (cid p : Nat) : State :=
  let mine (r : Req) : Bool := coreOf r.sid == cid && !isSW r.sid && r.op == .crcv p
  match s.requests.find? mine, fifoOf s cid p with
  | some r, v :: rest =>
    let s := modCore s cid fun c => { c with fifos := aput c.fifos p rest }
    let s := modDie s (dieOf cid) fun x => { x with returns := x.returns ++ [(p, cid % 64)] }
    let d := match ((streamAt s r.sid).outst.find? fun o => some o.id == r.outst) with
      | some o => o.regs
      | none => []
    dropReq (deliver s r.sid (r.outst.getD 0) (d.map fun l => { loc := l, val := v.setWidth 2048, mask := fullMask })) r.id
  | _, _ => s
def execCrcv (tk : Tok) (d a : Reg) (s : State) : Out :=
  issue { legal := [0], srcs := [.x a.toNat], dsts := locX d, var := true } tk
    (fun s =>
      let cid := coreOf s.cur
      let p := (readX (streamAt s s.cur) a.toNat).toNat
      if 63 < p then .fault s 0x23 (BitVec.ofNat 64 p)
      else if !gangMember s cid p then .fault s 0x40 (BitVec.ofNat 64 p)
      else andThen (sendLoad s s.cur (locX d) (mkReq s s.cur (.crcv p))) fun s => serveCrcv s cid p) s
/-- A circuit's value arrives (R329): values of one pair of cores arrive in send order. -/
def circuitArrival (s : State) (d i : Nat) : State :=
  let cs := (dieAt s d).circuits
  match cs[i]? with
  | none => s
  | some (p, q, v) =>
    if (cs.take i).any fun c => c.1 == p && c.2.1 == q then s
    else
      let s := modDie s d fun x => { x with circuits := x.circuits.eraseIdx i }
      let s := modCore s (64 * d + q) fun c => { c with fifos := aput c.fifos p ((aget c.fifos p).getD [] ++ [v]) }
      serveCrcv s (64 * d + q) p
def execCircuitArrival (die i : Nat) (s : State) : Out := .next (circuitArrival s die i)
/-- A credit comes back to its sender (R330). -/
def creditReturn (s : State) (d i : Nat) : State :=
  match (dieAt s d).returns[i]? with
  | none => s
  | some (p, q) =>
    let s := modDie s d fun x => { x with returns := x.returns.eraseIdx i }
    modCore s (64 * d + p) fun c => { c with credits := aput c.credits q (Nat.min 4 ((aget c.credits q).getD 4 + 1)) }
def execCreditReturn (die i : Nat) (s : State) : Out := .next (creditReturn s die i)
/-- A slot passes: a `CSND` that waited for it waits for the first one to come (R207, R256). -/
def passSlot (s : State) (d : Nat) : State :=
  let t := (dieAt s d).slotCtr.toNat
  { s with cores := s.cores.map fun c => (c.1, if dieOf c.1 = d ∧ c.2.csndSlot = some t then { c.2 with csndSlot := none } else c.2) }
/-- The slot counter advances (R254). -/
def execSlotCounterAdvance (die : Nat) (s : State) : Out :=
  .next (if die < 8 then modDie (passSlot s die) die fun x => { x with slotCtr := x.slotCtr + 1 } else s)

/-- Bus and chain segments that a circuit from p to q crosses, each with the cycle (R251 to R253, R255): along
the strip of p to the column of q, then along that column. -/
def routeSegs (p q t : Nat) : List (Nat × Nat) :=
  let x := p % 16
  let a := 2 * (p / 16) + 1
  let y := q % 16
  let b := 2 * (q / 16) + 1
  let dx := if x ≤ y then y - x else x - y
  let da := if a ≤ b then b - a else a - b
  let bus := (List.range dx).map fun i =>
    let lo := if x ≤ y then x + i else x - i - 1
    (1000 * a + (if x ≤ y then 0 else 500) + lo, (t + i) % 256)
  let chain := (List.range da).map fun i =>
    let lo := if a ≤ b then a + i else a - i - 1
    (100000 + 1000 * y + (if a ≤ b then 0 else 500) + lo, (t + dx + i) % 256)
  bus ++ chain

/-! ### Bank units -/

def bankFmts : List Nat := [0x09, 0x0C, 0x11, 0x12, 0x18, 0x19, 0x1A]
/-- A configuration that BCFG takes (R324). -/
def bankCfgOk (v : Word) : Bool :=
  fld v 63 32 == 0 && fld v 15 11 == 0 && fld v 7 5 == 0 && bankFmts.contains (fld v 4 0)
def execBcfg (tk : Tok) (a b : Reg) (s : State) : Out :=
  issue { legal := [3], srcs := [.x a.toNat, .x b.toNat] } tk
    (fun s =>
      let v := readX (streamAt s s.cur) a.toNat
      let w := readX (streamAt s s.cur) b.toNat
      if !bankCfgOk v then .fault s 0x01 0
      else if !vaOk w then .fault s 0x23 w
      else .done (modCore s (coreOf s.cur) fun c => { c with bankCfg := v, bankScale := w }) {}) s
/-- The seats, rows and columns of a bank command; ops are the quad, the configuration and the scale VA. -/
def bankSeats (k : List Word) : Nat := fld (k.getD 4 0) 10 8 + 1
def bankR (k : List Word) : Nat := fld (k.getD 1 0) 19 0 + 1
def bankC (k : List Word) : Nat := fld (k.getD 1 0) 35 20 + 1
def bankXs (c : Nat) : Nat := ceilDiv (2 * c) 16 * 16
/-- A command of the bank unit (R325). DESIGN CHOICE (log entry 119): R325 gives no fault for a W VA that is no multiple of 4,096, nor
for a bit of x(b+1)[63:36]: they raise Misaligned and Illegal Encoding. -/
def bankForm (i : Instr) (acc : Bool) (tk : Tok) (b : Reg) (s : State) : Out :=
  issue { illegal := badQuad b, legal := [3], srcs := [.xs b.toNat 4] } tk
    (fun s =>
      let c := coreAt s (coreOf s.cur)
      let ops := quadOf (streamAt s s.cur) b ++ [c.bankCfg, c.bankScale]
      let w := ops.getD 0 0
      let x := ops.getD 2 0
      let y := ops.getD 3 0
      let nx := bankSeats ops * bankXs (bankC ops)
      let ny := bankSeats ops * bankR ops * 4
      if !bankFmts.contains (fld c.bankCfg 4 0) ∨ fld (ops.getD 1 0) 63 36 ≠ 0 then .fault s 0x01 0
      else if !vaOk w then .fault s 0x23 w
      else if w.toNat % 4096 ≠ 0 then .fault s 0x24 w
      else withRegions s [(x, nx, 16, false), (y, ny, 16, true)] fun s =>
        issueCmd s s.cur i ops [] (rangeOf s x nx :: (if acc then [rangeOf s y ny] else [])) [rangeOf s y ny] 6 none) s
def execBgemv (tk : Tok) (b : Reg) (s : State) : Out := bankForm (.bgemv tk b) false tk b s
def execBgemva (tk : Tok) (b : Reg) (s : State) : Out := bankForm (.bgemva tk b) true tk b s
/-- A sector as the DRAM gives it to a bank unit (R271, R326): for a sector whose newer copy a slice holds, the
old contents or, where the slice has written it back by itself, the new ones (a free bit). -/
def bankSector (s : State) (pa : Nat) (key : BitVec 512) : List Byte × State :=
  let sec := pa / 32
  let el := ((elemLine s (pa / 128 * 128)).drop (pa % 128)).take 32
  match aget s.dram sec with
  | none => (rekey (keyTag s sec) key sec el, s)
  | some old =>
    let (b, s) := freeVal s 1
    if b = 0 then (rekey (BitVec.ofNat 512 (leNat (old.drop 32))) key sec (old.take 32), s)
    else (rekey (keyTag s sec) key sec el, s)
/-- Bytes of HBM for a bank unit, sector by sector. -/
def bankBytes (s : State) (pa n : Nat) (leaf : BitVec 64) : List Byte × State :=
  let lo := pa / 32 * 32
  let (bs, s) := (List.range (ceilDiv (pa + n - lo) 32)).foldl (fun (a : List Byte × State) i =>
    let (v, s) := match frameDie a.2 (lo + 32 * i) with
      | some d => bankSector a.2 (localPa a.2 (lo + 32 * i)) (slotKey a.2 d (leafKey leaf))
      | none => (paRead a.2 (lo + 32 * i) 32 (leafKey leaf), { a.2 with freeCtr := a.2.freeCtr + 1 })
    (a.1 ++ v, s)) ([], s)
  ((bs.drop (pa - lo)).take n, s)
/-- The bank unit of an address went offline (R367; log entry 87). -/
def bankOff (s : State) (pa : Nat) : Bool :=
  match placeOf (localPa s pa) with
  | .hbm d v => (dieAt s d).offBanks.contains v
  | _ => false
/-- A run of bytes by VA for a bank unit, unit by unit; `bank` asks for layout BANK (R326). -/
def bankRead (s : State) (cid va n : Nat) (bank : Bool) : Except (BitVec 8 × Word) (List Byte) × State :=
  let units := (List.range ((va % 4096 + n + 4095) / 4096)).map fun i =>
    let lo := Nat.max va (va / 4096 * 4096 + 4096 * i)
    (lo, Nat.min (va + n) (va / 4096 * 4096 + 4096 * (i + 1)) - lo)
  units.foldl (fun (acc : Except (BitVec 8 × Word) (List Byte) × State) p =>
    match acc with
    | (.error e, s) => (.error e, s)
    | (.ok bs, s) =>
      match access s cid (ctxOf s cid) (BitVec.ofNat 64 p.1) .rd with
      | (.error e, s) => (.error e, s)
      | (.ok x, s) =>
        if bank && (fld x.via.leaf 9 8 != 2 || bankOff s x.pa) then (.error (0x22, BitVec.ofNat 64 p.1), s)
        else if !homeReached s cid x then (.error (0xF0, BitVec.ofNat 64 x.pa), s)
        else
          let (v, s) := bankBytes s x.pa p.2 x.via.leaf
          (.ok (bs ++ v), s)) (.ok [], s)
/-- Bytes of a row of W, whole 4 KiB units (R270). -/
def bankRow (ops : List Word) : Nat := ceilDiv (bankC ops * elemBits (fld (ops.getD 4 0) 4 0)) 32768 * 4096
/-- y(s, i) of a bank command (R325). -/
def bankCell (d : BitVec 16) (g : TCfg) (init : Option Nat) (w x sc : List Byte) : Nat :=
  let a := Acc.zero
  let a := match init with
    | some v => accAdd d a (fltVal fFP32 v)
    | none => a
  let a := (lineTerms g w x sc [] 0 0).foldl (accAdd d) a
  (readOut (.flt fFP32) 0 a.s (accBase a.val.toInt a.n a.ip a.im a.z d.toInt)).1
/-- The rows of W of a bank command with their scales, read in order: the first fault, or all of them. -/
def bankRows (s : State) (cid : Nat) (ops : List Word) : Except (BitVec 8 × Word) (List (List Byte × List Byte)) × State :=
  let fmt := fld (ops.getD 4 0) 4 0
  let c := bankC ops
  (List.range (bankR ops)).foldl (fun (a : Except (BitVec 8 × Word) (List (List Byte × List Byte)) × State) i =>
    match a with
    | (.error e, s) => (.error e, s)
    | (.ok l, s) =>
      match bankRead s cid ((ops.getD 0 0).toNat + i * bankRow ops) (bankRow ops) true with
      | (.error e, s) => (.error e, s)
      | (.ok w, s) =>
        if isBlock fmt then
          match bankRead s cid ((ops.getD 5 0).toNat + i * scaleLine fmt c) (scaleLine fmt c) false with
          | (.error e, s) => (.error e, s)
          | (.ok sc, s) => (.ok (l ++ [(w, sc)]), s)
        else (.ok (l ++ [(w, [])]), s)) (.ok [], s)
/-- A bank command retires (R325, R326): every row of W is read, and y is written in one step. -/
def retireBank (s : State) (cid : Nat) (k : Cmd) (acc : Bool) : State :=
  let fmt := fld (k.ops.getD 4 0) 4 0
  let c := bankC k.ops
  let g : TCfg := { rowBase := 0, k := c, n := 1, m := 1, rnd := 0, pa := sigWidth fmt, a := fmt, b := 0x0C }
  let d : BitVec 16 := BitVec.ofNat 16 (fld (k.ops.getD 4 0) 31 16)
  let x := spOff (k.ops.getD 2 0)
  let y := spOff (k.ops.getD 3 0)
  let r := bankR k.ops
  let m := (coreAt s cid).scratch
  match bankRows s cid k.ops with
  | (.error e, s) => engineFail s cid k.seq 6 e.1 e.2 0xFFFF
  | (.ok rs, s) =>
    let out := (List.range (bankSeats k.ops)).flatMap fun q =>
      let xv := mread m (x + q * bankXs c) (2 * c)
      (List.range r).flatMap fun i =>
        let row := rs.getD i ([], [])
        leBytes 4 (bankCell d g (if acc then some (mnat m (y + (q * r + i) * 4) 4) else none) row.1 xv row.2)
    retireCmd (modCore s cid fun c => { c with scratch := mwrite c.scratch y out }) cid k.seq

end Sys2Proof.Machine
end

