-- ==== Sys2Proof/Machine/Package.lean ====
section
/-! DEFINITION. The Plat (R382 to R387), REPLAT (R388 to R392), the Bounds engine (R393 to R397) and multicast (R398,
R399): the PKG forms and their events. -/
namespace Sys2Proof.Machine

/-! ### Plat entries (R382 to R384) -/

def platTensor (e : BitVec 512) : Nat := fld e 31 0
def platFmt (e : BitVec 512) : Nat := fld e 46 42
def platMode (e : BitVec 512) : Nat := fld e 41 40
def platHalo (e : BitVec 512) : Nat := fld e 51 48
def platSlot (e : BitVec 512) : Nat := fld e 59 56
def platMask (e : BitVec 512) : Nat := fld e 71 64
def platD (e : BitVec 512) (i : Nat) : Nat := fld e (143 + 16 * i) (128 + 16 * i)
def platE (e : BitVec 512) (i : Nat) : Nat := fld e (223 + 16 * i) (208 + 16 * i)
def platBase (e : BitVec 512) : Nat := fld e 383 320
def platStride (e : BitVec 512) : Nat := fld e 447 384
def setGen (e : BitVec 512) (g : Nat) : BitVec 512 := setFld e 39 32 g
/-- Block extents of dimension i (R383). -/
def blockExt (e : BitVec 512) (i : Nat) : Nat :=
  match platMode e with
  | 0 => if 2 ≤ i then platE e i + 2 * platHalo e else platE e i
  | 3 => if 3 ≤ i then 1 else platE e i
  | _ => platE e i
def blockBytes (e : BitVec 512) : Nat :=
  ceilDiv (((List.range 5).map (blockExt e)).foldl (· * ·) 1 * elemBits (platFmt e)) 8
/-- The rules of R384. DESIGN CHOICE (log entry 96): R382 gives D0 to D4 the range 1 to 65,535 and R384 does not list it; an
image with VALID = 1 and a dimension of 0 is taken to break the rules. -/
def platOk (e : BitVec 512) : Bool :=
  !platValid e ||
    (let c := (maskDies (platMask e)).length
    let same (i : Nat) : Bool := platE e i == platD e i
    let zero := fld e 55 52 == 0 && fld e 63 60 == 0 && fld e 127 72 == 0 && fld e 319 288 == 0 && fld e 383 376 == 0 &&
      fld e 511 448 == 0
    let dims := (List.range 5).all fun i => platD e i != 0
    let modeOk := match platMode e with
      | 0 => platMask e == 0xFF && same 0 && same 1 && 2 * platE e 2 == platD e 2 && 2 * platE e 3 == platD e 3 &&
          2 * platE e 4 == platD e 4
      | 1 => platE e 1 * c == platD e 1 && same 0 && same 2 && same 3 && same 4
      | 2 => (List.range 5).all same
      | _ =>
        let t := platD e 2 * platD e 3 * platD e 4
        decide (platE e 2 * (c - 1) < t) && decide (t ≤ platE e 2 * c) && same 0 && same 1 && platE e 3 == 1 && platE e 4 == 1
    platMask e != 0 && decide (platFmt e < 0x11) && platD e 0 * elemBits (platFmt e) % 8 == 0 &&
      decide (blockBytes e ≤ platStride e) && (platMode e == 0 || platHalo e == 0) && zero && dims && modeOk)
def platBytes (e : BitVec 512) : List Byte := leBytes 64 e.toNat
def own64 (s : State) (p : Word) : List Range := [rangeOf s p 64]
def execPlatr (tk : Tok) (d a b : Reg) (s : State) : Out :=
  issue { legal := [0], srcs := [.x a.toNat, .x b.toNat], dsts := locX d } tk
    (fun s =>
      let sid := s.cur
      let cid := coreOf sid
      let i := (readX (streamAt s sid) a.toNat).toNat
      let p := readX (streamAt s sid) b.toNat
      if 16 ≤ i then .fault s 0x01 0
      else withCheck s (ownCheck s sid p 64 64 true) p fun s => withSync s sid [] (own64 s p) fun s =>
        let (e, s) := platEntry s (dieOf cid) (ctxOf s cid) i
        landX (ownWrite s sid (spOff p) (platBytes e)) sid false d.toNat (e.setWidth 64) 1) s
/-- R387: the new version is written, and the stream holds until every die's copy holds it. -/
def execPlatw (tk : Tok) (d a b : Reg) (s : State) : Out :=
  issue { legal := [3], srcs := [.x a.toNat, .x b.toNat], dsts := locX d } tk
    (fun s =>
      let sid := s.cur
      let ctx := ctxOf s (coreOf sid)
      let i := (readX (streamAt s sid) a.toNat).toNat
      let p := readX (streamAt s sid) b.toNat
      if 16 ≤ i then .fault s 0x01 0
      else withCheck s (ownCheck s sid p 64 64 false) p fun s => withSync s sid (own64 s p) [] fun s =>
        let e : BitVec 512 := BitVec.ofNat 512 (leNat (ownRead s sid (spOff p) 64))
        if !platOk e then .fault s 0x01 0
        else if replatNames s ctx i then .stall s
        else
          let old := platMem s ctx i
          let new := setGen e (platGen old + 1)
          let (id, s) := fresh s
          let u : PlatUpd := { id := id, key := platKey ctx i, old := old, dies := List.range 8 }
          let s := { s with plats := aput s.plats (platKey ctx i) new, platUpds := s.platUpds ++ [u] }
          .done (modStream s sid fun st => { st with phase := .holding (.plat id d (new.setWidth 64)) }) { push := .holdEnds }) s
/-- A PLATW retires: every die's copy holds the new version (R387); versions of one entry retire in order. -/
def platwRetire (s : State) (i : Nat) : State :=
  match s.platUpds[i]? with
  | none => s
  | some u => if (s.platUpds.take i).any fun v => v.key == u.key then s else { s with platUpds := s.platUpds.eraseIdx i }
def execPlatwRetire (i : Nat) (s : State) : Out := .next (platwRetire s i)

/-! ### Walks outside any TLB -/

/-- A walk made for a die's own hardware (R336, R391): the leaf is not kept, and no claim is taken. The fault's code and VA
field; of a host window whose link is not trained, its PA (R462). -/
def walkAccess (s : State) (die ctx : Nat) (va : Word) (r : Right) : Except (BitVec 8 × Word) Xlat :=
  match walk s (fun d => reachable s (globalDie s die) d) (rootOf s die ctx) va with
  | .error e => .error e
  | .ok leaf =>
    match leafForm s leaf with
    | some c => .error (c, va)
    | none =>
      if leafBarred ctx leaf || !hasRight leaf r then .error (0x21, va)
      else
        let pa := leafPa leaf va
        match paFault s pa with
        | some c => .error (c, va)
        | none =>
          if hostUp s pa then .ok ⟨pa, { ctx := ctx, vpn := fld va 55 14, leaf := leaf }⟩
          else .error (0x40, BitVec.ofNat 64 pa)

/-! ### REPLAT -/

/-- A participant of a REPLAT: die, core number, command, and the generations it read. -/
abbrev Part := Nat × Nat × BitVec 32 × BitVec 8 × BitVec 8
/-- The gang of a caravan on a die. -/
def caravanGang (s : State) (c d : Nat) : Option (Nat × Gang) := s.gangs.find? fun e => e.1 / 64 == d && e.2.caravan == some c
def execReplat (tk : Tok) (a b : Reg) (s : State) : Out :=
  issue { legal := [3], srcs := [.x a.toNat, .x b.toNat] } tk
    (fun s =>
      let sid := s.cur
      let cid := coreOf sid
      let ctx := ctxOf s cid
      let i := readX (streamAt s sid) a.toNat
      let j := readX (streamAt s sid) b.toNat
      if 16 ≤ i.toNat ∨ 16 ≤ j.toNat then .fault s 0x01 0
      else match gangOfCore s cid with
        | none => .fault s 0x39 0
        | some x =>
          let mine := s.replats.find? fun r => some r.caravan == x.caravan && r.ctx == ctx
          let other := s.replats.any fun r => some r.caravan != x.caravan && r.ctx == ctx &&
            [r.src, r.dst].any fun n => n == i.toNat || n == j.toNat
          let busy := other || s.platUpds.any fun u => u.key == platKey ctx i.toNat || u.key == platKey ctx j.toNat
          let e := platMem s ctx i.toNat
          let f := platMem s ctx j.toNat
          let joined : Bool := match mine with
            | some r => r.parts.any fun p => p.1 == dieOf cid
            | none => false
          if busy then .stall s
          else if i = j ∨ !platValid e ∨ !platValid f ∨ platMask e ≠ platMask f ∨ platFmt e ≠ platFmt f ∨
              platTensor e ≠ platTensor f ∨ ((List.range 5).any fun n => platD e n != platD f n) ∨
              x.caravan.isNone ∨ recMask x.record ≠ platMask e || joined then .fault s 0x39 0
          else
            let seq := (coreAt s cid).seq
            let pc : Word := (streamAt s sid).pc.setWidth 64
            let gens : BitVec 8 × BitVec 8 := (BitVec.ofNat 8 (platGen e), BitVec.ofNat 8 (platGen f))
            andThen (issueCmd s sid (.replat tk a b) [i, j, pc] [] [] [] 10 none) fun s =>
              let part := (dieOf cid, cid, seq, gens.1, gens.2)
              match mine with
              | some r => { s with replats := mapIf (fun q => q.id == r.id) (fun q => { q with parts := q.parts ++ [part] }) s.replats }
              | none =>
                let (id, s) := fresh s
                let r : Replat :=
                  { id := id, ctx := ctx, caravan := x.caravan.getD 0, src := i.toNat, dst := j.toNat, parts := [part],
                    stepping := false, missed := false, done := [] }
                { s with replats := s.replats ++ [r] }) s
def putReplat (s : State) (r : Replat) : State := { s with replats := mapIf (fun q => q.id == r.id) (fun _ => r) s.replats }
def dropReplat (s : State) (r : Replat) : State := { s with replats := s.replats.filter fun q => q.id != r.id }
/-- The REPLAT command of a participant, while it is in flight: its core still runs for the caravan. -/
def partCmd (s : State) (r : Replat) (p : Part) : Option Cmd :=
  if (gangOfCore s p.2.1).bind (fun x => x.caravan) = some r.caravan then cmdAt s p.2.1 p.2.2.1 else none
/-- A fault of a participant (R389 to R391): agent 3, with the PC of its REPLAT. A participant whose command is over raises
none. -/
def partFault (s : State) (r : Replat) (p : Part) (code : BitVec 8) (va : Word) : State :=
  match partCmd s r p with
  | none => s
  | some k =>
    if !canRaise s p.1 then setExstat s p.1 8
    else
      let e := nextEntry s p.1
      let s := raise s (coreFault p.2.1 3 ((k.ops.getD 2 0).setWidth 32) code va s)
      if classOf code = 1 then modCmd s p.2.1 p.2.2.1 fun k => { k with hold := some e } else dropCmd s p.2.1 p.2.2.1
/-- The participants whose commands are in flight. -/
def liveParts (s : State) (r : Replat) : List Part := r.parts.filter fun p => (partCmd s r p).isSome
/-- Every participant raises a fault; while a die of one can raise none, all of them are held (R363). -/
def partsFault (s : State) (r : Replat) (code : BitVec 8) (k : State → State) : State :=
  if (liveParts s r).all fun p => canRaise s p.1 then k ((liveParts s r).foldl (fun s p => partFault s r p code 0) s)
  else (liveParts s r).foldl (fun s p => if canRaise s p.1 then s else setExstat s p.1 8) s
def partsLive (s : State) (r : Replat) : Bool := r.parts.all fun p => (partCmd s r p).isSome
/-- A REPLAT that ends without effect: its commands are over, and no GEN changes. -/
def abortReplat (s : State) (r : Replat) : State :=
  (liveParts s r).foldl (fun s p => dropCmd s p.2.1 p.2.2.1) (dropReplat s r)
/-- The participants agree on indices and generations (R389). -/
def partsAgree (s : State) (r : Replat) : Bool :=
  let key (p : Part) : List Nat :=
    match partCmd s r p with
    | some k => [(k.ops.getD 0 0).toNat, (k.ops.getD 1 0).toNat, p.2.2.2.1.toNat, p.2.2.2.2.toNat]
    | none => []
  match r.parts with
  | [] => true
  | p :: q => q.all fun z => key z == key p
/-- Exchange slot m of a die, as bytes (R390). -/
def slotBytes (s : State) (d m o n : Nat) : List Byte :=
  let base := dieBlock d + 0x01008000 + 0x1000 * m
  ((List.range ((o % 8 + n + 7) / 8)).flatMap fun i => leBytes 8 (areg s (base + o / 8 * 8 + 8 * i)).toNat).drop (o % 8) |>.take n
/-- A die's slot is the one that the REPLAT asks for. DESIGN CHOICE (log entry 97): R390 prints 0 for bits [31:12] of the header
and nothing for [3:1]; a slot with any of them set is taken for another layout's, a Schedule Miss. -/
def slotHolds (s : State) (d : Nat) (r : Replat) : Bool :=
  let e := platMem s r.ctx r.src
  let f := platMem s r.ctx r.dst
  let h := slotBytes s d (platSlot f) 0 16
  let clean (v : BitVec 512) : List Byte := platBytes (setGen v 0)
  bfld h 0 4 == 1 + r.src * 16 + r.dst * 256 && (h.drop 4).take 4 == shake256 4 (clean e ++ clean f)
/-- REPLAT_RENDEZVOUS (R389, R390), made again after a miss once every entry of it was resolved. -/
def replatRendezvous (s : State) (i : Nat) : State :=
  match s.replats[i]? with
  | none => s
  | some r =>
    let dies := maskDies (platMask (platMem s r.ctx r.src))
    let all := dies.all fun d => r.parts.any fun p => p.1 == d
    let killed := s.gangs.any fun e => e.2.caravan == some r.caravan && e.2.phase == .dying
    let noGang := !(s.gangs.any fun e => e.2.caravan == some r.caravan)
    if r.stepping then (if partsLive s r then s else abortReplat s r)
    else if (killed || noGang) && !all || (all && partsLive s r && !partsAgree s r) then
      partsFault s r 0x39 fun s => dropReplat s r
    else if !all then s
    else if !partsLive s r then abortReplat s r
    else if r.parts.any fun p => match partCmd s r p with
        | some k => !cmdReady s p.2.1 k
        | none => false then s
    else if dies.all fun d => slotHolds s d r then putReplat s { r with stepping := true, missed := false }
    else partsFault s r 0x3A fun s => putReplat s { r with missed := true }
def execReplatRendezvous (i : Nat) (s : State) : Out := .next (replatRendezvous s i)
/-- The steps of a die's schedule, in the order of their rounds (R390, R391). DESIGN CHOICE (log entry 97): a count above 126,
which no slot has room for, is taken as 126. -/
def slotSteps (s : State) (d : Nat) (r : Replat) : List (List Byte) :=
  let m := platSlot (platMem s r.ctx r.dst)
  let n := Nat.min 126 (bfld (slotBytes s d m 8 1) 0 1)
  let all := (List.range n).map fun j => slotBytes s d m (64 + 32 * j) 32
  (List.range 256).flatMap fun q => all.filter fun t => bfld t 0 1 == q
def stepAt (s : State) (r : Replat) (d : Nat) : Option (List Byte) := (slotSteps s d r)[((aget r.done d).getD (0, 0)).1]?
def replatDies (s : State) (r : Replat) : List Nat := maskDies (platMask (platMem s r.ctx r.src))
/-! ### Elements and their owners (R383) -/

/-- The bytes of a row: the elements of one head and position, which every mode holds whole and dense (E0 = D0, R384). -/
def platRow (e : BitVec 512) : Nat := platE e 0 * elemBits (platFmt e) / 8
/-- Rows of a block. -/
def blockRows (e : BitVec 512) : Nat := blockExt e 1 * blockExt e 2 * blockExt e 3 * blockExt e 4
/-- The row of a block at block indices 1 to 4. -/
def rowIndex (e : BitVec 512) (b : Nat × Nat × Nat × Nat) : Nat :=
  b.1 + blockExt e 1 * (b.2.1 + blockExt e 2 * (b.2.2.1 + blockExt e 3 * b.2.2.2))
/-- The block indices 1 to 4 of a row. -/
def rowCoord (e : BitVec 512) (r : Nat) : Nat × Nat × Nat × Nat :=
  (r % blockExt e 1, r / blockExt e 1 % blockExt e 2, r / (blockExt e 1 * blockExt e 2) % blockExt e 3,
    r / (blockExt e 1 * blockExt e 2 * blockExt e 3))
/-- The owners of the elements (·, i1, i2, i3, i4), lowest first, and the row of their blocks. -/
def rowHome (e : BitVec 512) (i : Nat × Nat × Nat × Nat) : List Nat × Nat :=
  let named := maskDies (platMask e)
  let h := platHalo e
  let (i1, i2, i3, i4) := i
  match platMode e with
  | 0 => ([i2 / platE e 2 + 2 * (i3 / platE e 3) + 4 * (i4 / platE e 4)],
      rowIndex e (i1, i2 % platE e 2 + h, i3 % platE e 3 + h, i4 % platE e 4 + h))
  | 1 => ([named.getD (i1 / platE e 1) 0], rowIndex e (i1 % platE e 1, i2, i3, i4))
  | 2 => (named, rowIndex e i)
  | _ =>
    let t := i2 + platD e 2 * (i3 + platD e 3 * i4)
    ([named.getD (t / platE e 2) 0], rowIndex e (i1, t % platE e 2, 0, 0))
/-- The elements that row r of a die's block holds; none in a halo, and past the last row of ROWS. -/
def platElem (e : BitVec 512) (die r : Nat) : Option (Nat × Nat × Nat × Nat) :=
  let k := ((maskDies (platMask e)).filter fun d => decide (d < die)).length
  let h := platHalo e
  let (c1, c2, c3, c4) := rowCoord e r
  let inner (i c : Nat) : Bool := decide (h ≤ c) && decide (c < h + platE e i)
  match platMode e with
  | 0 =>
    if inner 2 c2 && inner 3 c3 && inner 4 c4 then
      some (c1, die % 2 * platE e 2 + (c2 - h), die / 2 % 2 * platE e 3 + (c3 - h), die / 4 * platE e 4 + (c4 - h))
    else none
  | 1 => some (k * platE e 1 + c1, c2, c3, c4)
  | 2 => some (c1, c2, c3, c4)
  | _ =>
    let t := k * platE e 2 + c2
    if t < platD e 2 * platD e 3 * platD e 4 then some (c1, t % platD e 2, t / platD e 2 % platD e 3, t / (platD e 2 * platD e 3))
    else none
/-- The VA of a die's block. -/
def blockVa (e : BitVec 512) (die : Nat) : Nat := platBase e + die * platStride e
/-- The rows of a die's block with bytes in the sector at VA 32·q: the elements, and the first and last byte in the block. -/
def sectorRows (f : BitVec 512) (die q : Nat) : List ((Nat × Nat × Nat × Nat) × Nat × Nat × Nat) :=
  let b := blockVa f die
  let n := platRow f
  (List.range (blockRows f)).filterMap fun r =>
    let lo := Nat.max (32 * q) (b + r * n)
    let hi := Nat.min (32 * q + 32) (b + r * n + n)
    match platElem f die r with
    | some i => if lo < hi then some (i, lo - (b + r * n), lo - 32 * q, hi - lo) else none
    | none => none

/-! ### The routers' steps (R391) -/

/-- Bytes by VA that the router of a die reads: the first fault, or the bytes. -/
def routerRead (s : State) (d ctx va n : Nat) : Except (BitVec 8 × Word) (List Byte) :=
  (pieces va n).foldl (fun a p =>
    match a with
    | .error e => .error e
    | .ok bs =>
      match walkAccess s d ctx (BitVec.ofNat 64 p.1) .rd with
      | .error e => .error e
      | .ok x =>
        if !dieReaches s d x.pa then .error (0xF0, BitVec.ofNat 64 x.pa)
        else .ok (bs ++ paRead s x.pa p.2 (leafKey x.via.leaf))) (.ok [])
/-- Bytes of one sector that the router of a die writes by VA; `none` where a tracked write waits (R457). -/
def routerWrite (s : State) (id d ctx va : Nat) (bs : List Byte) : Except (BitVec 8 × Word) (Option State) :=
  match walkAccess s d ctx (BitVec.ofNat 64 va) .wr with
  | .error e => .error e
  | .ok x =>
    if !dieReaches s d x.pa then .error (0xF0, BitVec.ofNat 64 x.pa) else .ok (hwPut s (globalDie s d) x bs (.replat id d))
/-- What a router has to do next: nothing, a step to skip, or one sector, with the steps and sectors done after it: the VA,
and what the bytes are or the fault that reading them meets. -/
inductive RouterJob where
  | done
  | wait
  | skip
  | put (va : Nat) (bs : Except (BitVec 8 × Word) (List Byte)) (after : Nat × Nat)
/-- The schedule as it stands: the bytes of the step in hand that fall in its next destination sector are copied, so that a write
stays within one sector, wherever BASE, DSTRIDE and the step's offsets put it; a step that lies outside its blocks is skipped. The
rounds go in order over all routers. DESIGN CHOICE (log entry 97): a step of length 0 moves nothing and counts as skipped; one whose
length is no multiple of 32 moves exactly its bytes; one whose peer die DIEMASK does not name is performed at BASE + peer · DSTRIDE
as any other. -/
def copyJob (s : State) (r : Replat) (d : Nat) : RouterJob :=
  match stepAt s r d with
  | none => .done
  | some t =>
    let e := platMem s r.ctx r.src
    let f := platMem s r.ctx r.dst
    let (n, sec) := (aget r.done d).getD (0, 0)
    let early := (replatDies s r).any fun q => match stepAt s r q with
      | some u => decide (bfld u 0 1 < bfld t 0 1)
      | none => false
    let len := bfld t 2 4
    let so := bfld t 6 8
    let dof := bfld t 14 8
    if early then .wait
    else if len = 0 ∨ blockBytes e < so + len ∨ blockBytes f < dof + len then .skip
    else
      let into := blockVa f (bfld t 1 1) + dof
      let lo := Nat.max into ((into / 32 + sec) * 32)
      let hi := Nat.min (into + len) ((into / 32 + sec + 1) * 32)
      .put lo (routerRead s d r.ctx (blockVa e d + so + (lo - into)) (hi - lo)) (if into + len ≤ hi then (n + 1, 0) else (n, sec + 1))
/-- The destination sectors that fall to a router under the schedule that Dormos compiles, as die and sector, ascending: those
whose first element it owns (log entry 98). -/
def shardSectors (s : State) (r : Replat) (d : Nat) : List (Nat × Nat) :=
  let e := platMem s r.ctx r.src
  let f := platMem s r.ctx r.dst
  (replatDies s r).flatMap fun o =>
    let b := blockVa f o
    ((List.range ((b + blockBytes f - 1) / 32 + 1 - b / 32)).filterMap fun i =>
      let q := b / 32 + i
      match sectorRows f o q with
      | [] => none
      | c :: _ => if (rowHome e c.1).1.headD 0 = d then some (o, q) else none)
/-- A destination sector after the REPLAT: every element in it is the one its owner in the source layout holds (of REPLICA the
lowest named die), and the other bytes, a halo's, are as they were. -/
def shardBytes (s : State) (r : Replat) (d o q : Nat) : Except (BitVec 8 × Word) (List Byte) :=
  let e := platMem s r.ctx r.src
  let f := platMem s r.ctx r.dst
  (sectorRows f o q).foldl (fun a c =>
    match a with
    | .error x => .error x
    | .ok bs =>
      let (owners, row) := rowHome e c.1
      match routerRead s d r.ctx (blockVa e (owners.headD 0) + row * platRow e + c.2.1) c.2.2.2 with
      | .error x => .error x
      | .ok v => .ok (bs.take c.2.2.1 ++ v ++ bs.drop (c.2.2.1 + c.2.2.2))) (routerRead s d r.ctx (32 * q) 32)
/-- The schedule that Dormos compiles has the effect that R391 gives element by element. -/
def shardJob (s : State) (r : Replat) (d : Nat) : RouterJob :=
  let (n, _) := (aget r.done d).getD (0, 0)
  match (shardSectors s r d)[n]? with
  | none => .done
  | some (o, q) => .put (32 * q) (shardBytes s r d o q) (n + 1, 0)
/-- The slots hold the schedule that Dormos compiles for the two entries (a free value: the spec does not give it). -/
def dormosSlots (s : State) (r : Replat) : Bool :=
  let e := platMem s r.ctx r.src
  let f := platMem s r.ctx r.dst
  Config.compiled (setGen e 0) (setGen f 0) ((replatDies s r).map fun d => slotBytes s d (platSlot f) 0 4096)
def routerJob (s : State) (r : Replat) (d : Nat) : RouterJob := if dormosSlots s r then shardJob s r d else copyJob s r d
/-- A router has performed every step. -/
def routerIdle (s : State) (r : Replat) (d : Nat) : Bool :=
  (match routerJob s r d with
    | .done => true
    | _ => false) && !remoteOut s (.replat r.id d)
/-- REPLAT_STEP: a router performs one 32-byte sector, or skips and records a step that lies outside its blocks (R391). A sector
that went to another package is waited for, so that its sectors are written in order. -/
def replatStep (s : State) (i d : Nat) : State :=
  match s.replats[i]? with
  | none => s
  | some r =>
    match r.parts.find? (fun p => p.1 == d) with
    | none => s
    | some p =>
      let held := match partCmd s r p with
        | some k => k.hold.isSome
        | none => true
      if !r.stepping || held || !partsLive s r || remoteOut s (.replat r.id d) then s
      else match routerJob s r d with
        | .done | .wait => s
        | .skip =>
          let n := ((aget r.done d).getD (0, 0)).1
          modDie (putReplat s { r with done := aput r.done d (n + 1, 0) }) d fun x => { x with skips := x.skips + 1 }
        | .put _ (.error (c, va)) _ => partFault s r p c va
        | .put va (.ok bs) after =>
          match routerWrite s r.id d r.ctx va bs with
          | .error (c, va) => partFault s r p c va
          | .ok none => s
          | .ok (some s) => putReplat s { r with done := aput r.done d after }
def execReplatStep (i die : Nat) (s : State) : Out := .next (replatStep s i die)
/-- REPLAT_RETIRE: every step of every router is done; both generations advance, and all commands retire (R392). -/
def replatRetire (s : State) (i : Nat) : State :=
  match s.replats[i]? with
  | none => s
  | some r =>
    if !r.stepping || !partsLive s r || !((replatDies s r).all (routerIdle s r)) then s
    else
      let e := platMem s r.ctx r.src
      let f := platMem s r.ctx r.dst
      let ps := aput (aput s.plats (platKey r.ctx r.src) (setGen e (platGen e + 1))) (platKey r.ctx r.dst) (setGen f (platGen f + 1))
      r.parts.foldl (fun s p => retireCmd s p.2.1 p.2.2.1) (dropReplat { s with plats := ps } r)
def execReplatRetire (i : Nat) (s : State) : Out := .next (replatRetire s i)

/-! ### The Bounds engine -/

/-- The neighbour one step in a direction, and whether it lies in another package (R375, R393, R449). -/
def neighbour (s : State) (d dir : Nat) : Nat × Bool :=
  let a := dir / 2
  let f := areg s (ioBlock 0 + 0x04000100)
  let wide := fld f (9 + 2 * a) (8 + 2 * a) != 0
  (d ^^^ 2 ^ a, wide && d / 2 ^ a % 2 == dir % 2)
/-- The package one step in a direction (R447, R449). -/
def nextPackage (s : State) (dir : Nat) : Nat :=
  let a := dir / 2
  let p := packageId s
  let c := fabC s a
  p - c * 4 ^ a + (c + (if dir % 2 = 1 then 1 else fabP s a - 1)) % fabP s a * 4 ^ a
/-- The image of a face set as a gang reads it (R393). -/
def faceSet (s : State) (die gang n : Nat) : List Byte :=
  if aget (dieAt s die).faceTag n = some gang then leBytes 128 ((aget (dieAt s die).faces n).getD 0).toNat
  else List.replicate 128 0
def faceImageOk (bs : List Byte) : Bool :=
  bfld bs 0 8 < 64 && bfld bs 104 24 == 0 && (List.range 6).all fun f =>
    let o := 8 + 16 * f
    nfld (bfld bs (o + 4) 1) 7 7 == 0 && decide (nfld (bfld bs (o + 4) 1) 6 4 < 6) && decide (bfld bs (o + 5) 1 < 64) &&
      decide (bfld bs (o + 6) 1 < 32) && bfld bs (o + 10) 6 == 0 && (bfld bs 0 8 / 2 ^ f % 2 == 0 || bfld bs (o + 8) 2 != 0)
/-- A BNDX in flight on the die uses the set (R396). -/
def setInUse (s : State) (die n : Nat) : Bool :=
  (List.range 64).any fun c => (coreAt s (64 * die + c)).cmds.any fun k => k.engine == 5 && (k.ops.getD 0 0).toNat == n
def execBndcfg (tk : Tok) (a b : Reg) (s : State) : Out :=
  issue { legal := [3], srcs := [.x a.toNat, .x b.toNat] } tk
    (fun s =>
      let sid := s.cur
      let die := dieOf (coreOf sid)
      let n := (readX (streamAt s sid) a.toNat).toNat
      let p := readX (streamAt s sid) b.toNat
      if 3 < n then .fault s 0x01 0
      else withCheck s (ownCheck s sid p 128 128 false) p fun s => withAcq s fun s =>
        let bs := ownRead s sid (spOff p) 128
        if !faceImageOk bs then .fault s 0x01 0
        else if setInUse s die n then .stall s
        else
          let g := ((coreAt s (coreOf sid)).gang).getD 0
          .done (modDie s die fun x =>
            { x with faces := aput x.faces n (BitVec.ofNat 1024 (leNat bs)), faceTag := aput x.faceTag n g }) {}) s
/-- A face: its bytes. -/
def faceOf (img : List Byte) (f : Nat) : List Byte := (img.drop (8 + 16 * f)).take 16
def faceSrc (f : List Byte) : Word := BitVec.ofNat 64 (bfld f 0 4)
def facePlat (f : List Byte) : Nat := bfld f 4 1 % 16
def faceDir (f : List Byte) : Nat := nfld (bfld f 4 1) 6 4
/-- Extents of the source box along dimensions 2, 3, 4 (R394). -/
def faceExt (e : BitVec 512) (dir i : Nat) : Nat := if i = 2 + dir / 2 then platHalo e else platE e i
def faceRow (e : BitVec 512) : Nat := platE e 0 * elemBits (platFmt e) / 8
def faceBytes (e : BitVec 512) (dir : Nat) : Nat :=
  faceRow e * platE e 1 * faceExt e dir 2 * faceExt e dir 3 * faceExt e dir 4
/-- The checks of one selected face at issue (R397), on the version of its entry that the BNDX found already (`known`), or that
the die holds now: an operation uses one version of an entry (R387). `none` asks to wait. Whichever check of R90 its box fails, the
code is Scratch Bounds. DESIGN CHOICE (log entry 122): so it is of a source address with SELF = 0 or not 32-byte aligned (R393), for
which R397 and R407 name no other code. -/
def faceCheck (s : State) (sid : Nat) (f : List Byte) (known : Option (BitVec 512)) :
    Option (Option (BitVec 8)) × BitVec 512 × State :=
  let cid := coreOf sid
  let (e, s) := match known with
    | some e => (e, s)
    | none => platEntry s (dieOf cid) (ctxOf s cid) (facePlat f)
  if platMode e ≠ 0 ∨ platHalo e = 0 then (some (some 0x01), e, s)
  else match platJudge s (ctxOf s cid) (facePlat f) (bfld f 7 1) e with
    | .wait => (none, e, s)
    | .stale => (some (some 0x38), e, s)
    | .ok => (some ((ownCheck s sid (faceSrc f) (faceBytes e (faceDir f)) 32 false).map fun _ => 0x10), e, s)
/-- The selected faces in ascending direction. -/
def selected (img : List Byte) (mask : Nat) : List Nat :=
  (List.range 6).flatMap fun dir => (List.range 6).filter fun f =>
    bfld img 0 8 / 2 ^ f % 2 == 1 && mask / 2 ^ f % 2 == 1 && faceDir (faceOf img f) == dir
/-- BNDX (R397). DESIGN CHOICE (log entry 83): the rule names no VA field for the Illegal Encoding of a face whose entry is not
SPACE-TIME or has HALO 0, and the model gives the face's source address, as for the other checks of a face. -/
def execBndx (tk : Tok) (a b : Reg) (s : State) : Out :=
  issue { legal := [3], srcs := [.x a.toNat, .x b.toNat] } tk
    (fun s =>
      let sid := s.cur
      let cid := coreOf sid
      let n := readX (streamAt s sid) a.toNat
      let m := readX (streamAt s sid) b.toNat
      if 3 < n.toNat ∨ 64 ≤ m.toNat then .fault s 0x01 0
      else
        let img := faceSet s (dieOf cid) (((coreAt s cid).gang).getD 0) n.toNat
        let fs := selected img m.toNat
        let init : Option Res × List (Nat × BitVec 512) × State := (none, [], s)
        let (bad, es, s) := fs.foldl (fun acc f =>
          match acc.1 with
          | some _ => acc
          | none =>
            let known := (acc.2.1.find? fun q => facePlat (faceOf img q.1) == facePlat (faceOf img f)).map fun q => q.2
            match faceCheck acc.2.2 sid (faceOf img f) known with
            | (none, _, s) => (some (.stall s), acc.2.1, s)
            | (some (some c), _, s) => (some (.fault s c (faceSrc (faceOf img f))), acc.2.1, s)
            | (some none, e, s) => (none, acc.2.1 ++ [(f, e)], s)) init
        match bad with
        | some r => r
        | none =>
          let rd := es.map fun q => rangeOf s (faceSrc (faceOf img q.1)) (faceBytes q.2 (faceDir (faceOf img q.1)))
          let image := img ++ es.flatMap fun q => BitVec.ofNat 8 q.1 :: platBytes q.2
          issueCmd s sid (.bndx tk a b) [n, m] image rd [] 5 none) s
/-- The faces of a BNDX with the entries they had at issue. -/
def bndFaces (k : Cmd) : List (List Byte × BitVec 512) :=
  let rest := k.image.drop 128
  (List.range (rest.length / 65)).map fun i =>
    (faceOf k.image ((bfld rest (65 * i) 1)), BitVec.ofNat 512 (bfld rest (65 * i + 1) 64))
/-- A BNDX may retire: it selects nothing, or every face is sent. -/
def boundsDone (k : Cmd) : Bool := (bndFaces k).isEmpty || (k.start && decide ((bndFaces k).length ≤ k.next))
/-- The rows of one face: offset in the source box, offset in the destination block (R383, R394). -/
def faceRows (e : BitVec 512) (dir : Nat) : List (Nat × Nat) :=
  let h := platHalo e
  let row := faceRow e
  let at_ (i v : Nat) : Nat :=
    if i = 2 + dir / 2 then (if dir % 2 = 1 then v else platE e i + h + v) else h + v
  (List.range (faceExt e dir 4)).flatMap fun z => (List.range (faceExt e dir 3)).flatMap fun y =>
    (List.range (faceExt e dir 2)).flatMap fun x => (List.range (platE e 1)).map fun w =>
      let k := w + platE e 1 * (x + faceExt e dir 2 * (y + faceExt e dir 3 * z))
      let j := w + platE e 1 * (at_ 2 x + blockExt e 2 * (at_ 3 y + blockExt e 3 * at_ 4 z))
      (k * row, j * row)
/-- The face's destination sectors, ascending, with their runs of bytes. -/
def faceSectors (e : BitVec 512) (dir base : Nat) (src : List Byte) : List (Nat × List (Nat × List Byte)) :=
  let row := faceRow e
  let rows := (faceRows e dir).map fun r => (base + r.2, (src.drop r.1).take row)
  let secs : AMap Unit := rows.foldl (fun t r =>
    (List.range ((r.1 + row - 1) / 32 + 1 - r.1 / 32)).foldl (fun (t : AMap Unit) i => aput t (r.1 / 32 + i) ()) t) []
  secs.map fun q =>
    let a := 32 * q.1
    (a, (rows.filter fun r => decide (r.1 < a + 32) && decide (a < r.1 + row)).map fun r =>
      let lo := Nat.max a r.1
      (lo - a, (r.2.drop (lo - r.1)).take (Nat.min (a + 32) (r.1 + row) - lo)))
/-- Where a face's sector goes: under the translation of its VA, and for a neighbour in another package at the same offset of
that package's window (R451; log entry 27). -/
def facePa (s : State) (out : Bool) (dir pa : Nat) : Nat :=
  if out && !isFabric s pa then 0x1000000000000 + nextPackage s dir * 2 ^ 40 + localPa s pa else pa
/-- One sector of a face. -/
def faceWrite (s : State) (cid g dir : Nat) (out : Bool) (sector : Nat) (runs : List (Nat × List Byte)) :
    Except (BitVec 8 × Word) Unit × State :=
  let va : Word := BitVec.ofNat 64 sector
  match access s cid (ctxOf s cid) va .wr with
  | (.error e, s) => (.error e, s)
  | (.ok x, s) => cmdPut s cid g va { x with pa := facePa s out dir x.pa } runs
/-- The increment of a face's receiver in another package, as a tracked request to its die (R214, R457); `none` where a 257th
waits. -/
def faceInc (s : State) (cid : Nat) (k : Cmd) (dir nd : Nat) : Option State :=
  let src := globalDie s (dieOf cid)
  let dst := 8 * nextPackage s dir + nd
  if 256 ≤ trackedOut s src dst then none
  else
    let seq := (aget (dieAt s (src % 8)).txSeq dst).getD 0
    let (id, s) := fresh s
    let m : Remote := { id := id, src := src, dst := dst, track := seq, tries := 0, pa := 0, bytes := [], owner := .cmd cid k.seq 5 }
    some (sendPacket { s with remotes := s.remotes ++ [m] } src dst (.put id))
/-- The receiver in another package has answered the increment: it may have overflowed there (R397), which a free bit says. -/
def faceAnswer (s : State) (cid : Nat) (k : Cmd) : State × Bool :=
  let (b, t) := freeVal s 1
  if b = 0 then (t, true)
  else if canRaise s (dieOf cid) then (raise t (coreFault cid 5 k.seq 0x12 0 s), true)
  else (heldByQueue s cid, false)
/-- The end of a face whose sectors are written: the release at PACKAGE, then the receiver's increment (R397). -/
def faceEnd (s : State) (cid : Nat) (k : Cmd) (f : List Byte) : State × Bool :=
  let (nd, out) := neighbour s (dieOf cid) (faceDir f)
  if out then
    match faceInc s cid k (faceDir f) nd with
    | some s => (modCmd s cid k.seq fun q => { q with stage := 2 }, false)
    | none => (s, false)
  else (engineInc s cid k.seq 5 (64 * nd + bfld f 5 1 % 64) (bfld f 6 1 % 32) (bfld f 8 2) .package false, true)
/-- One face, and whether it is over: its sectors, then the release and the receiver's increment (R397). A face whose increment
would overflow while no fault can be raised is not begun (R363). What goes to another package is waited for: the sectors, then
the increment. -/
def faceSend (s : State) (cid : Nat) (k : Cmd) (f : List Byte) (e : BitVec 512) : State × Bool :=
  let (nd, out) := neighbour s (dieOf cid) (faceDir f)
  let src := mread (coreAt s cid).scratch (spOff (faceSrc f)) (faceBytes e (faceDir f))
  let base := platBase e + nd * platStride e
  if k.stage ≠ 0 && remoteOut s (.cmd cid k.seq 5) then (s, false)
  else if k.stage = 2 then faceAnswer s cid k
  else if !out && incHeld s cid (64 * nd + bfld f 5 1 % 64) (bfld f 6 1 % 32) (bfld f 8 2) then (heldByQueue s cid, false)
  else if k.stage = 1 then faceEnd s cid k f
  else
    let r := ((faceSectors e (faceDir f) base src).drop k.sect).foldl (fun (a : Except (BitVec 8 × Word) Unit × State) q =>
      match a.1 with
      | .error _ => a
      | .ok _ => match faceWrite a.2 cid (agentOf cid k.seq) (faceDir f) out q.1 q.2 with
        | (.error x, s) => (.error x, s)
        | (.ok _, s) => (.ok (), modCmd s cid k.seq fun q => { q with sect := q.sect + 1 })) (.ok (), s)
    match r with
    | (.error x, s) => (engineFail s cid k.seq 5 x.1 x.2 0xFFFF, false)
    | (.ok _, s) =>
      if remoteOut s (.cmd cid k.seq 5) then (modCmd s cid k.seq fun q => { q with stage := 1 }, false)
      else faceEnd s cid k f
/-- The receiver of a face runs a leg of the context on the neighbour die (R397); what a core of another package runs is outside
the model (a free bit; log entry 27). -/
def receiverRuns (s : State) (cid : Nat) (f : List Byte) : Bool × State :=
  let (nd, out) := neighbour s (dieOf cid) (faceDir f)
  if out then
    let (b, s) := freeVal s 1
    (b == 1, s)
  else ((match gangOfCore s (64 * nd + bfld f 5 1 % 64) with
    | some x => x.phase == .running && x.ctx == ctxOf s cid
    | none => false), s)
/-- The first face whose receiver does not run, in ascending direction. -/
def deadFace (s : State) (cid : Nat) (fs : List (List Byte × BitVec 512)) : Option (List Byte) × State :=
  fs.foldl (fun (a : Option (List Byte) × State) f =>
    match a.1 with
    | some _ => a
    | none =>
      let (ok, s) := receiverRuns a.2 cid f.1
      (if ok then none else some f.1, s)) (none, s)
/-- The commands that have reached a die's Bounds engine and are in flight, in the order they reached it (R397). -/
def boundsLine (s : State) (die : Nat) : List (Nat × BitVec 32) :=
  (dieAt s die).boundsQ.filter fun q => (cmdAt s q.1 q.2).isSome
/-- The faces of a command, one after another, up to one that is not over. -/
def sendFaces (s : State) (cid : Nat) (seq : BitVec 32) (fs : List (List Byte × BitVec 512)) : State :=
  (fs.foldl (fun (a : State × Bool) f =>
    match a.2, cmdAt a.1 cid seq with
    | true, some k =>
      let (s, ok) := faceSend a.1 cid k f.1 f.2
      (if ok then modCmd s cid seq fun q => { q with next := q.next + 1, stage := 0, sect := 0 } else s, ok)
    | _, _ => (a.1, false)) (s, true)).1
/-- BOUNDS_COMMAND_START: a command that is ready reaches the engine, behind those that reached it before; the engine
takes the first, tests every receiver once for it, and sends its faces (R397). -/
def boundsStart (s : State) (cid : Nat) (seq : BitVec 32) : State :=
  match cmdAt s cid seq with
  | none => s
  | some k =>
    let fs := bndFaces k
    if k.engine ≠ 5 || !cmdReady s cid k || decide (fs.length ≤ k.next) && k.start then s
    else
      let q := boundsLine s (dieOf cid)
      let q := if q.contains (cid, seq) then q else q ++ [(cid, seq)]
      let s := modDie s (dieOf cid) fun x => { x with boundsQ := q }
      let first := match q.find? (fun e => match cmdAt s e.1 e.2 with
          | some k => !boundsDone k
          | none => false) with
        | some e => e == (cid, seq)
        | none => false
      if !first then s
      else match (if k.start then (none, s) else deadFace s cid fs) with
      | (some f, s) => engineFail s cid seq 5 0x40 (faceSrc f) 0xFFFF
      | (none, s) => sendFaces (modCmd s cid seq fun q => { q with start := true }) cid seq (fs.drop k.next)
def execBoundsCommandStart (cid : Nat) (seq : BitVec 32) (s : State) : Out := .next (boundsStart s cid seq)

/-! ### Multicast groups -/

def groupPa (g r : Nat) : Nat := ioBlock 0 + 0x06000000 + 128 * g + 8 * r
def groupMembers (s : State) (g : Nat) : List Nat :=
  (List.range 512).filter fun c => bitAt (areg s (groupPa g (1 + c / 64))) (c % 64)
/-- GMCs of a stream in flight (R399). -/
def gmcsOut (s : State) (sid : Nat) : Nat :=
  (s.packets.filterMap fun p => match p.payload with
    | .gmc n q _ _ _ _ _ _ _ => if q = sid then some n else none
    | _ => none).eraseDups.length
def execGmc (tk : Tok) (a b : Reg) (s : State) : Out :=
  issue { illegal := badQuad b, legal := [3], srcs := [.x a.toNat, .xs b.toNat 4] } tk
    (fun s =>
      let sid := s.cur
      let cid := coreOf sid
      let h := readX (streamAt s sid) a.toNat
      let g := fld h 11 0
      let w := areg s (groupPa g 0)
      if fld h 63 16 ≠ 0 then .fault s 0x01 0
      else if !bitAt w 0 ∨ fld w 7 4 ≠ fld h 15 12 ∨ fld w 13 8 ≠ ctxOf s cid then .fault s 0x40 h
      else if 16 ≤ gmcsOut s sid then .stall s
      else
        let bytes := (quadOf (streamAt s sid) b).flatMap fun v => leBytes 8 v.toNat
        let (n, s) := fresh s
        let leg := (coreFault cid 3 0 0 0 s).leg
        let pc := (streamAt s sid).pc
        let serial := legSerial s cid
        .done ((groupMembers s g).foldl (fun s m =>
          sendPacket s (globalDie s (dieOf cid)) (globalDie s (dieOf m)) (.gmc n sid m g (fld h 15 12) bytes leg serial pc)) s) {}) s
/-- A fault of a GMC in flight: agent 3, with the leg and the PC it was issued with. It acts on that leg alone; of one that is
over the entry names no gang, and DTICK (R364). -/
def gmcFault (sid : Nat) (leg : BitVec 32) (serial : Nat) (pc : BitVec 18) (code : BitVec 8) (va : Word) (s : State) : FaultInfo :=
  let cid := coreOf sid
  let f := coreFault cid 3 (pc.setWidth 32) code va s
  if f.gang != 0xFF && legSerial s cid == serial then f
  else { die := f.die, core := f.core, agent := 3, code := code, va := va, pc := f.pc, leg := leg
         tick := (areg s (dtickPa f.die)).setWidth 48 }
/-- GMC_DELIVERY: packet i, at its die, is written at its member and adds the increment, or is dropped there; the
GMCs of one stream reach a member in order (R399). A sector over a code ring is not written (R44, log entry 84). A fault
that cannot be raised yet holds the packet (R363). -/
def gmcDelivery (s : State) (i : Nat) : State :=
  match s.packets[i]? with
  | none => s
  | some p =>
    match p.payload with
    | .gmc _ sid m g _ bytes leg serial pc =>
      let earlier := (s.packets.take i).any fun q => match q.payload with
        | .gmc _ sid' m' _ _ _ _ _ _ => sid' == sid && m' == m
        | _ => false
      let w := areg s (groupPa g 9)
      let gone := { s with packets := s.packets.eraseIdx i }
      let fail (code : BitVec 8) (t : State) : State :=
        if canRaise s (dieOf (coreOf sid)) then raise t (gmcFault sid leg serial pc code 0 t) else heldByQueue s (coreOf sid)
      if p.at_ ≠ p.dst || earlier then s
      else if !liveFor s m (fld (areg s (groupPa g 0)) 13 8) then
        setAreg gone (groupPa g 10) (areg s (groupPa g 10) + 1)
      else if codeHit s m (fld w 31 0) bytes.length then fail 0x10 gone
      else
        let t := modCore gone m fun c => { c with scratch := mwrite c.scratch (fld w 31 0) bytes }
        if fld w 63 48 = 0 then t
        else match semAdd t m (fld w 36 32) (fld w 63 48) .package [] with
          | some t => t
          | none => fail 0x12 t
    | _ => s
def execGmcDelivery (i : Nat) (s : State) : Out := .next (gmcDelivery s i)
/-- A write of a group's bytes 0 to 7 that changes GEN waits while a packet of the old generation is in flight (R398). -/
def groupHeld (s : State) (g r : Nat) (v : Word) : Bool :=
  let old := fld (areg s (groupPa g 0)) 7 4
  r == 0 && fld v 7 4 != old && s.packets.any fun p => match p.payload with
    | .gmc _ _ _ g' gen _ _ _ _ => g' == g && gen == old
    | _ => false
/-- A write of a group's doubleword r (R398), which is not held: reserved bits refuse it, and that is recorded. DESIGN CHOICE (log
entry 115): so does an OFFSET that is not 32-byte aligned or not below 2 MiB. -/
def groupWrite (s : State) (g r : Nat) (v : Word) : State :=
  let old := areg s (groupPa g 0)
  if 4096 ≤ g || 10 ≤ r then countIoIgnored s 0
  else if r = 0 then
    if fld v 63 14 ≠ 0 ∨ fld v 3 1 ≠ 0 then countIoIgnored s 0
    else if fld v 7 4 ≠ fld old 7 4 then setAreg (setAreg s (groupPa g 0) v) (groupPa g 10) 0
    else setAreg s (groupPa g 0) v
  else if r = 9 then
    if fld v 47 37 ≠ 0 ∨ fld v 31 0 % 32 ≠ 0 ∨ scratchSize ≤ fld v 31 0 then countIoIgnored s 0
    else setAreg s (groupPa g 9) v
  else setAreg s (groupPa g r) v
def execMcastGroupWrite (g r : Nat) (v : BitVec 64) (s : State) : Out := .next (if groupHeld s g r v then s else groupWrite s g r v)

end Sys2Proof.Machine
end

