-- ==== Sys2Proof/Machine/Requests.lean ====
section
/-! DEFINITION. The REQ forms (R433 to R439), the KV map and the pool units (R425 to R430). -/
namespace Sys2Proof.Machine

/-! ### Reaching the Coach's memory -/

def coachBase : Nat := ioBlock 0 + 0x03000000
/-- Bytes by VA for hardware outside a core, line by line; what cannot be reached reads as free bits (log entry 34). -/
def hwRead (s : State) (die ctx va n : Nat) : List Byte :=
  (pieces va n).flatMap fun p =>
    match walkAccess s die ctx (BitVec.ofNat 64 p.1) .rd with
    | .ok x => paRead s x.pa p.2 (leafKey x.via.leaf)
    | .error _ => openBytes s p.2
/-- The same for a write, a tracked one to another package (R457); what cannot be reached is not written. -/
def hwWrite (s : State) (die ctx va : Nat) (bs : List Byte) : State :=
  (pieces va bs.length).foldl (fun s p =>
    match walkAccess s die ctx (BitVec.ofNat 64 p.1) .wr with
    | .ok x => hwStore s die x.pa ((bs.drop (p.1 - va)).take p.2) (leafKey x.via.leaf)
    | .error _ => s) s
def coachCtxN : Nat := Config.coachCtx.toNat
/-- The die that holds the bytes of a TR copy is ONLINE (R404). -/
def copyOnline (s : State) (va : Nat) : Bool :=
  match walkAccess s 0 coachCtxN (BitVec.ofNat 64 va) .rd with
  | .error _ => false
  | .ok x => (match placeOf (localPa s x.pa) with
    | .hbm d _ => dieState s d == 2
    | .carve d _ _ => dieState s d == 2
    | _ => true)
/-- TR of a slot (R409): the primary copy, or the mirror where only the mirror's die is ONLINE. -/
def trRead (s : State) (slot : Nat) : List Byte :=
  let a := (areg s (coachBase + 0x28)).toNat + 256 * slot
  let b := (areg s (coachBase + 0x30)).toNat + 256 * slot
  hwRead s 0 coachCtxN (if copyOnline s a || !copyOnline s b then a else b) 256
/-- A write of a TR goes to both copies. -/
def trWrite (s : State) (slot : Nat) (bs : List Byte) : State :=
  let a := (areg s (coachBase + 0x28)).toNat + 256 * slot
  let b := (areg s (coachBase + 0x30)).toNat + 256 * slot
  hwWrite (hwWrite s 0 coachCtxN a bs) 0 coachCtxN b bs
/-- Replace bytes of a structure. -/
def patch (bs : List Byte) (o : Nat) (v : List Byte) : List Byte := bs.take o ++ v ++ bs.drop (o + v.length)
/-- The PAs at which ranges of memory, by context, VA and length, begin in each of their pages; one in the window of a host
link that is not trained too (R462). -/
def touched (s : State) (l : List (Nat × Nat × Nat)) : List Nat :=
  l.flatMap fun m => (List.range (ceilDiv (m.2.1 + m.2.2) 16384 - m.2.1 / 16384)).filterMap fun i =>
    match walkAccess s 0 m.1 (BitVec.ofNat 64 (Nat.max m.2.1 (16384 * (m.2.1 / 16384 + i)))) .rd with
    | .ok x => some x.pa
    | .error (c, w) => if c = 0x40 then some w.toNat else none
/-- No host's window keeps the Coach waiting: every link is trained, and no entry of the part's own for one is unresolved. -/
def hostsClear (s : State) : Bool :=
  (s.hostLinks.toList.all fun h => h.trained) && !(dieAt s 0).unresolved.any fun e => e.code == 0x40 && e.gang == 0xFF
/-- The Coach may make accesses at some PAs: its earlier writes to another package are answered (R457), and the host links of
the PAs are trained and owed no RETRY (R462). -/
def coachReach (s : State) (pas : List Nat) : Bool := !hwBusy s 0 && (hostsClear s || pas.all (hostGo s 0))
/-- The first of the PAs that it may not access raises Peer Gone. -/
def coachAsk (s : State) (pas : List Nat) : State :=
  match pas.find? fun pa => !hostGo s 0 pa with
  | some pa => hostAsk s 0 pa
  | none => s
/-- What the Coach does once it reaches the memory that it needs; until then it waits (log entry 105). -/
def coachTry (s : State) (pas : List Nat) (f : State) : State := if coachReach s pas then f else coachAsk s pas
/-- The two copies of some TRs. -/
def trMem (s : State) (slots : List Nat) : List (Nat × Nat × Nat) :=
  slots.flatMap fun q => [0x28, 0x30].map fun r => (coachCtxN, (areg s (coachBase + r)).toNat + 256 * q, 256)
def stepNo (s : State) : Word := areg s (coachBase + 8)
/-- The slot of the request in a seat. -/
def seatSlot (s : State) (seat : Nat) : Option Nat := aget s.coach.seats seat
/-- The request of a seat was evicted in this step (R420). -/
def seatEvicted (s : State) (seat : Nat) : Bool := s.coach.evicted.contains seat
/-- A class 3 fault of a stream: the entry names the seat, and the form issues without effect (log entry 39). -/
def seatFault (s : State) (sid seat : Nat) (code : BitVec 8) : Res :=
  let d := dieOf (coreOf sid)
  if !canRaise s d then .stall (setExstat s d 8)
  else .done (raise s { coreFault (coreOf sid) (kindOf sid) ((streamAt s sid).pc.setWidth 32) code 0 s with seat := seat }) {}

/-! ### SEATMAP, TRLD, TRSET, STEPEND, DIGEST -/

def execSeatmap (tk : Tok) (a : Reg) (s : State) : Out :=
  issue { legal := [0], srcs := [.x a.toNat], waits := true } tk
    (fun s =>
      let sid := s.cur
      let cid := coreOf sid
      let va := readX (streamAt s sid) a.toNat
      let set (bs : List Byte) (s : State) : Res := .done (modCore s cid fun c => { c with seatVa := va, seatMap := bs }) {}
      withAcq s fun s =>
      if !vaOk va then .fault s 0x23 va
      else if va.toNat % 64 ≠ 0 then .fault s 0x24 va
      else if va = 0 then set [] s
      else match vaRead s cid (ctxOf s cid) va 8256 .rd with
        | (.error (c, v), s) => .fault s c v
        | (.ok bs, s) => set bs { s with freeCtr := s.freeCtr + 1 }) s
/-- The TR of a seat as the last boundary left it, for TRLD (R435): a copy kept of one that a request command has changed since,
or the one in memory, which is read once the Coach reaches it. -/
def seatTr (s : State) (seat : Nat) (k : List Byte → Res) : Res :=
  match seatSlot s seat with
  | none => k (List.replicate 256 0)
  | some t =>
    match aget s.coach.committed t with
    | some bs => k bs
    | none =>
      let pas := touched s (trMem s [t])
      if coachReach s pas then k (trRead s t) else .stall (coachAsk s pas)
/-- TRLD (R435). -/
def execTrld (tk : Tok) (d a b : Reg) (s : State) : Out :=
  issue { legal := [0], srcs := [.x a.toNat, .x b.toNat], dsts := locX d, waits := true } tk
    (fun s =>
      let sid := s.cur
      let seat := (readX (streamAt s sid) a.toNat).toNat
      let p := readX (streamAt s sid) b.toNat
      if 512 ≤ seat then .fault s 0x01 0
      else withCheck s (ownCheck s sid p 256 32 true) p fun s => withSync s sid [] [rangeOf s p 256] fun s =>
        if seatEvicted s seat then seatFault s sid seat 0x49
        else seatTr s seat fun bs =>
          landX { ownWrite s sid (spOff p) bs with freeCtr := s.freeCtr + 1 } sid false d.toNat (dword bs 0) 1) s
def execTrset (tk : Tok) (a b : Reg) (s : State) : Out :=
  issue { legal := [3], srcs := [.x a.toNat, .x b.toNat] } tk
    (fun s =>
      let sid := s.cur
      let seat := (readX (streamAt s sid) a.toNat).toNat
      let v := readX (streamAt s sid) b.toNat
      if 512 ≤ seat ∨ fld v 63 51 ≠ 0 ∨ (bitAt v 50 = true ∧ (fld v 47 32 = 0 ∨ 4096 < fld v 47 32)) then .fault s 0x01 0
      else if seatEvicted s seat then seatFault s sid seat 0x49
      else if (seatSlot s seat).isNone then .done s {}
      else
        let t : Staged := { seat := seat, order := sid, val := v }
        .done { s with coach := { s.coach with staged := s.coach.staged ++ [t] } } {}) s
/-- An access of the stream that a STEPEND waits for (R436). -/
def storesOut (s : State) (sid : Nat) : Bool := s.requests.any fun r => r.sid == sid && !isLoadOp r.op && (match r.op with
  | .crcv _ => false
  | _ => true)
/-- R436: the Coach accepts a STEPEND of the running step and counts any other. -/
def execStepend (tk : Tok) (a : Reg) (s : State) : Out :=
  issue { legal := [3], srcs := [.x a.toNat], waits := true } tk
    (fun s =>
      let sid := s.cur
      let cid := coreOf sid
      let n := readX (streamAt s sid) a.toNat
      if !(coreAt s cid).cmds.isEmpty || storesOut s sid then .stall s
      else withQuiet s sid (fixedScope s cid 7) fun s =>
        let bytes := (coreAt s cid).digest
        let out := if bytes = [] then none else some (shake256 32 bytes)
        let s := modCore s cid fun c => { c with digest := [] }
        let c := if n = stepNo s then { s.coach with ends := s.coach.ends ++ [(cid, out)] }
          else { s.coach with discarded := s.coach.discarded + 1 }
        .done { s with coach := c } {}) s
/-- DIGEST (R439): the bytes are absorbed when it is reached, which a token that is still missing does not delay. -/
def execDigest (tk : Tok) (a b : Reg) (s : State) : Out :=
  issue { legal := [3], srcs := [.x a.toNat, .x b.toNat], waits := true } tk
    (fun s =>
      let sid := s.cur
      let p := readX (streamAt s sid) a.toNat
      let n := (readX (streamAt s sid) b.toNat).toNat
      if workDone (streamAt s sid) then .done s { work := true }
      else if n % 32 ≠ 0 ∨ n = 0 ∨ scratchSize < n then .fault s 0x01 0
      else withCheck s (ownCheck s sid p n 32 false) p fun s => withSync s sid [rangeOf s p n] [] fun s =>
        let bs := ownRead s sid (spOff p) n
        .done (modCore s (coreOf sid) fun c => { c with digest := c.digest ++ bs }) { work := true }) s

/-! ### The KV map (R427) -/

/-- A slot of the KV map. -/
structure KvSlot where
  key : Nat
  del : Bool
  used : Bool
  page : Nat
  valid : Nat
  closed : Bool
  borrowed : Bool
  lender : Nat
  lh : Nat
  scales : List Byte
  first : Nat
  tail : Nat
  next : Nat
  deriving DecidableEq, Repr
def kvSlotOf (bs : List Byte) : KvSlot :=
  { key := bfld bs 0 8 % 2 ^ 52, del := nfld (bfld bs 0 8) 62 62 == 1, used := nfld (bfld bs 0 8) 63 63 == 1
    page := bfld bs 8 8, valid := bfld bs 16 1, closed := bfld bs 17 1 % 2 == 1, borrowed := nfld (bfld bs 17 1) 1 1 == 1
    lender := nfld (bfld bs 17 1) 4 2, lh := nfld (bfld bs 17 1) 6 5, scales := (bs.drop 20).take 8
    first := bfld bs 28 4, tail := bfld bs 32 4, next := bfld bs 48 8 }
def kvBytes (k : KvSlot) : List Byte :=
  leBytes 8 (k.key % 2 ^ 52 + k.del.toNat * 2 ^ 62 + k.used.toNat * 2 ^ 63) ++ leBytes 8 k.page ++
    [BitVec.ofNat 8 k.valid, BitVec.ofNat 8 (k.closed.toNat + 2 * k.borrowed.toNat + k.lender % 8 * 4 + k.lh % 4 * 32), 0, 0] ++
    (k.scales ++ List.replicate 8 0).take 8 ++ leBytes 4 k.first ++ leBytes 4 k.tail ++ List.replicate 12 0 ++
    leBytes 8 k.next ++ List.replicate 8 0
def kvReg (s : State) (d : Nat) : BitVec 64 := areg s (dieBlock d + 0x05000000)
def kvOn (s : State) (d : Nat) : Bool := bitAt (kvReg s d) 0
/-- The PA of slot i. -/
def kvPa (s : State) (d i : Nat) : Nat := fld (kvReg s d) 51 26 * 2 ^ 26 + 64 * (i % 2 ^ 20)
def kvGet (s : State) (pa : Nat) : KvSlot := kvSlotOf (paRead s pa 64 0)
def kvPut (s : State) (pa : Nat) (k : KvSlot) : State := paWrite s pa (kvBytes k) 0
def kvKey (seq layer block : Nat) : Nat := seq % 2 ^ 24 + layer % 2 ^ 8 * 2 ^ 24 + block % 2 ^ 20 * 2 ^ 32
def kvBucket (k : Nat) : Nat := (nfld k 19 0 ^^^ nfld k 39 20 ^^^ nfld k 51 40) % 2 ^ 20
/-- Follow a chain of overflow entries. -/
def kvChain (s : State) (key pa fuel : Nat) : Option Nat :=
  match fuel with
  | 0 => none
  | n + 1 =>
    if pa = 0 then none
    else
      let k := kvGet s pa
      if k.used && !k.del && k.key == key then some pa else kvChain s key k.next n
/-- The PA of a key's slot. -/
def kvFind (s : State) (d key : Nat) : Option Nat :=
  if !kvOn s d then none
  else
    let b := kvBucket key
    match (List.range 8).find? fun i =>
        let k := kvGet s (kvPa s d (b + i))
        k.used && !k.del && k.key == key with
    | some i => some (kvPa s d (b + i))
    | none => kvChain s key (kvGet s (kvPa s d b)).next 1048576
/-- Insert a slot: the first empty or deleted place of the window, or an overflow entry. -/
def kvInsert (s : State) (d : Nat) (k : KvSlot) : Option State :=
  let b := kvBucket k.key
  match (List.range 8).find? fun i =>
      let o := kvGet s (kvPa s d (b + i))
      !o.used || o.del with
  | some i =>
    let pa := kvPa s d (b + i)
    some (kvPut s pa { k with next := (kvGet s pa).next })
  | none =>
    match (dieAt s d).pool.reserve with
    | [] => none
    | pa :: r =>
      let head := kvGet s (kvPa s d b)
      let s := modDie s d fun x => { x with pool := { x.pool with reserve := r } }
      some (kvPut (kvPut s pa { k with next := head.next }) (kvPa s d b) { head with next := pa })
def execKvmap (tk : Tok) (d a : Reg) (s : State) : Out :=
  issue { illegal := !evenPair d, legal := [0], srcs := [.x a.toNat], dsts := groupLocs d.toNat 2, var := true } tk
    (fun s =>
      let key := readX (streamAt s s.cur) a.toNat
      if fld key 63 52 ≠ 0 then .fault s 0x01 0
      else withAcq s fun s => sendLoad s s.cur (pairLocs d.toNat) (mkReq s s.cur (.kvmap key))) s
/-- What KVMAP returns (R437). -/
def kvmapValue (s : State) (d : Nat) (key : Word) : Word × Word :=
  match kvFind s d key.toNat with
  | none => (0, 0)
  | some pa =>
    let k := kvGet s pa
    (BitVec.ofNat 64 (k.page / 65536 * 65536 + k.valid % 128 + k.closed.toNat * 128 + k.lh * 256),
      BitVec.ofNat 64 (leNat k.scales))

/-! ### The pool (R428 to R430) -/

def modPool (s : State) (d : Nat) (f : Pool → Pool) : State := modDie s d fun x => { x with pool := f x.pool }
/-- The die that lent a page to die `l`, if one did. -/
def lenderOf (s : State) (l : Nat) (w : Word) : Option Nat := (List.range 8).find? fun m => (dieAt s m).pool.lent.contains (w, l)
/-- A page that die `d` borrowed goes back to its lender `l`, which may have borrowed it itself. -/
def returnPage (s : State) (d l : Nat) (w : Word) : State :=
  if (dieAt s l).pool.lent.contains (w, d) then
    modPool s l fun p => { p with lent := p.lent.filter (fun e => e != (w, d)), free := p.free ++ [(w, lenderOf s l w)] }
  else s
/-- A page on which die `d` borrowed lies in a chain of loans from the lender `l` up: die `x` is in it, having lent it to `d` or to one
that lent it on. -/
def lentBy (s : State) (x : Nat) (w : Word) (l : Option Nat) (fuel : Nat) : Bool :=
  match fuel, l with
  | n + 1, some l => l == x || lentBy s x w (lenderOf s l w) n
  | _, _ => false
/-- A page goes back from die `d` to its lender `l`, and on to the lender's own lender where the lender has left. -/
def giveBack (s : State) (d l : Nat) (w : Word) (fuel : Nat) : State :=
  match fuel with
  | 0 => s
  | n + 1 =>
    let s := returnPage s d l w
    match lenderOf s l w with
    | some m =>
      if dieServes s l then s else giveBack (modPool s l fun p => { p with free := p.free.erase (w, some m) }) l m w n
    | none => s
/-- A page goes back: to its lender when the borrower then holds more than 128 free pages (R429), or the lender has left. -/
def freePage (s : State) (d page : Nat) (lender : Option Nat) : State :=
  let w : Word := BitVec.ofNat 64 page
  match lender with
  | none => modPool s d fun p => { p with free := p.free ++ [(w, none)] }
  | some l =>
    if 128 < (dieAt s d).pool.free.length + 1 || !dieServes s l then giveBack s d l w 8
    else modPool s d fun p => { p with free := p.free ++ [(w, some l)] }
/-- Own pages are taken before borrowed ones. -/
def takePage (s : State) (d : Nat) : Option ((Word × Option Nat) × State) :=
  let fl := (dieAt s d).pool.free
  match fl.find? (fun e => e.2.isNone) <|> fl.head? with
  | none => none
  | some e => some (e, modPool s d fun p => { p with free := p.free.erase e })
/-- Free a slot: it is marked DEL, and its page goes to the free list. -/
def kvFree (s : State) (d pa : Nat) : State :=
  let k := kvGet s pa
  freePage (kvPut s pa { k with del := true }) d k.page (if k.borrowed then some k.lender else none)
/-- R430 on one die: every slot of a sequence, in the map and in the overflow chains. -/
def kvFreeChain (s : State) (d seq pa fuel : Nat) : State :=
  match fuel with
  | 0 => s
  | n + 1 =>
    if pa = 0 then s
    else
      let k := kvGet s pa
      kvFreeChain (if k.used && !k.del && k.key % 2 ^ 24 == seq then kvFree s d pa else s) d seq k.next n
def kvFreeSeq (s : State) (seq : Nat) : State :=
  forN 8 (fun d s =>
    if !kvOn s d then s
    else forN 1048576 (fun i s =>
      let k := kvGet s (kvPa s d i)
      kvFreeChain (if k.used && !k.del && k.key % 2 ^ 24 == seq then kvFree s d (kvPa s d i) else s) d seq k.next 1048576) s) s
/-- A slot in use of a die's map, in the array or in an overflow chain, has a property. -/
def kvAnyChain (s : State) (p : KvSlot → Bool) (pa fuel : Nat) : Bool :=
  match fuel with
  | 0 => false
  | n + 1 => pa != 0 && (let k := kvGet s pa
    (k.used && !k.del && p k) || kvAnyChain s p k.next n)
def kvAny (s : State) (d : Nat) (p : KvSlot → Bool) : Bool :=
  kvOn s d && (List.range 1048576).any fun i =>
    let k := kvGet s (kvPa s d i)
    (k.used && !k.del && p k) || kvAnyChain s p k.next 1048576
def kvSeqIs (seq : Nat) (k : KvSlot) : Bool := k.key % 2 ^ 24 == seq
/-- The sequences that have a slot in an overflow chain, or anywhere in the maps. -/
def kvChainSeqs (s : State) (pa fuel : Nat) : List Nat :=
  match fuel with
  | 0 => []
  | n + 1 =>
    if pa = 0 then []
    else
      let k := kvGet s pa
      (if k.used && !k.del then [k.key % 2 ^ 24] else []) ++ kvChainSeqs s k.next n
def kvSeqs (s : State) : List Nat :=
  (((List.range 8).filter (kvOn s)).flatMap fun d => (List.range 1048576).flatMap fun i =>
    let k := kvGet s (kvPa s d i)
    (if k.used && !k.del then [k.key % 2 ^ 24] else []) ++ kvChainSeqs s k.next 1048576).eraseDups
/-- The neighbour asked: +x, +y, +z (R428). -/
def askedDie (d dir : Nat) : Nat := d ^^^ 2 ^ dir
/-- KV_LEND_REQUEST: the neighbour takes the request in hand, and lends 64 pages when it keeps at least 128 (R428). DESIGN CHOICE
(log entry 124): it lends its own pages first, and then pages that it has borrowed itself. -/
def kvLendRequest (s : State) (d : Nat) : State :=
  let p := (dieAt s d).pool
  match p.ask, p.reply with
  | some dir, none =>
    let n := askedDie d dir
    let fl := (dieAt s n).pool.free
    if fl.length < 192 then modPool s d fun q => { q with reply := some [] }
    else
      let pages := (((fl.filter fun e => e.2.isNone) ++ fl.filter fun e => e.2.isSome).take 64).map fun e => e.1
      let s := modPool s n fun q =>
        { q with
          free := q.free.filter fun e => !pages.contains e.1
          lent := q.lent ++ pages.map fun w => (w, d) }
      modPool s d fun q => { q with reply := some pages }
  | _, _ => s
def execKvLendRequest (die : Nat) (s : State) : Out := .next (if die < 8 then kvLendRequest s die else s)

/-! ### KVAPP (R425, R426, R438) -/

/-- The completion word of a KVAPP: no waymark, and a semaphore only with an increment. -/
def kvCompOk (w : Word) : Bool :=
  fld w 63 56 == 0 && fld w 39 37 == 0 && compWm w == 0 && (compInc w != 0 || compSem w == 0)
def execKvapp (tk : Tok) (b : Reg) (s : State) : Out :=
  issue { illegal := badQuad b, legal := [3], srcs := [.xs b.toNat 4] } tk
    (fun s =>
      let sid := s.cur
      let ops := quadOf (streamAt s sid) b
      let q := ops.getD 1 0
      let n := fld q 6 0
      let p := ops.getD 2 0
      if fld (ops.getD 0 0) 63 32 ≠ 0 ∨ n = 0 ∨ 64 < n ∨ fld q 31 18 ≠ 0 ∨ !kvCompOk (ops.getD 3 0) then .fault s 0x01 0
      else withCheck s (ownCheck s sid p (n * 2048) 32 false) p fun s =>
        issueCmd s sid (.kvapp tk b) ops [] [rangeOf s p (n * 2048)] [] 9 none) s
/-- A power of two that is at least 4m/448, as its exponent (R426); `m` is ±k·2^e. -/
def kvScaleExp (k : Nat) (e : Int) : Int :=
  if k = 0 then 0
  else
    -- the least x with k·2^e·4 ≤ 448·2^x: k·2^(e−x) ≤ 112
    let top : Int := e + (Nat.log2 k : Int) - 6
    let fits (x : Int) : Bool :=
      if e ≤ x then decide (k ≤ 112 * 2 ^ (x - e).toNat) else decide (k * 2 ^ (e - x).toNat ≤ 112)
    let x := if fits (top - 1) then top - 1 else if fits top then top else top + 1
    Max.max (-127) (Min.min 127 x)
/-- The elements of head h of a row of 1,024 BF16 values: K, then V. -/
def headElems (src : List Byte) (lh h : Nat) : List Nat :=
  let n := 512 / 2 ^ lh
  (List.range n).map (fun j => bfld src (2 * (h * n + j)) 2) ++ (List.range n).map fun j => bfld src (1024 + 2 * (h * n + j)) 2
/-- The largest finite magnitude of a head. -/
def headMax (src : List Byte) (lh h : Nat) : Nat × Int :=
  (headElems src lh h).foldl (fun (m : Nat × Int) b =>
    match fltVal fBF16 b with
    | .fin _ k e => if xcmp (.fin false m.1 m.2) (.fin false k e) == .lt then (k, e) else m
    | _ => m) (0, 0)
def headScale (src : List Byte) (lh h : Nat) : Byte :=
  let m := headMax src lh h
  BitVec.ofInt 8 (kvScaleExp m.1 m.2 + 127)
/-- A head whose largest magnitude exceeds 448 · 2^e. -/
def headBreaks (src : List Byte) (lh : Nat) (scales : List Byte) : Bool :=
  (List.range (2 ^ lh)).any fun h =>
    let m := headMax src lh h
    xcmp (.fin false 448 ((scales.getD h 0).toNat - 127 : Int)) (.fin false m.1 m.2) == .lt
/-- A row as it is stored (R425, R426). -/
def kvRow (src : List Byte) (lh : Nat) (scales : List Byte) : List Byte :=
  let n := 512 / 2 ^ lh
  (List.range 1024).map fun i =>
    let e : Int := (scales.getD (i % 512 / n) 0).toNat - 127
    let x := match fltVal fBF16 (bfld src (2 * i) 2) with
      | .fin neg m f => .fin neg m (f - e)
      | y => y
    BitVec.ofNat 8 (convertF fE4M3 0 x).1
/-- The slot of the block that TAIL names. -/
def kvTail (s : State) (d seq layer : Nat) : Option (Nat × Nat) :=
  match kvFind s d (kvKey seq layer 0) with
  | none => none
  | some p0 =>
    let t := (kvGet s p0).tail
    (kvFind s d (kvKey seq layer t)).map fun pa => (t, pa)
/-- Set TAIL, which the block 0 slot holds. -/
def kvSetTail (s : State) (d seq layer t : Nat) : State :=
  match kvFind s d (kvKey seq layer 0) with
  | some p0 => kvPut s p0 { kvGet s p0 with tail := t }
  | none => s
/-- Drop the blocks from the tail down whose first position is at or above pos. -/
def kvDrop (s : State) (d seq layer pos fuel : Nat) : State :=
  match fuel with
  | 0 => s
  | n + 1 =>
    match kvTail s d seq layer with
    | none => s
    | some (t, pa) =>
      if pos ≤ (kvGet s pa).first then
        let s := kvFree s d pa
        if t = 0 then s else kvDrop (kvSetTail s d seq layer (t - 1)) d seq layer pos n
      else s
/-- R438: truncation to pos. -/
def kvTruncate (s : State) (d seq layer pos : Nat) : State :=
  match kvTail s d seq layer with
  | none => s
  | some (t, pa) =>
    let k := kvGet s pa
    if k.first + k.valid ≤ pos then s
    else
      let s := kvDrop s d seq layer pos (t + 1)
      match kvTail s d seq layer with
      | none => s
      | some (_, pa) =>
        let k := kvGet s pa
        if pos < k.first + k.valid then kvPut s pa { k with valid := pos - k.first, closed := false } else s
/-- How a KVAPP goes on after a row: the next row, waiting for a lender, a failed allocation, or a fault. -/
inductive KvGo where
  | next | wait | dry | fault (code : BitVec 8) (va : Word)
  deriving DecidableEq, Repr
/-- A page for the row, opened as the next block: R428 asks the neighbours while the list is empty. -/
def kvOpen (s : State) (cid : Nat) (k : Cmd) (src : List Byte) (lh p block : Nat) : KvGo × State :=
  let d := dieOf cid
  let seq := fld (k.ops.getD 0 0) 23 0
  let layer := fld (k.ops.getD 0 0) 31 24
  if !kvOn s d then (.dry, s)
  else match takePage s d with
    | none =>
      if (dieAt s d).pool.ask.isSome then (.wait, s)
      else (.wait, modPool s d fun q => { q with ask := some 0, reply := none, waiter := some (cid, k.seq) })
    | some ((page, lender), s1) =>
      let slot : KvSlot :=
        { key := kvKey seq layer block, del := false, used := true, page := page.toNat, valid := 0, closed := false
          borrowed := lender.isSome, lender := lender.getD 0, lh := lh
          scales := (List.range 8).map fun h => if h < 2 ^ lh then headScale src lh h else 0
          first := p, tail := 0, next := 0 }
      match kvInsert s1 d slot with
      | none => (.dry, s)
      | some s2 => (.next, kvSetTail s2 d seq layer block)
/-- A row of a page is written: the valid count rises (R438). -/
def kvCount (s : State) (pa : Nat) : State := kvPut s pa { kvGet s pa with valid := (kvGet s pa).valid + 1 }
/-- Row r of a KVAPP (R438). Where its page lies in another package its writes are answered before the valid count rises:
until then the command waits in stage 1. -/
def kvRowStep (s : State) (cid : Nat) (k : Cmd) (r : Nat) : KvGo × State :=
  let d := dieOf cid
  let seq := fld (k.ops.getD 0 0) 23 0
  let layer := fld (k.ops.getD 0 0) 31 24
  let q := k.ops.getD 1 0
  let lh := fld q 8 7
  let p := fld q 63 32 + r
  let src := mread (coreAt s cid).scratch (spOff (k.ops.getD 2 0) + 2048 * r) 2048
  let write (s : State) : KvGo × State :=
    match kvTail s d seq layer with
    | none => (.dry, s)
    | some (_, pa) =>
      let t := kvGet s pa
      let va := t.page + (p - t.first) * 1024
      let row := kvRow src lh t.scales
      let out := (List.range 32).foldl (fun (a : Except (BitVec 8 × Word) Unit × State) i =>
        match a.1 with
        | .error _ => a
        | .ok _ => cmdWrite a.2 cid (agentOf cid k.seq) (va + 32 * i) [(0, (row.drop (32 * i)).take 32)]) (.ok (), s)
      match out with
      | (.error e, s) => (.fault e.1 e.2, s)
      | (.ok _, s) =>
        if remoteOut s (.cmd cid k.seq 4) then (.wait, modCmd s cid k.seq fun c => { c with stage := 1 })
        else (.next, kvCount s pa)
  match kvTail s d seq layer with
  | none =>
    match kvOpen s cid k src lh p 0 with
    | (.next, s) => write s
    | o => o
  | some (block, pa) =>
    let t := kvGet s pa
    if k.stage = 1 then (if remoteOut s (.cmd cid k.seq 4) then (.wait, s) else (.next, kvCount s pa))
    else if t.valid = 64 || t.closed || t.lh != lh || p != t.first + t.valid || headBreaks src lh t.scales then
      let s := if t.valid < 64 then kvPut s pa { t with closed := true } else s
      match kvOpen s cid k src lh p (block + 1) with
      | (.next, s) => write s
      | o => o
    else write s
/-- The end of a KVAPP: it retires, and its increment takes place (R438). -/
def kvFinish (s : State) (cid : Nat) (k : Cmd) : State :=
  let w := k.ops.getD 3 0
  if remoteOut s (.cmd cid k.seq 4) then s
  else if incHeld s cid cid (compSem w) (compInc w) then heldByQueue s cid
  else
  let s := retireCmd s cid k.seq
  if compInc w = 0 then s else engineInc s cid k.seq 4 cid (compSem w) (compInc w) .cluster true
/-- A class 3 fault of a KVAPP (R421): it names the seat, the Coach is told of KV Pool Dry (R422), and the command
retires. It is raised once the command can retire with it. -/
def kvSeatFault (s : State) (cid : Nat) (k : Cmd) (code : BitVec 8) : State :=
  let d := dieOf cid
  let seat := fld (k.ops.getD 1 0) 17 9
  let w := k.ops.getD 3 0
  if !canRaise s d then setExstat s d 8
  else
    let t := if code = 0x48 then { s with coach := { s.coach with dry := s.coach.dry ++ [(seat, d)] } } else s
    let t := raise t { coreFault cid 4 k.seq code 0 s with seat := seat }
    if remoteOut s (.cmd cid k.seq 4) then s
    else if incHeld t cid cid (compSem w) (compInc w) then heldByQueue s cid
    else kvFinish t cid k
/-- A KVAPP begins: its sequence is cut back to its first position (R438). -/
def kvBegin (s : State) (cid : Nat) (k : Cmd) : State :=
  if k.start then s
  else kvTruncate (modCmd s cid k.seq fun c => { c with start := true }) (dieOf cid) (fld (k.ops.getD 0 0) 23 0)
    (fld (k.ops.getD 0 0) 31 24) (fld (k.ops.getD 1 0) 63 32)
/-- `n` rows of a KVAPP from the next one on, up to one that waits or fails; each row done counts on. -/
def kvRows (s : State) (cid : Nat) (k : Cmd) (n : Nat) : KvGo × State :=
  (List.range n).foldl (fun (a : KvGo × State) i =>
    match a.1 with
    | .next =>
      let (g, s) := kvRowStep a.2 cid { k with stage := if i = 0 then k.stage else 0 } (k.next + i)
      (g, if g = .next then modCmd s cid k.seq fun c => { c with next := k.next + i + 1, stage := 0 } else s)
    | _ => a) (KvGo.next, s)
/-- The rows of a KVAPP that are still to do. -/
def kvLeft (k : Cmd) : Nat := fld (k.ops.getD 1 0) 6 0 - k.next
/-- The allocation of a KVAPP has failed (R428): it stops with KV Pool Dry, which it owes until the fault can be raised. -/
def kvDry (s : State) (cid : Nat) (k : Cmd) : State :=
  kvSeatFault (modCmd s cid k.seq fun c => { c with err := true }) cid k 0x48
/-- A KVAPP that waits for a lender, or stops. -/
def kvStop (s : State) (cid : Nat) (k : Cmd) (g : KvGo) : State :=
  match g with
  | .dry => kvDry s cid k
  | .fault c va => engineFail s cid k.seq 4 c va (fld (k.ops.getD 1 0) 17 9)
  | .next | .wait => s
/-- COMMAND_RETIRE of a KVAPP: its rows from the next one on, then its end. -/
def kvappRun (s : State) (cid : Nat) (k : Cmd) : State :=
  let seat := fld (k.ops.getD 1 0) 17 9
  if seatEvicted s seat then kvSeatFault s cid k 0x49
  else if k.err then kvDry s cid k
  else if k.supp.contains seat then kvFinish s cid k
  else
    match kvRows (kvBegin s cid k) cid k (kvLeft k) with
    | (.next, s) => kvFinish s cid k
    | (g, s) => kvStop s cid k g
/-- The pages of a lender are there: the KVAPP that asked allocates one for its row at once (R428), unless its seat was
evicted, and no later allocation comes before it. -/
def kvServe (s : State) (cid : Nat) (k : Cmd) : State :=
  if seatEvicted s (fld (k.ops.getD 1 0) 17 9) then s
  else
    let (g, s) := kvRows s cid k 1
    kvStop s cid k g
/-- KV_LEND_REPLY: the neighbour's answer arrives (R428): pages, or the next neighbour, or KV Pool Dry. -/
def kvLendReply (s : State) (d : Nat) : State :=
  let p := (dieAt s d).pool
  match p.ask, p.reply with
  | some dir, some [] =>
    if dir < 2 then modPool s d fun q => { q with ask := some (dir + 1), reply := none }
    else
      forWaiter (modPool s d fun q => { q with ask := none, reply := none, waiter := none }) p.waiter kvDry
  | some dir, some pages =>
    forWaiter (modPool s d fun q =>
      { q with
        ask := none, reply := none, waiter := none
        free := q.free ++ pages.map fun w => (w, some (askedDie d dir)) }) p.waiter kvServe
  | _, _ => s
where
  forWaiter (s : State) (w : Option (Nat × BitVec 32)) (f : State → Nat → Cmd → State) : State :=
    match w.bind fun w => (cmdAt s w.1 w.2).map fun k => (w.1, k) with
    | some (cid, k) => f s cid k
    | none => s
def execKvLendReply (die : Nat) (s : State) : Out := .next (if die < 8 then kvLendReply s die else s)

end Sys2Proof.Machine
end

