-- ==== Sys2Proof/Machine/Legs.lean ====
section
/-! DEFINITION. Legs on the die: the fault queue and its resolution (R363 to R366), the dispatcher (R341 to R348), the
start and the end of a leg (R349, R350, R336), pre-emption (R353, R354, R56 to R58), the clocks (R344, R351, R401, R466)
and the send tables (R254, R255). -/
namespace Sys2Proof.Machine

/-! ### The fault queue (R363, R364) -/

def fqRegs (d : Nat) : Nat := dieBlock d + 0x02000200
/-- A fault queue entry as it is written (R364). -/
def entryBytes (e : Entry) : List Byte :=
  [e.code, BitVec.ofNat 8 e.cls, BitVec.ofNat 8 e.die, BitVec.ofNat 8 e.core, BitVec.ofNat 8 e.agent, BitVec.ofNat 8 e.gang] ++
    leBytes 2 e.seat ++ leBytes 8 e.va.toNat ++ leBytes 4 e.pc.toNat ++ leBytes 4 e.leg.toNat ++ leBytes 6 e.tick.toNat ++
    leBytes 2 (e.seq % 2 ^ 15 + e.dup.toNat * 2 ^ 15)
/-- An entry as it is posted: DUP of a translation fault, while an earlier one of the same context and page is unresolved
(R359). -/
def withDup (d : Die) (e : Entry) : Entry :=
  let page := fld e.va 55 14
  { e with dup := isTranslation e.code && (d.unresolved.takeWhile fun x => x.seq != e.seq).any fun x =>
      isTranslation x.code && x.ctx == e.ctx && fld x.va 55 14 == page }
/-! ### The join object (R336) -/

/-- The bytes of a join object after a child has ended. -/
def joinBytes (bs : List Byte) (code : Option (BitVec 8)) (leg : BitVec 32) : List Byte :=
  let n := bfld bs 0 4
  let f := bfld bs 5 1
  let under := if n = 0 then f / 4 * 4 + f % 2 + 2 else f
  let bs := patch (patch bs 0 (leBytes 4 (n - 1))) 5 (leBytes 1 under)
  match code with
  | none => bs
  | some c => if f % 2 = 1 then bs else patch (patch (patch bs 4 [c]) 5 (leBytes 1 (under / 2 * 2 + 1))) 8 (leBytes 4 leg.toNat)
/-- The update at the object's home, under the ended leg's translation, which needs R and W; a tracked request for an object
in another package, and `none` where that waits (R457). The fault's code and VA field. -/
def joinUpdate (s : State) (die gang ctx : Nat) (va : Word) (code : Option (BitVec 8)) (leg : BitVec 32) :
    Except (BitVec 8 × Word) (Option State) :=
  if va = 0 then .ok (some s)
  else match walkAccess s die ctx va .wr with
    | .error e => .error e
    | .ok x =>
      if !dieReaches s die x.pa then .error (0xF0, BitVec.ofNat 64 x.pa)
      else .ok (hwPut s (globalDie s die) x (joinBytes (paRead s x.pa 16 (leafKey x.via.leaf)) code leg) (.join die gang leg ctx))

/-! ### Resolving an entry (R365, R366, R421) -/

/-- The entries of a die that were posted and are unresolved. -/
def postedOpen (s : State) (d : Nat) : List Entry :=
  (dieAt s d).unresolved.filter fun e => !(dieAt s d).unposted.any fun x => x.seq == e.seq
def findEntry (s : State) (d seq : Nat) : Option Entry := (postedOpen s d).find? fun e => e.seq == seq
/-- A trapped stream whose entry was retried (R66): the TRAP is complete, and its pushes take place. -/
def endTrap (s : State) (d q : Nat) : State :=
  (s.streams.filter fun e => !isSW e.1 && dieOf (coreOf e.1) == d).foldl (fun s e =>
    match e.2.phase with
    | .trapped n tk =>
      if n = q then
        let s := modStream s e.1 fun st => { st with phase := .running }
        retire s s e.1 tk {}
      else s
    | _ => s) s
/-- What held for an entry goes on: its command, its access, whose write is outstanding again, the leg's start, save or
end, its stream (R17, R48, R66). -/
def unhold (s : State) (d q : Nat) : State :=
  let held (r : Req) : Bool := r.hold == some q && !isSW r.sid && dieOf (coreOf r.sid) == d
  let s := (s.requests.filter held).foldl (fun s r => match r.outst with
    | some o => modStream s r.sid fun st => { st with outst := st.outst ++ [{ id := o, regs := r.regs, val := none }] }
    | none => s) s
  let s := { s with
    requests := mapIf held (fun r => { r with hold := none, regs := [] }) s.requests
    cores := s.cores.map fun c => if dieOf c.1 = d then
        (c.1, { c.2 with cmds := mapIf (fun k => k.hold == some q) (fun k => { k with hold := none }) c.2.cmds }) else c
    gangs := s.gangs.map fun g => if g.1 / 64 = d ∧ g.2.hold = some q then (g.1, { g.2 with hold := none }) else g }
  endTrap s d q
def dropEntry (s : State) (d q : Nat) : State :=
  modDie s d fun x => { x with unresolved := x.unresolved.filter fun e => e.seq != q }
/-- An entry is resolved by RETRY. -/
def retryOne (s : State) (d : Nat) (e : Entry) : State :=
  let s := unhold (dropEntry s d e.seq) d e.seq
  if e.agent < 4 ∧ e.core < 64 then
    modStream s (4 * (64 * d + e.core) + e.agent) fun st => { st with sstat := setFld st.sstat 7 0 e.code.toNat }
  else s
/-- Gangs that became resumable through one write, in ascending gang id (R366). -/
def wake (s : State) (d : Nat) (gs : List Nat) : State :=
  let free := (List.range 64).filter fun g => gs.contains g && !((dieAt s d).unresolved.any fun e => e.gang == g) &&
    !(dieAt s d).resumable.contains g && (match gangAt s (64 * d + g) with
      | some x => x.stalled
      | none => false)
  modDie s d fun x => { x with resumable := x.resumable ++ free }
/-- A join update of a removed record, for which no cores are held, is made again (R336, R341). It may fault again, and after
a translation fault it waits for the entry; it waits besides while the queue is full or a tracked request finds no room. -/
def retryOrphan (s : State) (d : Nat) (o : Option Nat × Nat × Word × BitVec 32) : State :=
  let keep (s : State) (q : Option Nat) : State := modDie s d fun x => { x with orphans := x.orphans ++ [(q, o.2)] }
  match joinUpdate s d 0xFF o.2.1 o.2.2.1 (some 0x01) o.2.2.2 with
  | .ok (some s) => s
  | .ok none => keep s none
  | .error (c, va) =>
    let q := nextEntry s d
    let f : FaultInfo :=
      { die := d, agent := 4, code := c, va := va, leg := o.2.2.2, ctx := o.2.1
        tick := (areg s (dtickPa d)).setWidth 48 }
    if !canRaise s d then keep (setExstat s d 8) none
    else if classOf c = 1 then keep (raise s f) (some q)
    else raise s f
/-- The join updates that were held back are made: once an entry can be raised again (R363), or once a tracked request was
answered (R457). -/
def heldOrphans (s : State) (d : Nat) : State :=
  let mine := (dieAt s d).orphans.filter fun o => o.1.isNone
  mine.foldl (fun s o => retryOrphan s d o) (modDie s d fun x => { x with orphans := x.orphans.filter fun o => o.1.isSome })
/-- FAULT_ENTRY_POST: the oldest entry that waits is written, once there is room, and, where the queue lies in the window of a
host link, once the link is trained: an entry for that could not be read (log entry 105). -/
def faultEntryPost (s : State) (d : Nat) : State :=
  match (dieAt s d).unposted with
  | [] => s
  | e :: r =>
    if !ringEn s (fqRegs d) || !ringRoom s (fqRegs d) || !hostUp s (ringPa s (fqRegs d) 32 (ringTail s (fqRegs d))) then s
    else
      let e := withDup (dieAt s d) e
      let s := modDie (ringPush s (fqRegs d) (entryBytes e)) d fun x =>
        { x with unposted := r, unresolved := mapIf (fun y => y.seq == e.seq) (fun _ => e) x.unresolved }
      let s := msixAll (eventAll s (8 + d)) d
      heldOrphans (if e.code = 0x3A then eventAll s 5 else s) d
def execFaultEntryPost (die : Nat) (s : State) : Out := .next (if die < 8 then faultEntryPost s die else s)

/-- Join updates of removed records whose entry is no longer unresolved: made again, or dropped. -/
def settleOrphans (s : State) (d : Nat) (again : Bool) (qs : List Nat) : State :=
  let named (o : Option Nat × Nat × Word × BitVec 32) : Bool := qs.any fun q => o.1 == some q
  let mine := (dieAt s d).orphans.filter named
  let s := modDie s d fun x => { x with orphans := x.orphans.filter fun o => !named o }
  if again then mine.foldl (fun s o => retryOrphan s d o) s else s
def ignoredResolve (s : State) (d : Nat) : State := countIgnored (setExstat s d 16) d
def resolveRetry (s : State) (d seq : Nat) : State :=
  match findEntry s d seq with
  | none => ignoredResolve s d
  | some e =>
    let page := fld e.va 55 14
    let later := ((postedOpen s d).dropWhile fun x => x.seq != seq).drop 1
    let dups := if isTranslation e.code then
        later.filter fun x => x.dup && isTranslation x.code && x.ctx == e.ctx && fld x.va 55 14 == page else []
    let s := (e :: dups).foldl (fun s x => retryOne s d x) s
    wake (settleOrphans s d true ((e :: dups).map fun x => x.seq)) d ((e :: dups).map fun x => x.gang)
def execResolveRetry (die : Nat) (seq : BitVec 15) (s : State) : Out :=
  .next (if die < 8 then resolveRetry s die seq.toNat else s)
/-- KILL: the leg is killed with the entry's code; an entry of a leg's end drops the join update (R336). -/
def killEntry (s : State) (d : Nat) (e : Entry) : State :=
  if 64 ≤ e.gang then settleOrphans (dropEntry s d e.seq) d false [e.seq]
  else
    let g := 64 * d + e.gang
    match gangAt s g with
    | some x =>
      if x.phase = .dying ∧ x.hold = some e.seq then
        modGang (dropEntry s d e.seq) g fun x => { x with hold := none, dropJoin := true, stalled := false }
      else killLeg (dropEntry s d e.seq) g e.code
    | none => dropEntry s d e.seq
def resolveKill (s : State) (d seq : Nat) : State :=
  match findEntry s d seq with
  | none => ignoredResolve s d
  | some e => killEntry s d e
def execResolveKill (die : Nat) (seq : BitVec 15) (s : State) : Out :=
  .next (if die < 8 then resolveKill s die seq.toNat else s)
/-- A copy that a seat fault stopped sets ERR in the waymark it names (R105). -/
def seatErr (s : State) (d q : Nat) : State :=
  (s.cores.filter fun c => dieOf c.1 == d).foldl (fun s c => (c.2.cmds.filter fun k => k.hold == some q).foldl (fun s k =>
    if k.engine = 4 && compKind k.ins % 2 = 1 then wayErr s c.1 (cmdWay k) else s) s) s
/-- SEAT (R421): a translation fault that names a seat replays with the seat's part suppressed; any other entry is
killed. -/
def resolveSeat (s : State) (d seq : Nat) : State :=
  match findEntry s d seq with
  | none => ignoredResolve s d
  | some e =>
    if !isTranslation e.code || e.seat == 0xFFFF then killEntry s d e
    else
      let s := seatErr s d e.seq
      let s := { s with
        cores := s.cores.map fun c => if dieOf c.1 = d then
            (c.1, { c.2 with cmds := mapIf (fun k => k.hold == some e.seq) (fun k => { k with supp := k.supp ++ [e.seat] }) c.2.cmds })
          else c
        coach := { s.coach with seatFaults := s.coach.seatFaults ++ [(e.seat, e.code)] } }
      wake (unhold (dropEntry s d e.seq) d e.seq) d [e.gang]
def execResolveSeat (die : Nat) (seq : BitVec 15) (s : State) : Out :=
  .next (if die < 8 then resolveSeat s die seq.toNat else s)
/-- GANG_RESUME: the next resumable gang of a die, unless a fault was raised for it since. A pre-emption requested during the
freeze is pending from then on (R58). -/
def gangResume (s : State) (d g : Nat) : State :=
  match (dieAt s d).resumable with
  | [] => s
  | h :: r =>
    if h ≠ g then s
    else
      let s := modDie s d fun x => { x with resumable := r }
      if (dieAt s d).unresolved.any fun e => e.gang == g then s
      else modGang s (64 * d + g) fun x => { x with stalled := false, preempt := x.preempt || x.asked, asked := false }
def execGangResume (die gang : Nat) (s : State) : Out := .next (gangResume s die gang)

/-! ### Clocks -/

/-- R351: the counter of a running gang advances and stays at 2^48 − 1. -/
def execScheduleCounterTick (die gang : Nat) (s : State) : Out :=
  .next (modGang s (64 * die + gang) fun x =>
      if x.phase = .running ∧ !x.stalled ∧ x.tick ≠ BitVec.allOnes 48 then { x with tick := x.tick + 1 } else x)
/-- A 48-bit count in an Atlas register advances. -/
def tickReg (s : State) (pa : Nat) : State := setAreg s pa (BitVec.ofNat 64 ((fld (areg s pa) 47 0 + 1) % 2 ^ 48))
def execDtickTick (die : Nat) (s : State) : Out := .next (if 8 ≤ die then s else tickReg s (dtickPa die))
def execStickTick (s : State) : Out :=
  .next (forN 32 (fun n s => modSteward s n fun w => { w with stick := BitVec.ofNat 64 ((w.stick.toNat + 1) % 2 ^ 48) }) s)

/-! ### The code image (R482 to R484) -/

/-- What a member loads. -/
structure Image where
  segs : List (List Byte)
  logs : List Nat
  safe : List (List (BitVec 512))
  bufs : List (Nat × Nat × List Byte)
  mems : List MemBuf
  deriving DecidableEq, Repr
/-- Where the rings lie (R478). -/
def ringBases (logs : List Nat) : List Nat :=
  (logs.foldl (fun (a : List Nat × Nat) l =>
    let n := 4 * 2 ^ l
    let b := ceilDiv a.2 n * n
    (a.1 ++ [b], b + n)) ([], 0)).1
/-- The header and its four stream records keep the rules of R482 and agree with the record. -/
def headerOk (h rec : List Byte) : Bool :=
  bfld h 0 4 == 1 && bfld h 4 1 == recShape rec % 8 && bfld h 5 1 == nfld (recShape rec) 4 3 &&
    bfld h 6 1 == nfld (recShape rec) 19 19 && bfld h 7 1 == 0 && bfld h 80 48 == 0 && (List.range 4).all fun k =>
      let o := 16 + 16 * k
      let l := bfld h (o + 8) 1
      decide (10 ≤ l ∧ l ≤ 16) && bfld h (o + 9) 1 == 0 && decide (bfld h (o + 4) 4 ≤ 2 ^ l)
/-- A buffer record keeps the rules of R483. -/
def bufRecOk (b : List Byte) : Bool :=
  bfld b 2 6 == 0 && decide (bfld b 28 4 ≤ bfld b 16 8) && (match bfld b 0 1 with
    | 0 => bfld b 1 1 == 0
    | 1 => decide (bfld b 1 1 ≤ 4) && bfld b 28 4 == 0
    | _ => false)
/-- No two of the runs meet, and none passes 2 MiB (R478). -/
def runsOk (rs : List (Nat × Nat)) : Bool :=
  match rs with
  | [] => true
  | (o, n) :: r => decide (o + n ≤ scratchSize) && r.all (fun q => decide (o + n ≤ q.1 ∨ q.1 + q.2 ≤ o) || n == 0 || q.2 == 0) && runsOk r
/-- A run of reads of the code image, by offset and length: the first fault, or the bytes of each. -/
def imageReads (s : State) (cid ctx va : Nat) (l : List (Nat × Nat)) : Except (BitVec 8 × Word) (List (List Byte)) × State :=
  l.foldl (fun (a : Except (BitVec 8 × Word) (List (List Byte)) × State) p =>
    match a with
    | (.error e, s) => (.error e, s)
    | (.ok bs, s) =>
      match vaRead s cid ctx (BitVec.ofNat 64 (va + p.1)) p.2 .xe with
      | (.error e, s) => (.error e, s)
      | (.ok v, s) => (.ok (bs ++ [v]), s)) (.ok [], s)
/-- Read and check the code image for a member. -/
def readImage (s : State) (cid ctx : Nat) (rec : List Byte) : Except (BitVec 8 × Word) Image × State :=
  let va := bfld rec 0 8
  let bad : Except (BitVec 8 × Word) Image := .error (0x01, BitVec.ofNat 64 va)
  match imageReads s cid ctx va [(0, 128)] with
  | (.error e, s) => (.error e, s)
  | (.ok hs, s) =>
    let h := hs.getD 0 []
    if !headerOk h rec then (bad, s)
    else
      let recs := (List.range (bfld h 8 4)).map fun i => (bfld h 12 4 + 32 * i, 32)
      match imageReads s cid ctx va recs with
      | (.error e, s) => (.error e, s)
      | (.ok bs, s) =>
        let sb := bs.filter fun b => bfld b 0 1 == 0
        let logs := (List.range 4).map fun k => bfld h (24 + 16 * k) 1
        let runs := ((ringBases logs).zip logs).map (fun p => (p.1, 4 * 2 ^ p.2)) ++ sb.map fun b => (bfld b 8 8, bfld b 16 8)
        if !(bs.all bufRecOk && runsOk runs) then (bad, s)
        else
          let segs := (List.range 4).map fun k => (bfld h (16 + 16 * k) 4, 4 * bfld h (20 + 16 * k) 4)
          let safe := (List.range 4).map fun k => (bfld h (28 + 16 * k) 4, 64 * bfld h (26 + 16 * k) 2)
          let data := sb.map fun b => (bfld b 24 4, bfld b 28 4)
          match imageReads s cid ctx va (segs ++ safe ++ data) with
          | (.error e, s) => (.error e, s)
          | (.ok all, s) =>
            let table (bs : List Byte) : List (BitVec 512) :=
              (List.range (bs.length / 64)).map fun i => BitVec.ofNat 512 (bfld bs (64 * i) 64)
            (.ok
              { segs := all.take 4, logs := logs, safe := ((all.drop 4).take 4).map table
                bufs := (sb.zip (all.drop 8)).map fun p => (bfld p.1 8 8, bfld p.1 16 8, p.2)
                mems := (bs.filter fun b => bfld b 0 1 == 1).map fun b =>
                  { off := bfld b 8 8, size := bfld b 16 8, page := 2 ^ pageBits (bfld b 1 1) } }, s)

/-! ### Leg start -/

/-- The bytes of a code ring (R43). -/
def ringFill (log : Nat) (seg : List Byte) : List Byte :=
  seg ++ ((List.range (2 ^ log - seg.length / 4)).flatMap fun _ => leBytes 4 0x3000)
/-- A member at leg start (R43, R91, R96, R99, R414): what belongs to the part and not to the leg stays. -/
def loadedCore (c : Core) (im : Image) (seatVa : Word) (seats : List Byte) : Core :=
  let bases := ringBases im.logs
  let m := (List.range 4).foldl (fun m k => mwrite m (bases.getD k 0) (ringFill (im.logs.getD k 10) (im.segs.getD k []))) ([] : Memory)
  let m := im.bufs.foldl (fun m b => mwrite m b.1 b.2.2) m
  { Core.zero with
    scratch := m
    ringBase := #v[bases.getD 0 0, bases.getD 1 0, bases.getD 2 0, bases.getD 3 0]
    ringLog := #v[im.logs.getD 0 0, im.logs.getD 1 0, im.logs.getD 2 0, im.logs.getD 3 0]
    safe := #v[im.safe.getD 0 [], im.safe.getD 1 [], im.safe.getD 2 [], im.safe.getD 3 []]
    memBufs := im.mems, seatVa := seatVa, seatMap := seats
    tlb := c.tlb, scopeCache := c.scopeCache, gang := c.gang, offline := c.offline }
/-- The seat-map cache (R414): zeros for a VA of 0. -/
def readSeats (s : State) (cid ctx : Nat) (va : Word) : Except (BitVec 8 × Word) (List Byte) × State :=
  if va = 0 then (.ok [], s) else vaRead s cid ctx va 8256 .rd
/-- A stream at leg start (R45). -/
def startStream (x : Gang) (rank : Nat) : Stream :=
  let r (v : Vector Word 28) (i n : Nat) : Vector Word 28 := vset v i (BitVec.ofNat 64 n)
  { Stream.zero with
    phase := .running
    x := r (r (r (r (r (r (r Stream.zero.x 1 rank) 2 (x.w + 256 * x.h)) 3 x.dieIndex) 4 x.dieCount) 24 (bfld x.record 40 8))
      25 (bfld x.record 24 8)) 27 (bfld x.record 8 8) }
def saveVa (x : Gang) : Nat := bfld x.record 48 8
/-- The key of a saved leg: where its save area lies (log entry 20). -/
def saveKey (s : State) (g : Nat) (x : Gang) : Nat :=
  match walkAccess s (g / 64) x.ctx (BitVec.ofNat 64 (saveVa x)) .wr with
  | .ok a => localPa s a.pa
  | .error _ => 0
def saveBlock (x : Gang) (rank : Nat) : Nat := saveVa x + 0x1000 + rank * 0x480000
/-- A fault of the part's own work for a member: agent 4, and the gang holds for it (R349, R354). -/
def memberFault (s : State) (g cid : Nat) (code : BitVec 8) (va : Word) : State :=
  if !canRaise s (g / 64) then setExstat s (g / 64) 8
  else
    let e := nextEntry s (g / 64)
    let s := raise s (coreFault cid 4 0 code va s)
    if classOf code = 1 then modGang s g fun x => { x with hold := some e } else s

/-! ### What a save holds (R55, R56, R354) -/

def safeOf (c : Core) (k i : Nat) : Option (BitVec 512) := (vget c.safe k [])[i]?
/-- The live ranges of a table entry. -/
def entryRanges (e : BitVec 512) : List (Nat × Nat) :=
  (List.range (fld e 71 64)).map fun j => (fld e (148 + 64 * j) (128 + 64 * j), fld e (191 + 64 * j) (160 + 64 * j))
/-- The entry a stream is parked at. -/
def parkedEntry (c : Core) (k : Nat) (st : Stream) : Option (BitVec 512) :=
  match st.phase with
  | .parked i => safeOf c k i
  | _ => none
/-- The live scratchpad of a core: the ranges of its parked entries and the code rings (R55). DESIGN CHOICE (log entry 107): a
range that runs past 2 MiB is cut there. -/
def liveRanges (s : State) (cid : Nat) : List (Nat × Nat) :=
  let c := coreAt s cid
  let rings := (List.range 4).map fun k => (vget c.ringBase k 0, 4 * 2 ^ vget c.ringLog k 0)
  let live := (List.range 4).flatMap fun k => ((parkedEntry c k (streamAt s (4 * cid + k))).map entryRanges).getD []
  (rings ++ live).map fun r => (r.1, Nat.min r.2 (scratchSize - r.1))
/-- Every stream is parked or ended at an entry that exists and has a legal count (R56). -/
def safePoint (s : State) (cid : Nat) : Bool :=
  (List.range 4).all fun k => match (streamAt s (4 * cid + k)).phase with
    | .ended => true
    | .parked i => (match safeOf (coreAt s cid) k i with
      | some e => decide (fld e 71 64 ≤ 6)
      | none => false)
    | _ => false
/-- A stream waits for a token, or for a place in a queue, at its next word (R14, R15, R68). -/
def tokenStalled (s : State) (sid : Nat) : Bool :=
  match decode (fetchWord s sid) with
  | .ok _ => !tokensReady s sid (bits (fetchWord s sid) 28 4)
  | .error _ => false
/-- The waiting form that a word is (R207), as it would run now. -/
def waitingForm (i : Instr) (s : State) : Option Out :=
  match i with
  | .sacq tk q n => some (execSacq tk q n s)
  | .swait tk q n => some (execSwait tk q n s)
  | .rclaim tk r d => some (execRclaim tk r d s)
  | .rwaitf tk r d => some (execRwaitf tk r d s)
  | .rwaite tk r => some (execRwaite tk r s)
  | .wmwait tk a b => some (execWmwait tk a b s)
  | .waitseq tk a => some (execWaitseq tk a s)
  | .drain tk p => some (execDrain tk p s)
  | .cbar tk n => some (execCbar tk n s)
  | .csnd tk a b => some (execCsnd tk a b s)
  | .spawn tk a => some (execSpawn tk a s)
  | .joinw tk d a => some (execJoinw tk d a s)
  | .gsync tk a => some (execGsync tk a s)
  | .seatmap tk a => some (execSeatmap tk a s)
  | .trld tk d a b => some (execTrld tk d a b s)
  | .stepend tk a => some (execStepend tk a s)
  | .digest tk a b => some (execDigest tk a b s)
  | _ => none
/-- A stream that a waiting form holds stays held: its condition does not hold, or a token is missing, and no work of the
form is left to do (R207, R208). -/
def staysHeld (s : State) (sid : Nat) : Bool :=
  match decode (fetchWord s sid) with
  | .error _ => false
  | .ok i => match waitingForm i { s with cur := sid } with
    | some (.next t) => (streamAt t sid).phase == (streamAt s sid).phase &&
        (coreAt t (coreOf sid)).barriers == (coreAt s (coreOf sid)).barriers &&
        (dieAt t (dieOf (coreOf sid))).unposted.length == (dieAt s (dieOf (coreOf sid))).unposted.length
    | _ => false
/-- A stream that goes no further for the pending pre-emption (R56, R57, R208): also one whose word waited at its last turn
for a token where no stream can push it (R68), or for a register that a circuit value is to write (R53, R330). A waiting
form is reached first (R207). -/
def atRest (s : State) (sid : Nat) : Bool :=
  let st := streamAt s sid
  match st.phase with
  | .ended | .parked _ | .stopped => true
  | .held .. => decide (4096 < st.sinceSafe) || staysHeld s sid
  | .running => decide (4096 < st.sinceSafe) || (match st.stall with
    | some .tokens => tokenStalled s sid
    | some (.writes ids) => ids.any (waitsValue s (coreOf sid))
    | some .room => decide (32 ≤ st.outst.length) && st.outst.all fun o => waitsValue s (coreOf sid) o.id
    | none => false)
  | .holding (.waitl n) => decide (n < st.outst.length)
  | .ending => st.outst.any fun o => waitsValue s (coreOf sid) o.id
  | _ => false
/-- Nothing of a member's streams or commands is in flight (R56). -/
def memberIdle (s : State) (cid : Nat) : Bool :=
  (coreAt s cid).cmds.isEmpty && !(s.requests.any fun r => !isSW r.sid && coreOf r.sid == cid) &&
    (List.range 4).all fun k => (streamAt s (4 * cid + k)).outst.isEmpty
/-- Nothing that a save must wait for is in flight at a member (R18, R56, R328): no command, no access but a circuit
receive whose value was not sent, no circuit value, credit or GMC on its way, no increment of a join object. -/
def quietMember (s : State) (cid : Nat) : Bool :=
  let d := dieAt s (dieOf cid)
  (coreAt s cid).cmds.isEmpty &&
    !(s.requests.any fun r => !isSW r.sid && coreOf r.sid == cid && !receiveOf cid r) &&
    ((List.range 4).all fun k => (streamAt s (4 * cid + k)).outst.all fun o => waitsValue s cid o.id) &&
    !(d.circuits.any fun c => c.1 == cid % 64 || c.2.1 == cid % 64) &&
    !(d.returns.any fun c => c.1 == cid % 64 || c.2 == cid % 64) &&
    !(s.packets.any fun p => match p.payload with
      | .gmc _ sid _ _ _ _ _ _ _ => coreOf sid == cid
      | _ => false) &&
    !(s.remotes.any fun m => match m.owner with
      | .spawn sid _ => coreOf sid == cid
      | _ => false)
/-- A reserved push that stays reserved while its stream issues nothing: its circuit value has not come, or its stream holds
or ends for one; or its result has not landed yet. -/
def pushWaits (s : State) (cid : Nat) (landing : Bool) (p : Push) : Bool :=
  let st := streamAt s p.stream
  match p.cond with
  | .written o => waitsValue s cid o
  | .holdEnds => (match st.phase with
    | .holding _ => true
    | _ => false)
  | .ends => st.phase == .ending
  | .landed f => landing && st.flying.any fun x => x.id == f
  | _ => false
/-- A member can be saved: besides, every push that can be made was made, and every result has landed (R18, R59). -/
def saveIdle (s : State) (cid : Nat) : Bool := quietMember s cid && (coreAt s cid).pushes.all (pushWaits s cid false)
/-- No stream of a gang goes any further, and only results that the slots of its streams would bring still have to land
(R57, R208). -/
def comeToRest (s : State) (g : Nat) (x : Gang) : Bool :=
  (membersOf g x).all fun m => quietMember s m && (coreAt s m).pushes.all (pushWaits s m true) &&
    (List.range 4).all fun k => atRest s (4 * m + k)
/-- The streams of a gang stop for a forced full save, and their results land (R57, R59). -/
def stopForSave (s : State) (g : Nat) (x : Gang) : State :=
  let s := modGang s g fun y => { y with stopping := true }
  (membersOf g x).foldl (fun s m => forN 4 (fun k s => modStream s (4 * m + k) landAll) s) s
/-- A raw word for each element of a tile, row by row. -/
def tileBytes (t : Tile) : List Byte :=
  (List.range 65536).flatMap fun i => leBytes 8 (accRaw ((aget t.elems i).getD t.dflt)).toNat
def tileOfBytes (t : Tile) (bs : List Byte) : Tile :=
  { t with
    dflt := Acc.zero
    elems := (List.range 65536).map fun i => (i, accOfRaw (BitVec.ofNat 64 (bfld bs (8 * i) 8))) }
/-- What is written of a member: scratchpad, tiles, and the areas without a byte layout (free bytes; log entry 20). -/
def memberWrites (s : State) (x : Gang) (cid rank : Nat) (full : Bool) : List (Nat × List Byte) :=
  let b := saveBlock x rank
  let c := coreAt s cid
  let ranges := if full then [(0, scratchSize)] else liveRanges s cid
  let tiles := (List.range 4).filter fun t => full || (vget c.tiles t Tile.zero).touched
  ranges.map (fun r => (b + r.1, mread c.scratch r.1 r.2)) ++
    tiles.map (fun t => (b + 0x200000 + 0x80000 * t, tileBytes (vget c.tiles t Tile.zero))) ++
    [(b + 0x400000, openBytes { s with freeCtr := s.freeCtr + 1 + rank } 0x80000)]
/-- A stream as it is saved: latches are invalid, results have landed (R59). -/
def savedStream (full : Bool) (st : Stream) : Stream :=
  let st := landAll st
  { st with
    latch := Vector.replicate 4 none, stall := none
    sstat := if full then st.sstat ||| 0x100 else st.sstat }
/-- The cores of gangs become idle, and the gangs are gone: their regions end (R299; log entry 81), the tokens left in their queues
go (R18), their face sets lose their tag (R393), circuits and credits on the way are discarded. -/
def freeGang (s : State) (g : Nat) (x : Gang) : State :=
  let ms := membersOf g x
  let s := ms.foldl (fun s m => modCore (forN 4 (fun k s => endRegion s (4 * m + k)) s) m fun c =>
    { c with gang := none, queues := Vector.replicate 8 [], reserved := Vector.replicate 8 0, pushes := [] }) s
  let s := ms.foldl (fun s m => forN 4 (fun k s => modStream s (4 * m + k) fun st =>
    { st with phase := .idle, flying := [], outst := [], latch := Vector.replicate 4 none }) s) s
  let inGang (q : Nat) : Bool := ms.contains (g / 64 * 64 + q)
  let s := modDie s (g / 64) fun d =>
    { d with
      faceTag := d.faceTag.filter fun e => e.2 != x.origin
      circuits := d.circuits.filter fun c => !inGang c.1
      returns := d.returns.filter fun c => !inGang c.1
      resumable := d.resumable.filter fun k => k != x.origin }
  { s with
    gangs := adel s.gangs g
    remotes := s.remotes.filter fun m => match m.owner with
      | .save h _ => h != g
      | _ => true }
/-- Face sets change their tag: a saved leg's stay its own while other legs run (R393). -/
def retag (s : State) (d old new : Nat) : State :=
  modDie s d fun x => { x with faceTag := x.faceTag.map fun e => if e.2 = old then (e.1, new) else e }
/-- A run of bytes, page by page. -/
def pageRuns (va : Nat) (bs : List Byte) : List (Nat × List Byte) :=
  (List.range (ceilDiv (va % 16384 + bs.length) 16384)).map fun i =>
    let lo := Nat.max va (va / 16384 * 16384 + 16384 * i)
    (lo, (bs.drop (lo - va)).take (16384 * (va / 16384 + i + 1) - lo))
/-- The writes of a save in their order, in rank order and page by page: the member that makes each, its VA and its bytes. -/
def saveWrites (s : State) (g : Nat) (x : Gang) (full : Bool) : List (Nat × Nat × List Byte) :=
  let head := leBytes 8 full.toNat ++ leBytes 8 x.tick.toNat ++ openBytes s 0xFF0
  (membersOf g x).flatMap fun m =>
    let r := rankIn x m
    ((if r = 0 then [(saveVa x, head)] else []) ++ memberWrites s x m r full).flatMap fun w =>
      (pageRuns w.1 w.2).map fun p => (m, p.1, p.2)
/-- One of them: at its home, or as a tracked write to another package (R457). -/
def savePut (s : State) (g : Nat) (x : Gang) (w : Nat × Nat × List Byte) : Except (BitVec 8 × Word) Unit × State :=
  vaWriteBy s w.1 x.ctx (BitVec.ofNat 64 w.2.1) w.2.2 fun s a b =>
    match hwPut s (globalDie s (g / 64)) a b (.save g w.1) with
    | some t => (.ok (), t)
    | none => (.error (notYet, 0), s)
/-- The writes that are still to make, one after another, up to the first that faults or waits: its member, its code and its
VA field. -/
def saveRun (s : State) (g : Nat) (x : Gang) (full : Bool) : Option (Nat × BitVec 8 × Word) × State :=
  ((saveWrites s g x full).drop x.progress).foldl (fun (a : Option (Nat × BitVec 8 × Word) × State) w =>
    match a with
    | (some e, s) => (some e, s)
    | (none, s) =>
      match savePut s g x w with
      | (.error (c, va), s) => (some (w.1, c, va), s)
      | (.ok _, s) => (none, modGang s g fun y => { y with progress := y.progress + 1 })) (none, s)
/-- A write of a save was not answered yet (R457). -/
def saveOut (s : State) (g : Nat) : Bool := s.remotes.any fun m => match m.owner with
  | .save h _ => h == g
  | _ => false
/-- A core as it is saved: no place of a queue is reserved (R18), and no claim waits for a release, as its regions are over. -/
def savedCore (c : Core) : Core :=
  { c with reserved := Vector.replicate 8 0, pushes := c.pushes.map fun p => { p with closing := [] } }
/-- What is kept of a saved leg: its cores and streams by their numbers in the die, and the circuit receives that wait. DEDUCED (log
entry 128): the pushes that these owe are kept with them, and take their places again when the leg resumes. -/
def savedLeg (s : State) (g : Nat) (x : Gang) (full : Bool) : Save :=
  let ms := membersOf g x
  { full := full, slip := x.slip, receives := s.requests.filter fun r => ms.any fun m => receiveOf m r
    streams := ms.flatMap fun m => (List.range 4).map fun k => ((4 * m + k) % 256, savedStream full (streamAt s (4 * m + k)))
    cores := ms.map fun m => (m % 64, savedCore (coreAt s m)) }
/-- A save is complete: the cores are idle, and DONE is set if it is the one that was requested last (R353). -/
def endSave (s : State) (g : Nat) (x : Gang) (full : Bool) : State :=
  let ms := membersOf g x
  let key := saveKey s g x
  let s := { s with
    saves := aput s.saves key (savedLeg s g x full), freeCtr := s.freeCtr + 66
    requests := s.requests.filter fun r => !ms.any fun m => receiveOf m r }
  let s := retag s (g / 64) x.origin (64 + key)
  let pre := dieBlock (g / 64) + 0x02000108
  let last := (dieAt s (g / 64)).lastPre == some x.origin
  let s := freeGang s g x
  if last then setAreg s pre (setFld (areg s pre) 8 8 1) else s
/-- The save itself: after a fault that holds the gang, RETRY goes on with it (R354). -/
def saveGang (s : State) (g : Nat) (x : Gang) (full : Bool) : State :=
  match saveRun s g x full with
  | (some (m, c, va), s) => if c = notYet then s else memberFault s g m c va
  | (none, s) => if saveOut s g then s else endSave s g x full

/-! ### Pre-emption (R353) -/

/-- The request is pending; one that comes while the stall wire freezes the gang is so once the freeze ends (R58). -/
def askPreempt (s : State) (die : Nat) (g : Nat) : State :=
  modDie (modGang s (64 * die + g) fun x =>
    if x.stalled && !x.preempt then { x with asked := true } else { x with preempt := true }) die fun x => { x with lastPre := some g }
def execPreemptWrite (die : Nat) (v : BitVec 64) (s : State) : Out :=
  .next (if 8 ≤ die then s
    else
      let s := setAreg s (dieBlock die + 0x02000108) 0
      let g := fld v 7 0
      match (if 64 ≤ g then none else gangAt s (64 * die + g)) with
      | some x => if x.phase = .running ∧ saveVa x ≠ 0 then askPreempt s die g else countIgnored s die
      | none => countIgnored s die)
/-- Every stream of a gang has ended and every command has retired: the leg is over (R68). -/
def allEnded (s : State) (g : Nat) (x : Gang) : Bool :=
  (membersOf g x).all fun m => memberIdle s m && (List.range 4).all fun k => (streamAt s (4 * m + k)).phase == .ended
/-- A pending pre-emption may be carried out: the gang runs, is not frozen (R58) and holds for nothing. -/
def canSave (s : State) (g : Nat) : Option Gang :=
  match gangAt s g with
  | some x => if x.phase = .running ∧ x.preempt ∧ !x.stalled ∧ x.hold = none then some x else none
  | none => none
def execPreemptSave (die gang : Nat) (s : State) : Out :=
  .next (match canSave s (64 * die + gang) with
    | some x =>
      if (membersOf (64 * die + gang) x).all (fun m => safePoint s m && saveIdle s m) && !x.stopping && !allEnded s (64 * die + gang) x
      then saveGang s (64 * die + gang) x false else s
    | none => s)
/-- A forced full save goes on once nothing is left to land or to push. -/
def fullSave (s : State) (g : Nat) (x : Gang) : State :=
  if (membersOf g x).all (saveIdle s) then saveGang s g x true else s
/-- R57, R208: some stream cannot reach a safe point, or an entry is not usable. The streams stop, their results land, and
the pushes of what landed take place before the save (R18). -/
def execForcedFullSave (die gang : Nat) (s : State) : Out :=
  .next (match canSave s (64 * die + gang) with
    | some x =>
      let g := 64 * die + gang
      if x.stopping then fullSave s g x
      else if comeToRest s g x && !(membersOf g x).all (safePoint s) then fullSave (stopForSave s g x) g x
      else s
    | none => s)

/-! ### Restoring (R59, R354) -/

/-- A restored stream: of a safe-point save only the live registers are the saved ones, and the others are free. DESIGN
CHOICE (log entry 20): VTYPE is as it was, and a PRED that no command has taken is gone. A form whose work is done, a hold
and an end that wait are as they were (R208, R247). -/
def restoredStream (full : Bool) (live : Option (BitVec 512)) (ctr : Nat) (st : Stream) : Stream :=
  let st := { st with
    pred := []
    phase := match st.phase with
      | .ended => .ended
      | .ending => .ending
      | .holding h => .holding h
      | .held q true => .held q true
      | _ => .running }
  if full then st
  else
    let e := live.getD 0
    { st with
      x := Vector.ofFn fun i => if i.val = 0 then 0 else if bitAt e i.val then vget st.x i.val 0 else Config.freeBits (ctr + i.val) 64
      v := Vector.ofFn fun i => if bitAt e (32 + i.val) then vget st.v i.val 0 else Config.freeBits (ctr + 32 + i.val) 2048
      m := Vector.ofFn fun i => if bitAt e (60 + i.val) then vget st.m i.val 0 else Config.freeBits (ctr + 60 + i.val) 256 }
/-- A restored scratchpad: the live ranges from the save area, the rest free unless the save was full. -/
def restoredScratch (s : State) (x : Gang) (cid rank : Nat) (ranges : List (Nat × Nat)) (full : Bool) :
    Except (BitVec 8 × Word) Memory × State :=
  let base : Memory := if full then [] else cells 0 (openBytes s scratchSize)
  (if full then [(0, scratchSize)] else ranges).foldl (fun (a : Except (BitVec 8 × Word) Memory × State) r =>
    match a with
    | (.error e, s) => (.error e, s)
    | (.ok m, s) =>
      match vaRead s cid x.ctx (BitVec.ofNat 64 (saveBlock x rank + r.1)) r.2 .wr with
      | (.error e, s) => (.error e, s)
      | (.ok bs, s) => (.ok (mwrite m r.1 bs), s)) (.ok base, { s with freeCtr := s.freeCtr + 1 })
/-- The touched tiles, from the save area; an untouched one is at its leg-start state, unless the save was full (R95). -/
def restoredTiles (s : State) (x : Gang) (cid rank : Nat) (c : Core) (full : Bool) : Except (BitVec 8 × Word) (Vector Tile 4) × State :=
  (List.range 4).foldl (fun (a : Except (BitVec 8 × Word) (Vector Tile 4) × State) t =>
    match a with
    | (.error e, s) => (.error e, s)
    | (.ok v, s) =>
      let old := vget c.tiles t Tile.zero
      if !full && !old.touched then (.ok (vset v t Tile.zero), s)
      else match vaRead s cid x.ctx (BitVec.ofNat 64 (saveBlock x rank + 0x200000 + 0x80000 * t)) 0x80000 .wr with
        | (.error e, s) => (.error e, s)
        | (.ok bs, s) => (.ok (vset v t (tileOfBytes old bs)), s)) (.ok c.tiles, s)
/-- A saved stream, its identities moved by `n` so that they are new. -/
def movedStream (n : Nat) (st : Stream) : Stream := { st with outst := st.outst.map fun o => { o with id := o.id + n } }
/-- A saved receive, as one of die `d`. -/
def movedReq (d n : Nat) (r : Req) : Req :=
  { r with id := r.id + n, sid := 256 * d + r.sid % 256, outst := r.outst.map fun o => o + n }
/-- A saved core, as one of die `d`; what its pushes reserve is reserved again. -/
def movedCore (d n : Nat) (c : Core) : Core :=
  let sid (q : Nat) : Nat := 256 * d + q % 256
  let rng (r : Range) : Range := { r with core := 64 * d + r.core % 64 }
  { c with
    pushes := c.pushes.map fun p => { p with
      stream := sid p.stream, rel := p.rel.map fun q => q + n
      cond := match p.cond with
        | .landed f => .landed (f + n)
        | .written o => .written (o + n)
        | .performed q => .performed (q + n)
        | w => w }
    reserved := c.pushes.foldl (fun v p => p.queues.foldl (fun v q => vset v q (vget v q 0 + 1)) v) c.reserved
    recs := c.recs.map fun r => { r with sid := sid r.sid, rd := r.rd.map rng, wr := r.wr.map rng }
    barriers := c.barriers.map fun b => { here := b.here.map sid, done := b.done.map sid }
    csndSlot := none }
/-- A VTYPE that VCFG takes, or the one of leg start (R47). -/
def legalVtype (v : BitVec 64) : BitVec 64 := if vtypeOk v then v else 0
/-- What a save area that the part did not write, or that software moved, says of a stream whose ring has 2^`log` words: free
values of the bits that are not reserved (R5, R47, R48; log entry 20). -/
def freeStream (full : Bool) (log ctr : Nat) : Stream :=
  let f (i w : Nat) : Nat := (Config.freeBits (ctr + i) w).toNat
  { Stream.zero with
    phase := if full then .running else if f 0 1 = 1 then .ended else .parked (f 1 12)
    pc := BitVec.ofNat 18 (f 2 18 % 2 ^ log)
    x := Vector.ofFn fun i => if i.val = 0 then 0 else Config.freeBits (ctr + 8 + i.val) 64
    v := Vector.ofFn fun i => Config.freeBits (ctr + 40 + i.val) 2048
    m := Vector.ofFn fun i => Config.freeBits (ctr + 72 + i.val) 256
    loop := Config.freeBits (ctr + 3) 64, slot := f 4 32, sinceSafe := f 5 13
    sstat := Config.freeBits (ctr + 6) 64 &&& 0x3FF, vtype := legalVtype (Config.freeBits (ctr + 7) 64 &&& 0x7F) }
/-- The same, of a core that its code image has loaded: configurations are such as their instructions write. -/
def freeCore (ctr : Nat) (c : Core) : Core :=
  let f (i w : Nat) : Nat := (Config.freeBits (ctr + i) w).toNat
  let tag (i : Nat) : Tag := match f i 2 with
    | 0 => .core
    | 1 => .cluster
    | 2 => .package
    | _ => .fabric
  let bcfg : Word × Word := (Config.freeBits (ctr + 1) 64, Config.freeBits (ctr + 2) 64)
  let bcfg := if bankCfgOk bcfg.1 && vaOk bcfg.2 then bcfg else (0, 0)
  { c with
    seq := Config.freeBits ctr 32, bankCfg := bcfg.1, bankScale := bcfg.2
    queues := Vector.ofFn fun i => List.replicate (f (8 + i.val) 4 % 9) []
    sems := Vector.ofFn fun i => { count := Config.freeBits (ctr + 16 + i.val) 32, tag := tag (48 + i.val), settle := [] }
    rings := Vector.ofFn fun i =>
      let v : Word := Config.freeBits (ctr + 80 + i.val) 64 &&& 0x7FFFFFFF
      let x : RingState := { RingState.zero with cfg := if ringCfgOk v then v else 0 }
      if ringMode x = 0 then x
      else
        let n := ringN x
        let claimed := f (88 + i.val) 16 % (n + 1)
        let filled := f (96 + i.val) 16 % (n + 1 - claimed)
        let head := f (104 + i.val) 16 % n
        { x with claimed := claimed, filled := filled, head := head, tail := (head + filled + claimed) % n }
    credits := (List.range 64).map fun p => (p, f (128 + p) 3 % 5)
    fifos := (List.range 64).map fun p => (p, (List.range (f (192 + p) 3 % 5)).map fun j => Config.freeBits (ctr + 256 + 4 * p + j) 64)
    tiles := Vector.ofFn fun i =>
      let b := 512 + 1024 * i.val
      let w : Word × Word := (Config.freeBits (ctr + b + 1) 64, Config.freeBits (ctr + b + 2) 64)
      let w := if tcfgOk w.1 w.2 then w else (0, 0)
      { Tile.zero with
        datum := Config.freeBits (ctr + b) 16, cfg := w.1, tscale := w.2
        nan := f (b + 3) 1 == 1, sat := f (b + 4) 1 == 1, touched := f (b + 5) 1 == 1
        att := Config.freeBits (ctr + b + 6) 64 &&& 0x7FFFFFFFF
        rowB := (List.range 256).map fun j => (j, Config.freeBits (ctr + b + 256 + j) 32)
        rowL := (List.range 256).map fun j => (j, Config.freeBits (ctr + b + 512 + j) 64) } }
/-- A member of a RESUME leg: its core and its streams as they were saved. -/
def restoreMember (s : State) (x : Gang) (sv : Save) (n cid : Nat) : Except (BitVec 8 × Word) State :=
  let rank := rankIn x cid
  let now := coreAt s cid
  let ctr := s.freeCtr
  let s := { s with freeCtr := ctr + 8192 }
  let c := match aget sv.cores (cid % 64) with
    | some c => movedCore (dieOf cid) n c
    | none => freeCore ctr now
  let st (k : Nat) : Stream := match aget sv.streams ((4 * cid + k) % 256) with
    | some st => movedStream n st
    | none => freeStream sv.full (vget c.ringLog k 0) (ctr + 5000 + 128 * k)
  let live (k : Nat) : Option (BitVec 512) := parkedEntry c k (st k)
  let rings := (List.range 4).map fun k => (vget c.ringBase k 0, 4 * 2 ^ vget c.ringLog k 0)
  let ranges := (rings ++ (List.range 4).flatMap fun k => ((live k).map entryRanges).getD []).map fun r =>
    (r.1, Nat.min r.2 (scratchSize - r.1))
  match restoredScratch s x cid rank ranges sv.full with
  | (.error e, _) => .error e
  | (.ok m, s) =>
    match restoredTiles s x cid rank c sv.full with
    | (.error e, _) => .error e
    | (.ok ts, s) =>
      match readSeats s cid x.ctx c.seatVa with
      | (.error e, _) => .error e
      | (.ok seats, s) =>
        let s := putCore s cid { c with
          scratch := m, tiles := ts, seatMap := seats, l1 := [], tlb := (coreAt s cid).tlb, scopeCache := now.scopeCache
          gang := now.gang, offline := now.offline }
        .ok (forN 4 (fun k s =>
          putStream { s with freeCtr := s.freeCtr + 64 } (4 * cid + k) (restoredStream sv.full (live k) s.freeCtr (st k))) s)
/-- A RESUME leg starts from its save area (R349, R354): the header, and the members. -/
def resumeLeg (s : State) (g : Nat) (x : Gang) : State :=
  let m0 := (membersOf g x).headD 0
  match vaRead s m0 x.ctx (BitVec.ofNat 64 (saveVa x)) 16 .wr with
  | (.error (c, va), s) => memberFault s g m0 c va
  | (.ok bs, s) =>
    let free : Save :=
      { full := bitAt (bs.getD 0 0) 0, streams := [], cores := [], receives := [], slip := Config.freeBits s.freeCtr 32 }
    let sv := (aget s.saves (saveKey s g x)).getD free
    let n := s.nextId
    let s := { s with nextId := 2 * n + 1, freeCtr := s.freeCtr + 1 }
    let done := (membersOf g x).foldl (fun (a : Except (Nat × BitVec 8 × Word) State) m =>
      match a with
      | .error e => .error e
      | .ok s => match restoreMember s x sv n m with
        | .error (c, va) => .error (m, c, va)
        | .ok s => .ok s) (.ok s)
    match done with
    | .error (m, c, va) => memberFault s g m c va
    | .ok s =>
      { retag (putGang s g { x with phase := .running, tick := BitVec.ofNat 48 (leNat (bs.drop 8)), slip := sv.slip })
          (g / 64) (64 + saveKey s g x) x.origin with
        requests := s.requests ++ sv.receives.map (movedReq (g / 64) n) }

/-- LEG_START (R349): every member loads, and then every stream of every member starts. -/
def legStart (s : State) (g : Nat) (x : Gang) : State :=
  let seatVa : Word := BitVec.ofNat 64 (bfld x.record 40 8)
  let load := (membersOf g x).foldl (fun (a : Option (Nat × BitVec 8 × Word) × State) m =>
    match a with
    | (some e, s) => (some e, s)
    | (none, s) =>
      match readImage s m x.ctx x.record with
      | (.error (c, va), s) => (some (m, c, va), s)
      | (.ok im, s) =>
        match readSeats s m x.ctx seatVa with
        | (.error (c, va), s) => (some (m, c, va), s)
        | (.ok seats, s) =>
          let s := modCore s m fun c => loadedCore c im seatVa seats
          (none, forN 4 (fun k s => putStream s (4 * m + k) (startStream x (rankIn x m))) s)) (none, s)
  match load with
  | (some (m, c, va), s) => memberFault s g m c va
  | (none, s) => if x.resume then resumeLeg s g x else putGang s g { x with phase := .running, tick := 0, slip := 0 }
def execLegStart (die gang : Nat) (s : State) : Out :=
  .next (match gangAt s (64 * die + gang) with
    | some x => if x.phase = .placed ∧ x.hold = none ∧ !x.stalled then legStart s (64 * die + gang) x else s
    | none => s)

/-! ### Leg end (R68, R336, R350) -/

/-- Nothing of the gang is left to do: every stream has ended and every command has retired. -/
def gangDone (s : State) (g : Nat) (x : Gang) : Bool :=
  (x.phase == .running || x.phase == .dying) && x.hold.isNone && allEnded s g x
/-- The join update of a leg is on its way to another package (R457). -/
def joinOut (s : State) (gs : List (Nat × Gang)) : Bool := s.remotes.any fun m => match m.owner with
  | .join d g _ _ => gs.any fun e => e.1 / 64 == d && e.2.origin == g
  | _ => false
/-- LEG_END: the release at PACKAGE is complete, since nothing is in flight; the join object is updated once, and the
cores become idle. A translation fault of the update keeps them busy; after any other fault no update is made. -/
def legEnd (s : State) (g : Nat) (x : Gang) : State :=
  let gs := legGangs s g x
  if !(gs.all fun e => gangDone s e.1 e.2) then s
  else
    let code := (gs.filterMap fun e => e.2.killed).head?
    let free (s : State) : State := gs.foldl (fun s e => freeGang s e.1 e.2) s
    if gs.any fun e => e.2.dropJoin then (if joinOut s gs then s else free s)
    else match joinUpdate s (g / 64) x.origin x.ctx (BitVec.ofNat 64 (recJoin x.record)) code (recLeg x.record) with
      | .ok none => s
      | .ok (some t) => if joinOut t gs then modGang t g fun y => { y with phase := .dying, dropJoin := true } else free t
      | .error (c, va) =>
        if !canRaise s (g / 64) then setExstat s (g / 64) 8
        else
          let e := nextEntry s (g / 64)
          let f : FaultInfo :=
            { die := g / 64, agent := 4, gang := x.origin, code := c, va := va, leg := recLeg x.record, tick := x.tick, ctx := x.ctx }
          let held := decide (classOf c = 1)
          modGang (raise s f) g fun y =>
            { y with phase := .dying, hold := if held then some e else none, dropJoin := !held }
def execLegEnd (die gang : Nat) (s : State) : Out :=
  .next (match gangAt s (64 * die + gang) with
    | some x => legEnd s (64 * die + gang) x
    | none => s)

/-! ### The dispatcher (R341, R345 to R348) -/

/-- A bad record leaves its queue (R341): its entry, the count in EXSTAT, and the join update of an abnormal child. -/
def rejectHead (s : State) (r : Nat) (bs : List Byte) : State :=
  let d := if r = lqRegs 0 8 then (maskDies (recMask bs)).headD 0 else (r - 0x9000000000) / 0x10000000
  let ctx := bfld bs 64 1 % 64
  let f : FaultInfo :=
    { die := d, agent := 7, code := 0x01, va := BitVec.ofNat 64 (ringPa s r 128 (ringHead s r)), leg := recLeg bs
      tick := (areg s (dtickPa d)).setWidth 48, ctx := ctx }
  if !canRaise s d then setExstat s d 8
  else
    let v := areg s (exstatPa d)
    let s := setAreg (ringPop (raise s f) r) (exstatPa d) (setFld v 63 32 (fld v 63 32 + 1))
    retryOrphan s d (none, ctx, BitVec.ofNat 64 (recJoin bs), recLeg bs)
/-- The record at the head keeps the rules, and stands in the right queue. -/
def headOk (r : Nat) (bs : List Byte) : Bool := recordOk (bs.take 64) && recCaravan bs == (r == lqRegs 0 8)
/-- The head of a leg queue; none while its entry lies in the window of a host link and may not be read (R462). -/
def headOf (s : State) (r : Nat) : Option (List Byte) :=
  if ringEn s r && ringHead s r != ringTail s r && hostGo s (ringDie r) (ringPa s r 128 (ringHead s r)) then
    some (ringGet s r 128 (ringHead s r))
  else none
/-- The dispatcher's read of a head raises Peer Gone there. -/
def askHead (s : State) (r : Nat) : State :=
  if ringEn s r && ringHead s r != ringTail s r then hostAsk s (ringDie r) (ringPa s r 128 (ringHead s r)) else s
/-- Bad records at the head of a queue are removed one after another. -/
def cleanHead (s : State) (r fuel : Nat) : State :=
  match fuel with
  | 0 => s
  | n + 1 =>
    match headOf s r with
    | none => s
    | some bs => if headOk r bs then s else cleanHead (rejectHead s r bs) r n
/-- A candidate: its queue (8 for the caravan queue), the queue number it counts as, its entry. -/
structure Cand where
  q : Nat
  num : Nat
  entry : List Byte
  deriving DecidableEq, Repr
def candEnq (c : Cand) : Nat := bfld c.entry 72 6
/-- The effective priority (R345). -/
def candPrio (s : State) (d : Nat) (c : Cand) : Nat :=
  Nat.min 7 (recPrio c.entry + (fld (areg s (dtickPa d)) 47 0 + 2 ^ 48 - candEnq c) % 2 ^ 48 / 65536)
/-- The order of R346: c comes before e. -/
def candBefore (s : State) (d : Nat) (c e : Cand) : Bool :=
  let p := candPrio s d c
  let q := candPrio s d e
  if p ≠ q then decide (q < p)
  else if candEnq c ≠ candEnq e then decide (candEnq c < candEnq e)
  else if c.num ≠ e.num then decide (e.num < c.num)
  else c.q == 8
def insertCand (s : State) (d : Nat) (c : Cand) (l : List Cand) : List Cand :=
  match l with
  | [] => [c]
  | e :: r => if candBefore s d c e then c :: e :: r else e :: insertCand s d c r
/-- The candidates of a die in order: the heads of its queues, and the caravan offered to it. -/
def candidates (s : State) (d : Nat) : List Cand :=
  let own := (List.range 8).filterMap fun q => match headOf s (lqRegs d q) with
    | some bs => if headOk (lqRegs d q) bs then some (⟨q, q, bs⟩ : Cand) else none
    | none => none
  let car := match headOf s (lqRegs d 8) with
    | some bs =>
      let holds := s.gangs.any fun e => e.1 / 64 == d && e.2.phase == .heldFor
      if headOk (lqRegs d 8) bs && (maskDies (recMask bs)).contains d && !holds then [(⟨8, recPrio bs, bs⟩ : Cand)] else []
    | none => []
  (own ++ car).foldl (fun l c => insertCand s d c l) []
def rectCores (o w h : Nat) : List Nat := (List.range (h * w)).map fun i => o + 16 * (i / w) + i % w
/-- Aligned rectangles of a candidate's shape, by origin (R342); a RESUME takes only its saved origin. -/
def rectsOf (c : Cand) : List Nat :=
  let w := recW c.entry
  let h := recH c.entry
  (List.range 64).filter fun o => o % 16 % w == 0 && o / 16 % h == 0 &&
    (bfld c.entry 65 1 % 2 == 0 || o == bfld c.entry 66 1 % 64)
/-- A core takes a new leg: it is in no gang, and no accepted peer load of it is still to be written (R248). -/
def coreIdle (s : State) (d o : Nat) : Bool :=
  (coreAt s (64 * d + o)).gang.isNone && !(coreAt s (64 * d + o)).offline &&
    !(s.streams.any fun e => e.2.outst.any fun w => w.peer == some (64 * d + o))
def candCores (c : Cand) (o : Nat) : List Nat := rectCores o (recW c.entry) (recH c.entry)
/-- Place a candidate at an origin: its cores become busy or held, and a queue's entry leaves it. -/
def placeAt (s : State) (d : Nat) (c : Cand) (o : Nat) : State :=
  let dies := maskDies (recMask c.entry)
  let car := c.q == 8
  let (n, s) := fresh s
  let x : Gang :=
    { phase := if car then .heldFor else .placed, record := c.entry.take 64, ctx := bfld c.entry 64 1 % 64, origin := o
      w := recW c.entry, h := recH c.entry, dieIndex := if car then (dies.filter fun e => decide (e < d)).length else 0
      dieCount := if car then dies.length else 1
      caravan := none, resume := bfld c.entry 65 1 % 2 == 1, tick := 0, slip := 0, stalled := false, preempt := false
      killed := none, hold := none, dropJoin := false, serial := n }
  let s := (candCores c o).foldl (fun s i => modCore s (64 * d + i) fun k => { k with gang := some o }) (putGang s (64 * d + o) x)
  if car then s else ringPop s (lqRegs d c.q)
/-- The target of a head (R347): the fewest busy cores, then the lowest origin; no offline core. DESIGN CHOICE (log entry 121): a RESUME
whose saved origin is no aligned origin of its shape has no rectangle, so that it is never placed, has no target, and is recorded in
the execution status as a head whose rectangles all hold an offline core. -/
def targetFor (s : State) (d : Nat) (c : Cand) : Option Nat :=
  let ok := (rectsOf c).filter fun o => !((candCores c o).any fun i => (coreAt s (64 * d + i)).offline)
  let busy (o : Nat) : Nat := ((candCores c o).filter fun i => !coreIdle s d i).length
  ok.foldl (fun (b : Option Nat) o => match b with
    | none => some o
    | some p => if busy o < busy p then some o else some p) none
/-- EXSTAT [3:0]: a head without a target (R347). -/
def noTarget (s : State) (d : Nat) (q : Option Nat) : State :=
  let v := areg s (exstatPa d)
  setAreg s (exstatPa d) (setFld v 3 0 (match q with
    | some n => 8 + n
    | none => 0))
/-- One candidate of a run; `h` is the head. It keeps its target until it is placed, or until every rectangle of its shape holds
an offline core, when it has none (R347). -/
def placeCand (s : State) (d : Nat) (h c : Cand) : State :=
  let isHead := c == h
  let t : List Nat := match (dieAt s d).target with
    | some (q, o) => if !isHead && q == h.q then candCores h o else []
    | none => []
  let free := (rectsOf c).filter fun o =>
    (candCores c o).all (fun i => coreIdle s d i) && !((candCores c o).any fun i => t.contains i)
  match free with
  | o :: _ =>
    let s := placeAt s d c o
    if isHead then noTarget (modDie s d fun x => { x with target := none }) d none else s
  | [] =>
    if !isHead then s
    else match (dieAt s d).target with
      | some (q, _) => if q = h.q && (targetFor s d h).isSome then s else setTarget s
      | none => setTarget s
where
  setTarget (s : State) : State :=
    let t := targetFor s d h
    noTarget (modDie s d fun x => { x with target := t.map fun o => (h.q, o) }) d (if t.isNone then some h.num else none)
/-- DISPATCHER_RUN (R346). Only ONLINE dies take new legs (R404). -/
def dispatcherRun (s : State) (d : Nat) : State :=
  let s := forN 9 (fun q s => cleanHead (askHead s (lqRegs d q)) (lqRegs d q) 65536) s
  if dieState s d ≠ 2 then s
  else match candidates s d with
    | [] => s
    | h :: r => (h :: r).foldl (fun s c => placeCand s d h c) s
def execDispatcherRun (die : Nat) (s : State) : Out := .next (if die < 8 then dispatcherRun s die else s)
/-- CARAVAN_START (R348): every named die holds a rectangle; the entry leaves the caravan queue. -/
def caravanStart (s : State) : State :=
  let r := lqRegs 0 8
  match headOf s r with
  | none => s
  | some bs =>
    let held (d : Nat) : Bool := s.gangs.any fun e => e.1 / 64 == d && e.2.phase == .heldFor
    if !headOk r bs || !((maskDies (recMask bs)).all held) then s
    else
      let id := ringHead s r
      ringPop { s with gangs := s.gangs.map fun e => if e.2.phase == .heldFor then
          (e.1, { e.2 with phase := .placed, caravan := some id }) else e } r
def execCaravanStart (s : State) : Out := .next (caravanStart s)

/-! ### Send tables (R254, R255) -/

/-- In every cycle each segment is used by at most one circuit. -/
def tableOk (t : AMap (BitVec 8)) : Bool :=
  let segs := t.flatMap fun e =>
    if bitAt e.2 7 then routeSegs (e.1 / 256) (fld e.2 5 0) (e.1 % 256) else []
  decide segs.Nodup
def execSendTableWrite (die core slot : Nat) (v : BitVec 8) (s : State) : Out :=
  .next (if 8 ≤ die ∨ 64 ≤ core ∨ 256 ≤ slot then s
    else
      let w : BitVec 8 := v &&& 0xBF
      let t := aput (dieAt s die).sendNext (256 * core + slot) w
      if tableOk t then modDie s die fun x => { x with sendNext := t }
      else
        let s := countIgnored s die
        let e := areg s (errstatPa die)
        setAreg s (errstatPa die) (setFld (setFld e 5 0 core) 8 8 1))
/-- SEND_TABLE_ACTIVATE: accepted writes take effect at slot 0; a CSND that waits and has no slot left faults. -/
def execSendTableActivate (die : Nat) (s : State) : Out :=
  .next (if 8 ≤ die ∨ (dieAt s die).slotCtr ≠ 0 then s
    else
      let s := modDie s die fun x => { x with send := x.sendNext }
      forN 64 (fun c s =>
        let sid := 4 * (64 * die + c) + 3
        match (streamAt s sid).phase with
        | .held .. =>
          if !canIssue s sid then s
          else match decode (fetchWord s sid) with
            | .ok (.csnd _ a _) =>
              if slotAssigned s (64 * die + c) (readX (streamAt s sid) a.toNat).toNat then s else raiseAt s sid 0x41 0
            | _ => s
        | _ => s) s)

end Sys2Proof.Machine
end

