-- ==== Sys2Proof/Machine/Coach.lean ====
section
/-! DEFINITION. The Coach (R408 to R424, R431, R432): submissions, the boundary of a step, verdicts and request
commands; and the package tick (R466), in which the Coach counts its waits (R412). -/
namespace Sys2Proof.Machine

def modCoach (s : State) (f : Coach → Coach) : State := { s with coach := f s.coach }
def coachOn (s : State) : Bool := bitAt (areg s coachBase) 0
def subRing : Nat := coachBase + 0x100
def accRing : Nat := coachBase + 0x140
def cplRing : Nat := coachBase + 0x180
def digoutPa : Nat := coachBase + 0x60
def coachRoom (s : State) (r : Nat) : Bool := ringEn s r && ringRoom s r
/-- An event of the Coach: its vector, and SEVENT[2] (R401, R463). -/
def coachEvent (s : State) (vec : Nat) : State := msixAll (eventAll s 2) vec

/-! ### Traveller Records (R408) -/

def trState (t : List Byte) : Nat := bfld t 9 1
def trPrio (t : List Byte) : Nat := bfld t 10 1 % 8
def trRefill (t : List Byte) : Bool := bfld t 11 1 % 2 == 1
def trSeq (t : List Byte) : Nat := bfld t 48 4 % 2 ^ 24
def trAcc (t : List Byte) : Nat := bfld t 72 8
def trCtx (t : List Byte) : Nat := bfld t 8 1 % 64
/-- Rows of a step (R416): what is left to refill, at most 4,096, for a request that was EVICTED, or the rows set. -/
def trRows (t : List Byte) (evicted : Bool) : Nat :=
  if evicted then Nat.min (bfld t 16 4 - bfld t 124 4) 4096 else bfld t 80 4
/-- Rows of the request in a seat (R417). -/
def seatRows (s : State) (seat : Nat) (t : List Byte) : Nat := trRows t (trRefill t && s.coach.refilling.contains seat)
def setState (t : List Byte) (n : Nat) : List Byte := patch t 9 (leBytes 1 n)
def setSeat (t : List Byte) (n : Nat) : List Byte := patch t 12 (leBytes 2 n)
/-- A new state for the request in a slot. -/
def trMove (s : State) (slot n : Nat) : State := trWrite s slot (setState (trRead s slot) n)
/-- A new state by a request command: the TR as committed at the last boundary is kept for TRLD (R435). -/
def trCommand (s : State) (slot n : Nat) : State :=
  let old := (aget s.coach.committed slot).getD (trRead s slot)
  modCoach (trMove s slot n) fun c => { c with committed := aput c.committed slot old }
/-- A slot that no request holds: nothing was written to it, or its request is over and has left its seat, so that no
record of it is owed (R412, log entry 42). -/
def slotFree (s : State) (slot : Nat) : Bool :=
  let t := trRead s slot
  (bfld t 0 8 == 0 || trState t == 4 || trState t == 5) && !s.coach.seats.any fun e => e.2 == slot
/-- A submission that R411 refuses, but for a full table. -/
def submissionBad (t : List Byte) : Bool :=
  let n := bfld t 68 4
  bfld t 0 8 == 0 || trState t != 0 || bfld t 80 4 == 0 || decide (4096 < bfld t 80 4) ||
    !((List.range 31).any fun k => n == 2 ^ k) || bfld t 8 1 / 64 != 0 || bfld t 10 1 / 8 != 0 || bfld t 11 1 / 2 != 0 ||
    bfld t 14 2 != 0 || bfld t 51 1 != 0 || bfld t 85 3 != 0

/-! ### Completion records (R410) -/

def completion (t : List Byte) (acc state code : Nat) : List Byte :=
  t.take 8 ++ leBytes 8 acc ++ (t.drop 16).take 4 ++ (t.drop 64).take 4 ++ leBytes 1 state ++ leBytes 1 code ++ List.replicate 6 0
/-- Completion records of a boundary, in order, while there is room (R412). -/
def writeRecords (s : State) (l : List Nat) : State :=
  match l with
  | [] => modCoach s fun c => { c with records := [] }
  | q :: r =>
    if !coachRoom s cplRing then modCoach s fun c => { c with records := q :: r }
    else
      let t := trRead s q
      writeRecords (coachEvent (ringPush s cplRing (completion t (trAcc t) (trState t) (bfld t 84 1))) 9) r

/-! ### Admission, the seat map, launch (R416 to R418) -/

def seatedSlots (s : State) : List (Nat × Nat) := s.coach.seats
/-- Rows of every seated request. -/
def rowsSeated (s : State) : Nat := (seatedSlots s).foldl (fun n e => n + seatRows s e.1 (trRead s e.2)) 0
/-- Requests that wait for a seat: higher priority first, then lower acceptance sequence. -/
def waitBefore (t u : List Byte) : Bool :=
  if trPrio t ≠ trPrio u then decide (trPrio u < trPrio t) else decide (trAcc t < trAcc u)
def insertWait (e : Nat × List Byte) (l : List (Nat × List Byte)) : List (Nat × List Byte) :=
  match l with
  | [] => [e]
  | f :: r => if waitBefore e.2 f.2 then e :: f :: r else f :: insertWait e r
def waiting (s : State) : List (Nat × List Byte) :=
  (((List.range 4096).map fun q => (q, trRead s q)).filter fun e =>
    bfld e.2 0 8 != 0 && (trState e.2 == 0 || trState e.2 == 3)).foldl (fun l e => insertWait e l) []
/-- Free pages of the eight pools, less 8 × 128. -/
def kvBudget (s : State) : Int :=
  ((List.range 8).foldl (fun n d => n + (dieAt s d).pool.free.length) 0 : Nat) - (8 * 128 : Int)
def charge (s : State) (rows : Nat) : Nat := fld (areg s coachBase) 39 32 * ceilDiv rows 64
/-- Admission, until the first request that cannot be admitted. -/
def admitAll (s : State) (rows : Nat) (budget : Int) (l : List (Nat × List Byte)) : State :=
  match l with
  | [] => s
  | (q, t) :: r =>
    let n := trRows t (trState t == 3)
    match (List.range 512).find? (fun k => (seatSlot s k).isNone) with
    | none => s
    | some k =>
      if 65535 < rows + n ∨ budget < (charge s n : Int) then s
      else
        let t' := setSeat (setState t 1) k
        let t' := if trState t = 3 then patch t' 11 (leBytes 1 1) else t'
        let t' := patch t' 120 (leBytes 4 (s.coach.admNum + 1))
        let s := modCoach (trWrite s q t') fun c => { c with
          seats := aput c.seats k q, admNum := c.admNum + 1
          refilling := if trState t = 3 then k :: c.refilling else c.refilling }
        admitAll s (rows + n) (budget - charge s n) r
/-- The seat map of step n (R413). -/
def seatMapBytes (s : State) (n : Nat) : List Byte :=
  let rows (k : Nat) : Nat := match seatSlot s k with
    | some q => seatRows s k (trRead s q)
    | none => 0
  let entry (k off : Nat) : List Byte :=
    match seatSlot s k with
    | none => List.replicate 8 0 ++ leBytes 2 off ++ List.replicate 6 0
    | some q =>
      let t := trRead s q
      t.take 4 ++ (t.drop 16).take 4 ++ leBytes 2 off ++ leBytes 2 (rows k) ++
        leBytes 2 ((trRefill t).toNat + 2 * (s.coach.first.contains q).toNat) ++ leBytes 2 (trSeq t)
  let body := (List.range 512).foldl (fun (a : List Byte × Nat) k => (a.1 ++ entry k a.2, a.2 + rows k)) ([], 0)
  leBytes 8 n ++ leBytes 4 body.2 ++ List.replicate 52 0 ++ body.1
def smapVa (s : State) (n : Nat) : Word := areg s (coachBase + (if n % 2 = 1 then 0x18 else 0x20))
/-- The record of step n: a copy of ROOTREC (R418). -/
def rootRecord (s : State) (n : Nat) : List Byte :=
  let r := hwRead s 0 coachCtxN (areg s (coachBase + 0x10)).toNat 64
  patch (patch (patch r 16 (leBytes 8 Config.stepJoin.toNat)) 24 (leBytes 8 n)) 40 (leBytes 8 (smapVa s n).toNat)
/-- The PAs that a launch of step n accesses: the template, the step's join object and the next entry of the root record's
queue. -/
def launchPas (s : State) (n : Nat) : List Nat :=
  let q := recQueue (rootRecord s n)
  let r := lqRegs q.1 q.2
  touched s [(coachCtxN, (areg s (coachBase + 0x10)).toNat, 64), (coachCtxN, Config.stepJoin.toNat, 16)] ++
    [ringPa s r 128 (ringTail s r)]
/-- Push the root record of a step: the join object counts the one leg (R418; log entry 43). -/
def launch (s : State) (n : Nat) : State :=
  let bs := rootRecord s n
  let q := recQueue bs
  let s := hwWrite s 0 coachCtxN Config.stepJoin.toNat (leBytes 4 1 ++ List.replicate 12 0)
  let s := ringPush s (lqRegs q.1 q.2) (queueEntry bs coachCtxN (fld (areg s (dtickPa q.1)) 47 0))
  modCoach (setAreg s (coachBase + 8) (BitVec.ofNat 64 n)) fun c => { c with phase := .running, ends := [], staged := [] }
/-- The queue of the next root record has room. -/
def canLaunch (s : State) (n : Nat) : Bool :=
  let q := recQueue (rootRecord s n)
  ringRoom s (lqRegs q.1 q.2)
/-- Launch step n, once its memory is reached and its queue has room. -/
def tryLaunch (s : State) (n : Nat) : State :=
  let s := modCoach s fun c => { c with phase := .relaunch }
  coachTry s (launchPas s n) (if canLaunch s n then launch s n else s)
/-- The request of a TR has lost pages. -/
def trLost (s : State) (t : List Byte) : Bool := s.coach.lost.contains (trCtx t, trSeq t)
/-- What is over for the request of a TR. -/
def dropLost (t : List Byte) (l : List (Nat × Nat)) : List (Nat × Nat) := l.filter fun p => p != (trCtx t, trSeq t)
/-- Requests that wait for a seat and whose pages were lost are EVICTED before admission, and what they still hold is freed
(R423, R424). -/
def evictWaiting (s : State) : State :=
  (waiting s).foldl (fun s e =>
    if trLost s e.2 then
      modCoach (kvFreeSeq (trWrite s e.1 (patch (setState e.2 3) 124 (leBytes 4 0))) (trSeq e.2)) fun c =>
        { c with lost := dropLost e.2 c.lost }
    else s) s
/-- Steps 5 to 7 of a boundary: admission, the map of the next step, its launch. -/
def admitAndLaunch (s : State) : State :=
  let n := (stepNo s).toNat + 1
  if !canLaunch s n then s
  else
    let s := evictWaiting s
    let s := admitAll s (rowsSeated s) (kvBudget s) (waiting s)
    let s := hwWrite s 0 coachCtxN (smapVa s n).toNat (seatMapBytes s n)
    let s := modCoach s fun c => { c with
      first := c.first.filter (fun q => !(c.seats.any fun e => e.2 == q)), reruns := 0, dissents := 0, committed := [] }
    if s.coach.seats = [] then modCoach s fun c => { c with phase := .idle }
    else tryLaunch (setAreg s (coachBase + 8) (BitVec.ofNat 64 n)) n
/-- The seats and the pages of the requests that leave: those with a completion record, those evicted, and those parked
or diverged, which keep their pages (R415 step 4, R419). -/
def clearSeats (s : State) : State :=
  (seatedSlots s).foldl (fun s e =>
    let t := trRead s e.2
    let n := trState t
    if n = 1 ∧ !s.coach.leaving.contains e.1 then s
    else
      let s := modCoach (trWrite s e.2 (setSeat t 0xFFFF)) fun c => { c with
        seats := adel c.seats e.1, refilling := c.refilling.filter fun k => k != e.1
        evicted := c.evicted.filter fun k => k != e.1
        lost := if n = 3 ∨ n = 4 ∨ n = 5 then dropLost t c.lost else c.lost }
      if n = 3 ∨ n = 4 ∨ n = 5 then kvFreeSeq s (trSeq t) else s) s
/-- The PAs of the completion records of a boundary, with those of the TRs they are made from. -/
def recordPas (s : State) : List Nat :=
  touched s (trMem s s.coach.records) ++
    (List.range s.coach.records.length).map fun i => ringPa s cplRing 32 (ringTail s cplRing + i)
/-- The PAs that admission, the next map and the launch access. -/
def nextPas (s : State) : List Nat :=
  let n := (stepNo s).toNat + 1
  touched s ([0x28, 0x30].map (fun r => (coachCtxN, (areg s (coachBase + r)).toNat, 0x100000)) ++
    [(coachCtxN, (smapVa s n).toNat, 8256)]) ++ launchPas s n
/-- Step 4 of a boundary, and what follows it (R412): held while the completion ring is full. -/
def finishBoundary (s : State) : State :=
  coachTry s (recordPas s) (
    let s := writeRecords s s.coach.records
    if s.coach.records ≠ [] then s
    else coachTry s (nextPas s) (admitAndLaunch (modCoach (clearSeats s) fun c => { c with leaving := [] })))

/-! ### Commit (R415 to R423) -/

/-- Staged values of a seat in the order of R435. -/
def insertStaged (e : Staged) (l : List Staged) : List Staged :=
  match l with
  | [] => [e]
  | f :: r => if e.order < f.order then e :: f :: r else f :: insertStaged e r
def stagedOf (s : State) (seat : Nat) : List Word :=
  ((s.coach.staged.filter fun e => e.seat == seat).foldl (fun l e => insertStaged e l) []).map fun e => e.val
def lastWith (l : List Word) (bit : Nat) : Option Word := (l.filter fun v => bitAt v bit).getLast?
/-- The request of a seat, with its TR, was evicted in this step (R420, R422), or its pages were lost or taken back (R423, R429;
log entry 116). -/
def seatOut (s : State) (seat : Nat) (t : List Byte) : Bool := s.coach.evicted.contains seat || trLost s t
/-- The TR of a seat's request after the commit and its stop conditions (R415 steps 1 and 2). -/
def commitTr (s : State) (seat : Nat) (t : List Byte) : List Byte :=
  let rows := seatRows s seat t
  let mark (n : Nat) (t : List Byte) : List Byte := if trState t = 1 then setState t n else t
  match s.coach.seatFaults.find? fun f => f.1 == seat with
  | some f => patch (mark 5 t) 84 [f.2]
  | none =>
    if seatOut s seat t then
      (if trState t = 1 then patch (setState t 3) 124 (leBytes 4 0) else t)
    else if s.coach.dry.any fun e => e.1 == seat then t
    else if trRefill t then
      let p := bfld t 124 4 + rows
      let t := patch t 124 (leBytes 4 p)
      if p = bfld t 16 4 then patch t 11 (leBytes 1 0) else t
    else
      let st := stagedOf s seat
      let tok := (lastWith st 48).map fun v => fld v 31 0
      let p := bfld t 16 4 + rows
      let t := patch (patch t 16 (leBytes 4 p)) 20 (leBytes 4 (bfld t 20 4 + 1))
      let t := patch t 88 s.coach.digest
      let t := patch t 80 (leBytes 4 (match lastWith st 50 with
        | some v => fld v 47 32
        | none => 1))
      let t := match tok with
        | none => t
        | some k => patch (patch t 52 (leBytes 4 k)) 64 (leBytes 4 (bfld t 64 4 + 1))
      let stops := (List.range 4).map fun i => bfld t (28 + 4 * i) 4
      let done := st.any (fun v => bitAt v 49) || (match tok with
          | some k => k != 0xFFFFFFFF && stops.contains k
          | none => false) ||
        (bfld t 24 4 != 0 && decide (bfld t 24 4 ≤ p)) || (bfld t 44 4 != 0 && decide (bfld t 44 4 ≤ bfld t 20 4))
      if done then mark 4 t else t
/-- A TR of the journal record is applied by absolute value, and its token goes to the output ring. A state that a request
command has given since stays. -/
def applyTr (s : State) (slot : Nat) (t : List Byte) : State :=
  let old := trRead s slot
  let s := if bfld old 64 4 = bfld t 64 4 then s
    else hwWrite s 0 (trCtx t) (bfld t 56 8 + bfld old 64 4 % Nat.max 1 (bfld t 68 4) * 8) ((t.drop 52).take 4 ++ (t.drop 16).take 4)
  trWrite s slot (if trState old = 1 then t else setState t (trState old))
def applyJournal (s : State) (j : Journal) : State := j.trs.foldl (fun s e => applyTr s e.1 e.2) s
/-- The request holds a page of a die's pool. -/
def holdsPage (s : State) (d seq : Nat) : Bool := kvAny s d (kvSeqIs seq)
/-- The victim of one KV Pool Dry entry (R422): lowest priority first, then the highest admission number. -/
def victimOf (s : State) (d : Nat) : Option Nat :=
  ((seatedSlots s).filter fun e => let t := trRead s e.2
    trState t == 1 && holdsPage s d (trSeq t)).foldl (fun (b : Option Nat) e =>
    match b with
    | none => some e.2
    | some q =>
      let t := trRead s e.2
      let u := trRead s q
      if trPrio t < trPrio u ∨ (trPrio t = trPrio u ∧ bfld u 120 4 < bfld t 120 4) then some e.2 else some q) none
def evictSlot (s : State) (q : Nat) : State :=
  let t := trRead s q
  if trState t = 1 then trWrite s q (patch (setState t 3) 124 (leBytes 4 0)) else s
def evictDry (s : State) : State :=
  s.coach.dry.foldl (fun s e =>
    match victimOf s e.2, seatSlot s e.1 with
    | some q, _ => evictSlot s q
    | none, some q => evictSlot s q
    | none, none => s) s
/-- Requests in ascending acceptance sequence. -/
def insertAcc (s : State) (q : Nat) (l : List Nat) : List Nat :=
  match l with
  | [] => [q]
  | r :: t => if trAcc (trRead s q) < trAcc (trRead s r) then q :: r :: t else r :: insertAcc s q t
/-- The records of a boundary: every seated request that is DONE or FAULTED. -/
def boundaryRecords (s : State) : List Nat :=
  ((seatedSlots s).filter fun e => let n := trState (trRead s e.2)
    n == 4 || n == 5).foldl (fun l e => insertAcc s e.2 l) []
/-- Bytes of the journal record in one copy; they have no layout (log entry 41). -/
def journalCopy (s : State) (r : Nat) : State :=
  let s' := hwWrite s 0 coachCtxN (areg s (coachBase + r)).toNat (openBytes s 65536)
  { s' with freeCtr := s.freeCtr + 1 }
/-- A copy of the journal. -/
def journalMem (s : State) (r : Nat) : Nat × Nat × Nat := (coachCtxN, (areg s (coachBase + r)).toNat, 65536)
/-- The PAs of the first copy of the journal and of the TRs that its record takes in. -/
def beginPas (s : State) : List Nat := touched s (journalMem s 0x38 :: trMem s ((seatedSlots s).map fun e => e.2))
/-- The boundary begins (R415 step 1): the journal record of the step, in its first copy. -/
def runBoundary (s : State) : State :=
  let j : Journal :=
    { complete := false, trs := (seatedSlots s).map fun e => (e.2, commitTr s e.1 (trRead s e.2)), evicted := s.coach.evicted }
  coachTry (modCoach s fun c => { c with phase := .begin }) (beginPas s)
    (modCoach (journalCopy s 0x38) fun c => { c with phase := .commit, journal := some j })
/-- The faults, evictions and staged values of a step are over at its boundary; an EVICT that came after the record counts for
the next step. -/
def stepOver (c : Coach) (out : List Nat) : Coach :=
  { c with
    seatFaults := [], dry := [], staged := [], ends := []
    evicted := c.evicted.filter fun k => !out.contains k }
/-- The output ring entries that a record writes: context, VA, length. -/
def tokenMem (s : State) (j : Journal) : List (Nat × Nat × Nat) :=
  j.trs.filterMap fun e =>
    let old := trRead s e.1
    if bfld old 64 4 = bfld e.2 64 4 then none
    else some (trCtx e.2, bfld e.2 56 8 + bfld old 64 4 % Nat.max 1 (bfld e.2 68 4) * 8, 8)
/-- The PAs that a record's completion, or its application, accesses. -/
def commitPas (s : State) (j : Journal) : List Nat :=
  if !j.complete then touched s [journalMem s 0x40] else touched s (trMem s (j.trs.map fun e => e.1) ++ tokenMem s j)
/-- The record is complete in both copies, and then applied; steps 3 and 4 follow. -/
def commitStep (s : State) (j : Journal) : State :=
  coachTry s (commitPas s j) (
    if !j.complete then modCoach (journalCopy s 0x40) fun c => { c with journal := some { j with complete := true } }
    else
      let s := evictDry (applyJournal s j)
      finishBoundary (modCoach s fun c =>
        { stepOver c j.evicted with phase := .records (stepNo s).toNat, records := boundaryRecords s }))

/-! ### The end of a step (R415, R423, R431, R432) -/

def joinNow (s : State) : List Byte := hwRead s 0 coachCtxN Config.stepJoin.toNat 16
/-- The step digest (R431): the outputs in ascending die and core id. -/
def insertEnd (e : Nat × List Byte) (l : List (Nat × List Byte)) : List (Nat × List Byte) :=
  match l with
  | [] => [e]
  | f :: r => if e.1 < f.1 then e :: f :: r else f :: insertEnd e r
def stepDigest (s : State) : List Byte :=
  let outs := s.coach.ends.filterMap fun e => e.2.map fun o => (e.1, o)
  let sorted := outs.foldl (fun l e => insertEnd e l) []
  shake256 32 (leBytes 8 (stepNo s).toNat ++ sorted.flatMap fun e => leBytes 1 (e.1 / 64) ++ leBytes 1 (e.1 % 64) ++ e.2)
/-- Discard the step and launch it again with the same map (R423, R432), once its queue has room. -/
def rerun (s : State) : State := tryLaunch (modCoach s fun c => { c with seatFaults := [], dry := [] }) (stepNo s).toNat
/-- Some line of a KV page lies on a unit that went offline (R367, R406): a page of region H is spread over the vaults, line by
line (R259). -/
def pageLost (s : State) (d ctx page : Nat) : Bool :=
  (List.range 512).any fun i => match walkAccess s d ctx (BitVec.ofNat 64 (page + 128 * i)) .rd with
    | .error (c, _) => c == 0x22
    | .ok _ => false
/-- A request has a page on a unit that went offline. -/
def lostPages (s : State) (ctx seq : Nat) : Bool :=
  (List.range 8).any fun d => kvAny s d fun k => kvSeqIs seq k && pageLost s d ctx k.page
/-- Requests that lose pages are marked, by the context and the sequence of those pages, which the maps give: a request that is
seated becomes EVICTED at the next boundary, any other one before it is admitted again (R423, R424, R429). Which requests these are
the Coach sees when it reads their TRs there. -/
def markLost (s : State) (p : Nat → Nat → Bool) : State :=
  if !((List.range 8).any fun d => kvOn s d) then s
  else
    let out := (kvSeqs s).flatMap fun q => ((List.range 64).filter fun c => p c q).map fun c => (c, q)
    modCoach s fun c => { c with lost := (c.lost ++ out).eraseDups }
/-- A unit or a die went offline: the requests whose pages lay there are marked at once, before a Steward withdraws the frames
(R367, R406, R423). -/
def noteLost (s : State) : State := markLost s fun ctx seq => lostPages s ctx seq
/-- Every request seated in the step becomes FAULTED with a code. -/
def faultSeated (s : State) (code : BitVec 8) : State :=
  modCoach s fun c => { c with seatFaults := c.seats.map fun e => (e.1, code) }
/-- A step whose root join recorded an abnormal child (R423). DESIGN CHOICE (log entry 40): its step is over without a digest,
so that with CONCUR = 1 it has no DIGOUT and waits for no VERDICT (R432): it runs again or its boundary runs at once. -/
def abnormalStep (s : State) (code : BitVec 8) : State :=
  if code ≠ 0xF0 then runBoundary (faultSeated s code)
  else if 4 ≤ s.coach.reruns then runBoundary (faultSeated s 0xF0)
  else rerun (modCoach s fun c => { c with reruns := c.reruns + 1 })
/-- A second dissent: the requests of the step are DIVERGED, and no record is written (R432). -/
def diverge (s : State) : State :=
  coachTry (modCoach s fun c => { c with phase := .diverge }) (touched s (trMem s ((seatedSlots s).map fun e => e.2))) (
    let s := (seatedSlots s).foldl (fun s e => if trState (trRead s e.2) = 1 then trMove s e.2 6 else s) s
    finishBoundary (modCoach s fun c =>
      { stepOver c c.evicted with phase := .records (stepNo s).toNat, records := [] }))
/-- The step that runs ends, or waits for its verdict (R415). -/
def stepEnd (s : State) : State :=
  let j := joinNow s
  let abn := bfld j 5 1 % 2 = 1
  if bfld j 0 4 ≠ 0 ∨ (!abn ∧ s.coach.ends.length < fld (areg s coachBase) 31 16) then s
  else if abn then abnormalStep s (BitVec.ofNat 8 (bfld j 4 1))
  else
    let s := modCoach s fun c => { c with digest := stepDigest s }
    if bitAt (areg s coachBase) 1 then
      let s := forN 4 (fun i s => setAreg s (digoutPa + 8 * i) (dword s.coach.digest i)) s
      coachEvent (modCoach s fun c => { c with phase := .verdict }) 10
    else runBoundary s
/-- What the Coach has to do next. -/
def coachGoOn (s : State) : State :=
  if !coachOn s then s
  else match s.coach.phase with
    | .running => coachTry s (touched s [(coachCtxN, Config.stepJoin.toNat, 16)]) (stepEnd s)
    | .begin => runBoundary s
    | .diverge => diverge s
    | .commit => (match s.coach.journal with
      | some j => commitStep s j
      | none => s)
    | .records _ => finishBoundary s
    | .relaunch => rerun s
    | .idle => s
    | .verdict => s
def verdictFor (s : State) (step : BitVec 62) : Bool :=
  coachOn s && s.coach.phase == .verdict && step == (stepNo s).setWidth 62
def execVerdictConcur (step : BitVec 62) (s : State) : Out := .next (if verdictFor s step then runBoundary s else s)
/-- A dissent: the first runs the step again, the second makes its requests DIVERGED (R432). -/
def verdictDissent (s : State) : State :=
  if s.coach.dissents = 0 then rerun (modCoach s fun c => { c with dissents := 1 })
  else diverge s
def execVerdictDissent (step : BitVec 62) (s : State) : Out := .next (if verdictFor s step then verdictDissent s else s)

/-! ### Submissions (R411, R412, R418) -/

/-- A submission waits for room in the two rings. -/
def subWaits (s : State) : Bool :=
  coachOn s && ringEn s subRing && ringHead s subRing != ringTail s subRing && !(coachRoom s accRing && coachRoom s cplRing)
/-- The acceptance record of the submission whose TR was written in both copies, and the vector; with no step running the
boundary goes on (R411 step 3, R418). -/
def acceptRecord (s : State) : State :=
  match s.coach.accepting with
  | none => s
  | some bs =>
    coachTry s [ringPa s accRing 16 (ringTail s accRing)] (
      let s := coachEvent (ringPush (modCoach s fun c => { c with accepting := none }) accRing bs) 8
      if s.coach.phase = .idle then finishBoundary (modCoach s fun c => { c with phase := .records (stepNo s).toNat }) else s)
/-- The PAs that the checks of a submission access: its entry, then the table or, where it is refused, the completion ring. -/
def submitPas (s : State) : List Nat :=
  ringPa s subRing 256 (ringHead s subRing) ::
    (if submissionBad (ringGet s subRing 256 (ringHead s subRing)) then [ringPa s cplRing 32 (ringTail s cplRing)]
      else touched s ([0x28, 0x30].map fun r => (coachCtxN, (areg s (coachBase + r)).toNat, 0x100000)))
/-- R411: a submission is refused, or takes a slot. DESIGN CHOICE (log entry 106): the lowest free one, where R411 says a free
slot. -/
def coachSubmission (s : State) : State :=
  if !coachOn s || !ringEn s subRing || ringHead s subRing == ringTail s subRing || subWaits s || s.coach.accepting.isSome then s
  else coachTry s (submitPas s) (
    let t := ringGet s subRing 256 (ringHead s subRing)
    let s := ringPop s subRing
    match (if submissionBad t then none else (List.range 4096).find? (slotFree s)) with
    | none =>
      let (acc, s) := freeVal s 64
      coachEvent (ringPush s cplRing (completion t acc.toNat 5 1)) 9
    | some q =>
      let acc := s.coach.accSeq + 1
      let s := trWrite s q (patch (setSeat t 0xFFFF) 72 (leBytes 8 acc))
      acceptRecord (modCoach s fun c =>
        { c with accSeq := acc, first := q :: c.first.filter (fun p => p != q), lost := dropLost t c.lost
                 accepting := some (t.take 8 ++ leBytes 8 acc) }))
def execCoachSubmission (s : State) : Out := .next (coachSubmission s)

/-! ### Request commands (R419, R420) and warm reset (R415) -/

/-- A command on the request of a slot, taken in some states and otherwise ignored, which is counted. -/
def onState (s : State) (slot : Nat) (ok : Nat → Bool) (f : State) : State :=
  if 4096 ≤ slot then s
  else
    let t := trRead s slot
    if bfld t 0 8 != 0 && ok (trState t) then f else modCoach s fun c => { c with ignoredCmds := c.ignoredCmds + 1 }
/-- The effect of a request command by its operation in CMD: 1 EVICT, 2 PARK, 3 UNPARK, 4 RELEASE (R419, R420). -/
def cmdEffect (s : State) (op slot : Nat) : State :=
  match op with
  | 1 => onState s slot (fun n => n == 1)
    (match s.coach.seats.find? fun e => e.2 == slot with
      | some e => modCoach s fun c => { c with evicted := if c.evicted.contains e.1 then c.evicted else c.evicted ++ [e.1] }
      | none => s)
  | 2 => onState s slot (fun n => n == 0 || n == 1)
    (modCoach (trCommand s slot 2) fun c => { c with
      leaving := c.leaving ++ ((c.seats.filter fun e => e.2 == slot).map fun e => e.1) })
  | 3 => onState s slot (fun n => n == 2) (trCommand s slot 0)
  | _ => onState s slot (fun n => n == 6) (trCommand s slot 0)
/-- A command whose TR is reached, and that none waits before, acts at once; any other one waits (log entry 105). -/
def takeCmd (s : State) (op slot : Nat) : State :=
  let pas := touched s (trMem s [slot])
  if s.coach.cmds = [] && coachReach s pas then cmdEffect s op slot
  else modCoach (coachAsk s pas) fun c => { c with cmds := c.cmds ++ [(op, slot)] }
def execCmdEvict (slot : Nat) (s : State) : Out := .next (takeCmd s 1 slot)
def execCmdPark (slot : Nat) (s : State) : Out := .next (takeCmd s 2 slot)
def execCmdUnpark (slot : Nat) (s : State) : Out := .next (takeCmd s 3 slot)
def execCmdRelease (slot : Nat) (s : State) : Out := .next (takeCmd s 4 slot)
/-- COACH_BOUNDARY: writes that wait at issue are sent, a command or an acceptance record that waited is next, and then the
step ends, waits for its verdict, or its boundary goes on. -/
def coachBoundary (s : State) : State :=
  if s.hwOut ≠ [] then flushHw s
  else match s.coach.cmds with
    | (op, slot) :: r =>
      coachTry s (touched s (trMem s [slot])) (cmdEffect (modCoach s fun c => { c with cmds := r }) op slot)
    | [] => if s.coach.accepting.isSome then acceptRecord s else coachGoOn s
def execCoachBoundary (s : State) : Out := .next (coachBoundary s)
/-- WARM_RESET (R415): an incomplete record is discarded and its step run again; a complete one that was not applied yet
is applied, and the boundary goes on. One that was applied holds the values that the TRs have since the commit, and
applying it again gives the same TRs. -/
def execWarmReset (s : State) : Out :=
  .next (match s.coach.phase, s.coach.journal with
    | .commit, some j => if j.complete then commitStep s j else rerun (modCoach s fun c => { c with journal := none })
    | _, _ => s)

/-! ### The package tick (R466) -/

def ptickPa : Nat := ioBlock 0 + 0x04000210
/-- PTICK advances, after the snapshot of its tick was latched; the Coach counts a tick that it waits in (R412). -/
def execPtickTick (s : State) : Out :=
  .next (if s.snapPend.isSome then s
    else
      let held := match s.coach.phase with
        | .records _ => !s.coach.records.isEmpty
        | _ => false
      let s := modCoach s fun c => { c with
        subTicks := c.subTicks + (subWaits s).toNat, recTicks := c.recTicks + held.toNat }
      tickReg s ptickPa)

end Sys2Proof.Machine
end

