-- ==== Sys2Proof/Machine/Fabric.lean ====
section
/-! DEFINITION. Links between dies (R379, R380), outward links and their flits (R449 to R456), and what the part shows to
its hosts and its surroundings: FABCFG (R448), Stewards (R402), doorbell and MSI-X (R463), control semaphores (R465),
snapshots (R466), ports (R460), boot and reports (R468, R469), dies (R404 to R406), power (R471). -/
namespace Sys2Proof.Machine

/-! ### Links (R375, R379, R449) -/

/-- The other end of a link within the package. -/
def linkPeer (d L : Nat) : Option Nat := if L < 6 ∧ L % 2 = 0 then some (d ^^^ 2 ^ (L / 2)) else none
/-- Both ends of a link take a state; entering or leaving UP is an event (R463). -/
def setLink (s : State) (d L st : Nat) : State :=
  let was := linkState s d L
  let put (s : State) (e : Nat) : State := setAreg s (linkPa e L) (setFld (areg s (linkPa e L)) 1 0 st)
  let s := put s d
  let s := match linkPeer d L with
    | some e => put s e
    | none => s
  if (was == 2) != (st == 2) then msixAll s 14 else s
/-- The outward link of a die in a dimension, among the 24 of the package: I/O die and number j (R262). -/
def trunkKey (d dim : Nat) : Nat := 12 * (d / 4) + 3 * (d % 4) + dim
def trunkAt (s : State) (k : Nat) : Trunk := (aget s.trunks k).getD Trunk.zero
def putTrunk (s : State) (k : Nat) (t : Trunk) : State := { s with trunks := aput s.trunks k t }
def trunkDie (k : Nat) : Nat := 4 * (k / 12) + k % 12 / 3
def trunkDim (k : Nat) : Nat := k % 3
def trunkUp (s : State) (k : Nat) : Bool := linkUp s (trunkDie k) (2 * trunkDim k + 1)
/-! ### Channels (R377) -/

/-- The channel of a hop for a packet (R377). -/
def channelOf (h : Hop) (p : Packet) : Nat := 16 * h.dim + 8 * h.dir + 2 * p.response.toNat + h.detour.toNat
/-- Free slots of a channel of a router; each has 8. -/
def slotsFree (s : State) (g ch : Nat) : Nat := 8 - (s.packets.filter fun q => q.at_ == g && q.queued == some ch).length
def modPacket (s : State) (id : Nat) (f : Packet → Packet) : State :=
  { s with packets := mapIf (fun q => q.id == id) f s.packets }
/-- The link that a queued packet waits for. -/
def queuedLink (s : State) (p : Packet) : Option Nat :=
  match p.queued with
  | some c => if c < 1000 then some (linkFor s (p.at_ % 8) (c / 16) (c / 8 % 2)) else some (2 * trunkDim (c - 1000) + 1)
  | none => none

/-! ### Links going down and up (R379, R380, R454, R456) -/

/-- Packets that wait for a link are taken back, marked RESENT, to be injected again (R380). -/
def takeBack (s : State) (d L : Nat) : State :=
  let mine (p : Packet) : Bool := p.at_ == globalDie s d && queuedLink s p == some L
  { s with packets := mapIf mine (fun p => { p with queued := none, resent := true, detour := [], flits := 0 }) s.packets }
/-- An end completes its rollover at once (R456). DESIGN CHOICE (log entry 101): a NEXTKEY that is loaded becomes CURKEY whether
or not a SWITCH was written, since a receiver cannot tell, and the two ends must agree. -/
def finishRollover (t : Trunk) : Trunk :=
  { t with
    txKey := t.txNext.getD t.txKey, txNext := none, rxKey := t.rxNext.getD t.rxKey, rxNext := none, txState := 0, rxState := 0
    outQ := [], replay := [], resendFrom := none, nak := false }
def linkFail (s : State) (d L : Nat) : State :=
  if !linkUp s d L then s
  else
    let s := takeBack s d L
    let s := match linkPeer d L with
      | some e => takeBack s e L
      | none => s
    let s := if L < 6 ∧ L % 2 = 1 then
        let k := trunkKey d (L / 2)
        putTrunk s k (finishRollover (trunkAt s k))
      else s
    setLink s d L 0
def execLinkDown (die link : Nat) (s : State) : Out := .next (if die < 8 ∧ link < 7 then linkFail s die link else s)
/-- TRAIN: an outward link exchanges FABCFG with its partner, whose word is the partner's own (a free value; R450). -/
def linkTrain (s : State) (d L : Nat) : State :=
  if linkState s d L ≠ 0 then s
  else if L < 6 ∧ L % 2 = 1 then
    let k := trunkKey d (L / 2)
    let (w, s) := freeVal s 14
    setLink (putTrunk s k { trunkAt s k with partner := w }) d L 1
  else setLink s d L 1
def execLinkTrain (die link : Nat) (s : State) : Out := .next (if die < 8 ∧ link < 7 then linkTrain s die link else s)
/-- The word that the neighbour of an outward link sends is the one R449 asks for (R450). -/
def partnerOk (s : State) (k : Nat) : Bool :=
  let dim := trunkDim k
  let p := fabP s dim
  let c := fabC s dim
  let n := if trunkDie k / 2 ^ dim % 2 = 1 then (c + 1) % p else (c + p - 1) % p
  let f := areg s (ioBlock 0 + 0x04000100)
  let want := setFld f (1 + 2 * dim) (2 * dim) n
  (trunkAt s k).partner.toNat == fld want 13 0 && decide (2 ≤ p)
/-- LINK_UP: training succeeds. An outward link starts its counts anew under CURKEY. -/
def linkTrained (s : State) (d L : Nat) : State :=
  if linkState s d L ≠ 1 then s
  else if L < 6 ∧ L % 2 = 1 then
    let k := trunkKey d (L / 2)
    if !partnerOk s k then s
    else
      let t := trunkAt s k
      setLink (putTrunk s k { t with
        txCount := 0, rxCount := 0, ackSeen := 0, epoch := false, rxEpoch := false, keyStart := 0 }) d L 2
  else setLink s d L 2
def execLinkUp (die link : Nat) (s : State) : Out := .next (if die < 8 ∧ link < 7 then linkTrained s die link else s)
/-- LINK_TRAIN_TIMEOUT: the failure is counted in LINKERR of both ends. -/
def execLinkTrainTimeout (die link : Nat) (s : State) : Out :=
  .next (if die < 8 ∧ link < 7 ∧ linkState s die link = 1 then
      let count (s : State) (d : Nat) : State := setAreg s (linkPa d link + 8) (areg s (linkPa d link + 8) + 1)
      let s := setLink (count s die) die link 0
      match linkPeer die link with
      | some e => count s e
      | none => s
    else s)

/-! ### Flits (R452 to R456) -/

def trunkId (s : State) (k : Nat) : Nat := fld (areg s (ioBlock (k / 12) + 0x04001000 + 0x80 * (k % 12) + 0x48)) 31 0
/-- The nonce of a flit (R453), little-endian as every field is (R3). -/
def flitNonce (s : State) (k count : Nat) : List Byte := leBytes 4 (trunkId s k) ++ leBytes 8 count
/-- The 64-bit count nearest to `base` with the given low 16 bits. -/
def extend16 (base v : Nat) : Nat :=
  let d := (v + 65536 - base % 65536) % 65536
  if d < 32768 then base + d else if 65536 ≤ base + d then base + d - 65536 else base + d
/-- The bytes of a flit. -/
def flitBytes (s : State) (k : Nat) (t : Trunk) (key : BitVec 256) (payload : List Byte) : List Byte :=
  let hdr := leBytes 2 t.txCount ++ leBytes 2 t.rxCount ++ leBytes 1 (t.epoch.toNat + 2 * t.nak.toNat) ++ leBytes 2 t.ackSeen ++
    leBytes 1 payload.length
  let kb := leBytes 32 key.toNat
  let nonce := flitNonce s k t.txCount
  let ct := xorBytes (payload ++ List.replicate (104 - payload.length) 0) (gcmStream kb nonce 104)
  hdr ++ ct ++ gcmTag kb nonce hdr ct
/-- FLIT_SEND: a stored flit again after a NAK, or the next new one, if the replay buffer has room. -/
def flitSend (s : State) (k : Nat) : State :=
  let t := trunkAt s k
  let resend := match t.resendFrom with
    | some n => t.replay.find? (fun (e : Nat × Option Nat × List Byte × Nat) => decide (n ≤ e.1))
    | none => none
  if !trunkUp s k then s
  else match resend with
    | some e =>
      putTrunk s k { t with
        sent := t.sent ++ [e.2.2.1], resendFrom := some (e.1 + 1)
        replay := mapIf (fun f => f.1 == e.1) (fun f => (f.1, f.2.1, f.2.2.1, f.2.2.2 + 1)) t.replay }
    | none =>
      if 1024 ≤ t.replay.length then putTrunk s k { t with resendFrom := none }
      else if 2 ^ 48 ≤ t.txCount - t.keyStart then linkFail s (trunkDie k) (2 * trunkDim k + 1)
      else
        let t := if t.txState = 1 ∧ t.txCount = t.switch then
            { t with txState := 2, epoch := !t.epoch, keyStart := t.txCount } else t
        let key := if t.txState = 2 then t.txNext.getD t.txKey else t.txKey
        let payload := (t.outQ.head?.map (fun (e : Nat × List Byte) => e.2)).getD []
        let bytes := flitBytes s k t key payload
        putTrunk s k { t with
          txCount := t.txCount + 1, nak := false, outQ := t.outQ.drop 1, sent := t.sent ++ [bytes], resendFrom := none
          replay := t.replay ++ [(t.txCount, t.outQ.head?.map (fun (e : Nat × List Byte) => e.1), bytes, 0)] }
def execFlitSend (io link : Nat) (s : State) : Out := .next (if io < 2 ∧ link < 12 then flitSend s (12 * io + link) else s)
/-- An ACK covers the flits below it (R454, R456). A packet whose flits are all covered has left the package. -/
def ackReceive (s : State) (k a : Nat) : State :=
  let t := trunkAt s k
  if a < t.ackSeen ∨ t.txCount < a then s
  else
    let hit := (t.replay.filter (fun (e : Nat × Option Nat × List Byte × Nat) => decide (e.1 < a))).filterMap (fun (e : Nat × Option Nat × List Byte × Nat) => e.2.1)
    let left (p : Packet) : Nat := p.flits - (hit.filter fun q => q == p.id).length
    let gone := (s.packets.filter fun p => hit.contains p.id && left p == 0).map fun p => p.id
    let reqs := (s.packets.filter fun p => gone.contains p.id).filterMap fun p => match p.payload with
      | .req q => some q
      | _ => none
    let t := { t with ackSeen := a, replay := t.replay.filter (fun (e : Nat × Option Nat × List Byte × Nat) => decide (a ≤ e.1)) }
    let t := if t.txState = 2 ∧ t.switch ≤ a then { t with txState := 0, txKey := t.txNext.getD t.txKey, txNext := none } else t
    { putTrunk s k t with
      packets := (s.packets.filter fun p => !gone.contains p.id).map fun p => { p with flits := left p }
      requests := mapIf (fun r => reqs.contains r.id) (fun r => { r with arrived := true }) s.requests }
def execAckReceive (io link count : Nat) (s : State) : Out :=
  .next (if io < 2 ∧ link < 12 ∧ trunkUp s (12 * io + link) then ackReceive s (12 * io + link) count else s)
/-- A NAK (R454): flits from the count on go again; one that was resent 8 times takes the link down. -/
def nakReceive (s : State) (k n : Nat) : State :=
  let t := trunkAt s k
  if t.replay.any (fun (e : Nat × Option Nat × List Byte × Nat) => decide (n ≤ e.1) && decide (8 ≤ e.2.2.2)) then linkFail s (trunkDie k) (2 * trunkDim k + 1)
  else putTrunk s k { t with resendFrom := some n }
def execNakReceive (io link count : Nat) (s : State) : Out :=
  .next (if io < 2 ∧ link < 12 ∧ trunkUp s (12 * io + link) then nakReceive s (12 * io + link) count else s)
/-- FLIT_RECEIVE (R453, R456). -/
def flitReceive (s : State) (k : Nat) (f : List Byte) : State :=
  let t := trunkAt s k
  let n := extend16 t.rxCount (bfld f 0 2)
  if !trunkUp s k || f.length != 128 || decide (n < t.rxCount) then s
  else
    let other := (bfld f 4 1 % 2 == 1) != t.rxEpoch
    let key := if other then t.rxNext else some t.rxKey
    let hdr := f.take 8
    let ct := (f.drop 8).take 104
    let nonce := flitNonce s k n
    let ok := match key with
      | some x => gcmTag (leBytes 32 x.toNat) nonce hdr ct == f.drop 112
      | none => false
    if n ≠ t.rxCount || !ok then putTrunk s k { t with nak := true }
    else
      let body := (xorBytes ct (gcmStream (leBytes 32 (key.getD 0).toNat) nonce 104)).take (bfld f 7 1)
      let t := { t with rxCount := t.rxCount + 1, inQ := if body.isEmpty then t.inQ else t.inQ ++ [body] }
      let t := if other && t.rxState == 0 then { t with rxState := 1, rxSwitch := n } else t
      let seen := extend16 t.rxCount (bfld f 5 2)
      let t := if t.rxState = 1 ∧ t.rxSwitch ≤ seen ∧ seen ≤ t.rxCount then
          { t with rxState := 0, rxKey := t.rxNext.getD t.rxKey, rxNext := none, rxEpoch := !t.rxEpoch } else t
      let a := extend16 t.ackSeen (bfld f 2 2)
      let s := ackReceive (putTrunk s k t) k a
      if bfld f 4 1 / 2 % 2 = 1 then nakReceive s k a else s
def execFlitReceive (io link : Nat) (flit : List (BitVec 8)) (s : State) : Out :=
  .next (if io < 2 ∧ link < 12 then flitReceive s (12 * io + link) flit else s)
/-- SWITCH (R455): ignored outside STEADY and without a loaded NEXTKEY. -/
def execSwitchWrite (io link : Nat) (v : BitVec 64) (s : State) : Out :=
  .next (if io < 2 ∧ link < 12 then
      let t := trunkAt s (12 * io + link)
      if t.txState = 0 ∧ t.txNext.isSome then putTrunk s (12 * io + link) { t with txState := 1, switch := v.toNat } else s
    else s)
/-- A key slot (R262, R455): CURKEY only while the link is DOWN. -/
def execLinkKeyWrite (io link : Nat) (next : Bool) (key : BitVec 256) (s : State) : Out :=
  .next (if io < 2 ∧ link < 12 then
      let k := 12 * io + link
      let t := trunkAt s k
      if next then putTrunk s k { t with txNext := some key, rxNext := some key }
      else if linkState s (trunkDie k) (2 * trunkDim k + 1) = 0 then putTrunk s k { t with txKey := key, rxKey := key }
      else s
    else s)
/-- FABCFG (R448): an ignored write is recorded. -/
def execFabcfgWrite (v : BitVec 64) (s : State) : Out :=
  .next (if ((List.range 24).any fun k => linkState s (trunkDie k) (2 * trunkDim k + 1) != 0) ||
        ((List.range 3).any fun i => decide (fld v (9 + 2 * i) (8 + 2 * i) < fld v (1 + 2 * i) (2 * i))) then countIoIgnored s 0
    else setAreg s (ioBlock 0 + 0x04000100) (v &&& 0x3F3F))

/-! ### Stewards, doorbell, MSI-X, control semaphores (R402, R463, R465) -/

def execStewardHalt (io n : Nat) (s : State) : Out :=
  .next (if 2 ≤ io ∨ 16 ≤ n then s
    else
      let sid := 2048 + 16 * io + n
      let s := setAreg s (stewardCtl sid) 1
      match (streamAt s sid).phase with
      | .holding _ | .halted => s
      | _ => haltSteward s sid)
def execStewardResume (io n : Nat) (s : State) : Out :=
  .next (if 2 ≤ io ∨ 16 ≤ n then s
    else
      let sid := 2048 + 16 * io + n
      let s := setAreg s (stewardCtl sid) 0
      if (streamAt s sid).phase = .halted then
        modStream (modSteward s (16 * io + n) fun w => { w with sstatus := 0 }) sid fun st => { st with phase := .running }
      else s)
def execDbell (io : Nat) (v : BitVec 64) (s : State) : Out :=
  .next (if io < 2 then eventAll (setAreg s (ioBlock io + 0x04000708) v) 1 else s)
def execMsiraise (io : Nat) (v : BitVec 64) (s : State) : Out :=
  .next (if io < 2 ∧ 32 ≤ v.toNat ∧ v.toNat < 64 then msixAll s v.toNat else s)
/-- A pending vector of a trained link sends its message; one that still may not stays pending. -/
def sendPending (s : State) (link vec : Nat) : State :=
  let p := areg s (msixPba link)
  let up := (vget s.hostLinks link { trained := false, cxl := false }).trained
  if up && bitAt p vec then msixOn (setAreg s (msixPba link) (setFld p vec vec 0)) link vec else s
/-- The host enables or disables MSI-X in the function of a trained link: what is pending and unmasked is sent (R463). -/
def msixEnable (s : State) (link : Nat) (on : Bool) : State :=
  let h := vget s.hostLinks link { trained := false, cxl := false }
  let s := { s with hostLinks := vset s.hostLinks link { h with msix := on && h.trained } }
  forN 64 (fun v s => sendPending s link v) s
/-- MSIX_UNMASK: vector `vec` is unmasked; 64 and 65 stand for the function, whose MSI-X the host enables or disables (R463;
log entry 35). -/
def execMsixUnmask (link vec : Nat) (s : State) : Out :=
  .next (if 4 ≤ link ∨ 66 ≤ vec then s
    else if 64 ≤ vec then msixEnable s link (vec == 64)
    else sendPending (setAreg s (msixEntry link vec + 8) (setFld (areg s (msixEntry link vec + 8)) 32 32 0)) link vec)
def csemOwner (s : State) (n : Nat) : Option Nat := vget s.csem n none
/-- What a read of a control semaphore returns. -/
def csemValue (s : State) (n : Nat) : Word :=
  match csemOwner s n with
  | none => 0
  | some m => BitVec.ofNat 64 (256 + m)
def csemRead (s : State) (m n : Nat) : State :=
  match csemOwner s n with
  | none => { s with csem := vset s.csem n (some m) }
  | some _ => s
def execCsemRead (master n : Nat) (s : State) : Out := .next (if master < 2 ∧ n < 16 then csemRead s master n else s)
def csemWrite (s : State) (m n : Nat) : State :=
  if csemOwner s n = some m then { s with csem := vset s.csem n none } else s
def execCsemWrite (master n : Nat) (s : State) : Out := .next (if master < 2 ∧ n < 16 then csemWrite s master n else s)
/-- Every semaphore of a master is released. -/
def releaseMaster (s : State) (m : Nat) : State := forN 16 (fun n s => csemWrite s m n) s
/-- A reset or a link down (R465): the link trains anew. DESIGN CHOICE (log entry 125): R465 says of each of the resets that the
master's semaphores are released, and not whether a function-level reset leaves the link trained: it does not. -/
def execHostLinkReset (link : Nat) (s : State) : Out :=
  .next (if 4 ≤ link then s
    else { releaseMaster s (link % 2) with hostLinks := vset s.hostLinks link { trained := false, cxl := false } })
/-- A host link trains; whether its function has MSI-X enabled is then its host's (a free value; log entry 35). -/
def execHostLinkTrained (link : Nat) (cxl : Bool) (s : State) : Out :=
  .next (if 4 ≤ link then s else 
    let (b, s) := freeVal s 1
    { s with hostLinks := vset s.hostLinks link { trained := true, cxl := cxl, msix := b == 1 } })

/-! ### Snapshots (R466) -/

def execSnapshotTrigger (src : BitVec 3) (s : State) : Out := .next (snapTrigger s src)
def execSnapshotRelease (s : State) : Out :=
  .next { setAreg s snapctl (setFld (setFld (areg s snapctl) 63 56 0) 7 7 0) with snap := none }
/-- The state of every block, as a snapshot copies it and as the Atlas reads it live (R466, R467). -/
def blocksOf (s : State) (src : BitVec 3) (tick : BitVec 48) : Snap :=
  { src := src, tick := tick, streams := s.streams, stewards := s.stewards, swTlb := s.swTlb, cores := s.cores, dies := s.dies
    gangs := s.gangs, claims := s.claims, atlas := s.atlas, requests := s.requests, scopes := s.scopes
    scopeUpds := s.scopeUpds, plats := s.plats, platUpds := s.platUpds, replats := s.replats, packets := s.packets
    coach := s.coach, trunks := s.trunks, tracked := s.tracked, hostLinks := s.hostLinks, csem := s.csem
    throttled := s.throttled, ioIgnored := s.ioIgnored, remotes := s.remotes, hwOut := s.hwOut
    kernRoot := s.kernRoot, boot := s.boot
    dormosVersion := s.dormosVersion, mem := s.mem, dram := s.dram, keyTags := s.keyTags, saves := s.saves }
/-- PTICK equals MATCH; a MATCH of 0 is disabled. -/
def execSnapshotTickMatch (s : State) : Out :=
  .next (if fld (areg s snapctl) 55 8 ≠ 0 ∧ fld (areg s ptickPa) 47 0 = fld (areg s snapctl) 55 8 then snapTrigger s 4 else s)
def execSnapshotLatch (s : State) : Out :=
  .next (match s.snapPend with
    | none => s
    | some src =>
      let tick := areg s ptickPa
      let s := setAreg s snapctl (setFld (setFld (areg s snapctl) 7 7 1) 6 4 src.toNat)
      let s := setAreg s (snapctl + 8) tick
      msixAll { s with snap := some (blocksOf s src (tick.setWidth 48)), snapPend := none } 11)

/-! ### Power (R471) -/

def execThermalThrottle (die : Nat) (s : State) : Out :=
  .next (if die < 8 ∧ !s.throttled.contains die then { s with throttled := die :: s.throttled } else s)
def execThrottlingEnd (die : Nat) (s : State) : Out := .next { s with throttled := s.throttled.filter fun d => d != die }
/-- Every die stops, and the host links go down, which releases the semaphores (R465). -/
def execThermalTrip (s : State) : Out :=
  .next { releaseMaster (releaseMaster s 0) 1 with
    tripped := true, hostLinks := Vector.replicate 4 { trained := false, cxl := false } }

/-! ### Boot and reports (R468, R469) -/

def bootBase : Nat := ioBlock 0 + 0x04004000
/-- Bytes into Atlas registers, and out of them, from an aligned address on. -/
def aregsWrite (s : State) (pa : Nat) (bs : List Byte) : State :=
  forN ((bs.length + 7) / 8) (fun i s => setAreg s (pa + 8 * i) (dword bs i)) s
def aregsRead (s : State) (pa n : Nat) : List Byte :=
  ((List.range ((n + 7) / 8)).flatMap fun i => leBytes 8 (areg s (pa + 8 * i)).toNat).take n
def setBootstat (s : State) (v : BitVec 64) : State := msixAll (setAreg s bootBase v) 12
/-- The ROM verifies an image, and starts Dormos or waits for a new image. -/
def bootImage (s : State) (img : List Byte) : State :=
  let (pk, sig, hdr, body, ver) := Config.imageParts img
  let bad (n : Nat) : State := { setBootstat s (Config.bootReason n) with boot := .waitImage }
  if shake256 32 pk ≠ Config.rootKeyHash then bad 0
  else if !Config.mldsaVerify pk (hdr ++ shake256 32 body) sig then bad 1
  else if ver < Config.minSecurity then bad 2
  else
    let s := aregsWrite s (bootBase + 0x20) (shake256 32 img)
    let s := { s with
      boot := .dormos, dormosVersion := ver, mem := mwrite s.mem (swBase 2048) (body.take 0x200000) }
    modStream s 2048 fun st => { st with phase := .running, pc := 0 }
def execPowerOn (s : State) : Out :=
  .next (if s.boot ≠ .off then s else if s.flash = [] then { s with boot := .waitImage } else bootImage s s.flash)
def execBootgo (s : State) : Out :=
  .next (if s.boot = .waitImage then bootImage s (mread s.mem (ioBlock 0 + 0x09000000) 0x1000000) else s)
def execReportgo (s : State) : Out :=
  let req := aregsRead s (bootBase + 0x1000) 64
  let body := leBytes 4 1 ++ leBytes 4 s.dormosVersion ++ req.take 32 ++ aregsRead s (bootBase + 0x20) 32 ++
    shake256 32 Config.fuseConfig ++ leBytes 8 Config.serial.toNat ++ aregsRead s (ioBlock 0 + 0x04000100) 8 ++ req.drop 32
  .next (aregsWrite s (bootBase + 0x2000) (body ++ (Config.mldsaSign body).take 3309))

/-! ### Dies (R404 to R406, R429) -/

def setDieState (s : State) (d n : Nat) : State := msixAll (setAreg s (dstatePa d) (BitVec.ofNat 64 n)) 13
def execDieJoin (die : Nat) (s : State) : Out :=
  .next (if die < 8 ∧ (dieState s die = 0 ∨ 4 ≤ dieState s die) then setDieState s die 1 else s)
/-- The links of a joining die were trained: to its I/O die, and to the dies that serve (log entry 30). -/
def joinLinks (s : State) (d : Nat) : State :=
  [0, 2, 4, 6].foldl (fun s L =>
    let peer := match linkPeer d L with
      | some e => dieServes s e
      | none => true
    if peer && !linkUp s d L then setLink s d L 2 else s) s
def execDieJoinComplete (die : Nat) (s : State) : Out :=
  .next (if die < 8 ∧ dieState s die = 1 then setDieState (joinLinks s die) die 2 else s)
def execDieJoinFail (die : Nat) (s : State) : Out := .next (if die < 8 ∧ dieState s die = 1 then setDieState s die 0 else s)
def execDieLeave (die : Nat) (s : State) : Out := .next (if die < 8 ∧ dieState s die = 2 then setDieState s die 3 else s)
/-- A leg runs or waits on a die. -/
def legOnDie (s : State) (d : Nat) : Bool :=
  (s.gangs.any fun e => e.1 / 64 == d) || (List.range 8).any fun q => ringHead s (lqRegs d q) != ringTail s (lqRegs d q)
/-- Every link of a die goes DOWN, one that trains too. -/
def allLinksDown (s : State) (d : Nat) : State :=
  forN 7 (fun L s => if linkState s d L = 1 then setLink s d L 0 else linkFail s d L) s
/-- Requests that still hold pages lent by a die, at first or further hand, or to it, become EVICTED at the next boundary (R429). -/
def evictLent (s : State) (d : Nat) : State :=
  markLost s fun _ seq => (List.range 8).any fun e => kvAny s e fun k =>
    kvSeqIs seq k && k.borrowed && (e == d || lentBy s d (BitVec.ofNat 64 k.page) (some k.lender) 8)
/-- A free page of die `b` goes back from lender to lender until die `d` has it again. -/
def takeBackPage (s : State) (d b : Nat) (e : Word × Option Nat) (fuel : Nat) : State :=
  match fuel, e.2 with
  | n + 1, some l =>
    let s := returnPage (modPool s b fun q => { q with free := q.free.erase e }) b l e.1
    if l = d then s else takeBackPage s d l (e.1, lenderOf s l e.1) n
  | _, _ => s
/-- The pool of a die that leaves (R429): its borrowed pages go back, and its lent ones come back where they are free, those that
were lent on too. A page that a request still holds comes back when it is freed. -/
def poolLeave (s : State) (d : Nat) : State :=
  let s := (dieAt s d).pool.free.foldl (fun s e => match e.2 with
    | some l => giveBack (modPool s d fun q => { q with free := q.free.erase e }) d l e.1 8
    | none => s) s
  forN 8 (fun b s => ((dieAt s b).pool.free.filter fun e => lentBy s d e.1 e.2 8).foldl (fun s e => takeBackPage s d b e 8) s) s
/-- DONE (R405): the slices are written back and hold no line any more, carved storage goes, and the links go DOWN. -/
def execDieDone (die : Nat) (s : State) : Out :=
  .next (if 8 ≤ die ∨ dieState s die ≠ 3 then s
    else if legOnDie s die then countIgnored s die
    else
      let base := 0x8000000000 + die * 0x40000000
      let s := modDie (poolLeave (evictLent s die) die) die fun x => { x with replicas := [] }
      let s := { s with
        dram := s.dram.filter fun e => e.1 * 32 / 2 ^ 36 != die
        mem := s.mem.filter fun c => !(decide (base ≤ c.1) && decide (c.1 < base + 0x40000000)) }
      noteLost (setDieState (allLinksDown s die) die 5))
/-- DIE_FAILED: every link is DOWN, or its network failed; its links are then DOWN. -/
def execDieFailed (die : Nat) (s : State) : Out :=
  .next (if die < 8 ∧ dieState s die = 2 then noteLost (setDieState (allLinksDown s die) die 4) else s)

/-! ### Ports (R459, R460) -/

def portRing (io : Nat) (storage : Bool) (r : Nat) : Nat :=
  ioBlock io + 0x05000000 + (if storage then 0x100 else 0) + 0x20 * r
/-- The TLB of a port (R359). -/
def portTlb (io : Nat) (storage : Bool) : Nat := 544 + io + (if storage then 2 else 0)
/-- The descriptor at the head of a ring that is enabled and not empty. -/
def portHead (s : State) (r : Nat) : Option (List Byte) :=
  if ringEn s r && ringHead s r != ringTail s r then some (ringGet s r 32 (ringHead s r)) else none
/-- A descriptor completes: its status byte, the head, the vector. -/
def portDone (s : State) (io : Nat) (storage : Bool) (ring status : Nat) : State :=
  let r := portRing io storage ring
  let s := hwStore s (4 * io) (ringPa s r 32 (ringHead s r) + 24) [BitVec.ofNat 8 status] 0
  msixIo (ringPop s r) io ((if storage then 24 else 16) + ring)
def descVa (b : List Byte) : BitVec 64 := BitVec.ofNat 64 (bfld b 0 8)
/-- A read or a write of a descriptor's buffer; a fault completes it with its code. -/
def portRead (s : State) (io : Nat) (storage : Bool) (ring : Nat) (b : List Byte) (k : List Byte → State → State) : State :=
  match vaRead s (portTlb io storage) (bfld b 12 1 % 64) (descVa b) (bfld b 8 4) .rd with
  | (.error e, s) => portDone s io storage ring e.1.toNat
  | (.ok bs, s) => portDone (k bs s) io storage ring 1
/-- Data that a port writes to its descriptor's buffer. DESIGN CHOICE (log entry 103): of data that is longer than the
descriptor says, the length it says is written, and the descriptor completes with status 1. -/
def portWrite (s : State) (io : Nat) (storage : Bool) (ring : Nat) (b data : List Byte) : State :=
  let o : RemoteOwner := .port io storage ring
  let put (s : State) (x : Xlat) (bs : List Byte) : Except (BitVec 8 × Word) Unit × State :=
    if isFabric s x.pa then
      match sendRemote s (globalDie s (4 * io)) x.pa bs o with
      | some s => (.ok (), s)
      | none => (.error (notYet, 0), s)
    else (.ok (), paWrite s x.pa bs (leafKey x.via.leaf))
  match vaWriteBy s (portTlb io storage) (bfld b 12 1 % 64) (descVa b) (data.take (bfld b 8 4)) put with
  | (.error e, t) => if e.1 = notYet then s else portDone t io storage ring e.1.toNat
  | (.ok _, t) => if remoteOut t o then t else portDone t io storage ring 1
/-- The step of a port ring whose head asks for an operation; it waits for the answers to its writes (R457), and where the ring
lies in the window of a host link, for the link (R462). -/
def portStep (s : State) (io : Nat) (storage : Bool) (ring op : Nat) (f : List Byte → State) : State :=
  let r := portRing io storage ring
  if 2 ≤ io || decide (8 ≤ ring) || remoteOut s (.port io storage ring) then s
  else match portHead s r with
    | some b =>
      if !hostGo s 0 (ringPa s r 32 (ringHead s r)) then hostAsk s 0 (ringPa s r 32 (ringHead s r))
      else if bfld b 13 1 = op then f b else s
    | none => s
/-- The largest frame of an Ethernet port (R459). -/
def maxFrame : Nat := 9216
/-- A frame goes out on the port of its descriptor. One that is longer than a port carries, or names no port, is not sent, and
completes with a status that the spec does not give (a free value; log entry 86). -/
def execNetSend (io ring : Nat) (s : State) : Out :=
  .next (portStep s io false ring 0 fun b =>
    if maxFrame < bfld b 8 4 ∨ 8 ≤ bfld b 14 2 then
      let (v, s) := freeVal s 8
      portDone s io false ring v.toNat
    else portRead s io false ring b fun bs s => { s with netOut := s.netOut ++ [(bfld b 14 2, bs)] })
/-- A frame that arrives on a port goes to the descriptor at a ring's head, if it asks for that port: `ring` holds the ring in
[2:0] and the frame's port above it. -/
def execNetReceive (io ring : Nat) (frame : List (BitVec 8)) (s : State) : Out :=
  .next (portStep s io false (ring % 8) 1 fun b =>
    if maxFrame < frame.length ∨ 64 ≤ ring ∨ bfld b 14 2 ≠ ring / 8 then s else portWrite s io false (ring % 8) b frame)
/-- An NVMe controller stands below a host link that trained as PCIe (R460). -/
def nvmeOn (s : State) : Bool :=
  [0, 1, 2, 3].any fun l => let h := vget s.hostLinks l { trained := false, cxl := false }
    h.trained && !h.cxl
def execStorageRead (io ring : Nat) (data : List (BitVec 8)) (s : State) : Out :=
  .next (if nvmeOn s then portStep s io true ring 0 fun b => portWrite s io true ring b data else s)
def execStorageWrite (io ring : Nat) (s : State) : Out :=
  .next (if nvmeOn s then portStep s io true ring 1 fun b =>
      portRead s io true ring b fun bs s => { s with nvmeOut := s.nvmeOut ++ [(bfld b 14 2, bfld b 16 8, bs)] }
    else s)
def execStorageFlush (io ring : Nat) (s : State) : Out :=
  .next (if nvmeOn s then portStep s io true ring 2 fun b =>
      portDone { s with nvmeOut := s.nvmeOut ++ [(bfld b 14 2, bfld b 16 8, [])] } io true ring 1
    else s)

end Sys2Proof.Machine
end

