-- ==== Sys2Proof/Machine/Atlas.lean ====
section
/-! DEFINITION. Atlas space (R261, R262): what a read returns, what a write of each register does, the control
semaphores that guard it (R464, R465), and the host accesses (R461). -/
namespace Sys2Proof.Machine

/-! ### Registers of a die with a behaviour of their own -/

/-- R265: 13 to 15 are ignored; what is carved or released reads as 0 afterwards. -/
def carveWrite (s : State) (d v : Nat) (w : Word) : State :=
  if 12 < fld w 3 0 then countIgnored s d
  else
    let old := waysOf s d v
    let new := fld w 3 0
    let base := 0x8000000000 + d * 0x40000000 + v * 0x1000000
    let lo := base + Nat.min old new * 0x100000
    let hi := base + Nat.max old new * 0x100000
    let s := { s with mem := s.mem.filter fun c => !(decide (lo ≤ c.1) && decide (c.1 < hi)) }
    setAreg s (dieBlock d + 0x01004000 + 8 * v) (BitVec.ofNat 64 new)
def execCarveWrite (die slice : Nat) (v : BitVec 64) (s : State) : Out :=
  .next (if die < 8 ∧ slice < 64 then carveWrite s die slice v else s)
/-- Formats that no plane-form window takes: FP6, SX4, SX7, and block scaling over them (R267). -/
def noPlane (fmt : Nat) : Bool := [0x07, 0x08, 0x0F, 0x10].contains (elemCode fmt)
/-- The rules of R267 on a window as it would stand. -/
def windowOk (d : Nat) (base limit scale cfg : Word) : Bool :=
  let fmt := fld cfg 4 0
  let en := bitAt cfg 5
  let lo := fld base 51 7 * 128
  let hi := fld limit 51 7 * 128
  !fmtReserved fmt && fld cfg 9 8 != 3 && fld base 63 52 == 0 && fld base 6 0 == 0 && fld limit 63 52 == 0 && fld limit 6 0 == 0 &&
    fld scale 63 52 == 0 && fld cfg 63 32 == 0 && fld cfg 15 10 == 0 && fld cfg 7 7 == 0 &&
    (!en || (decide (lo < hi) && decide (d * 2 ^ 36 ≤ lo) && decide (hi ≤ (d + 1) * 2 ^ 36))) && !(bitAt cfg 6 && noPlane fmt)
/-- The lines of a die's HBM that hold a byte other than 0. -/
def liveLines (s : State) (d : Nat) : List Nat :=
  ((s.mem.filter fun c => decide (c.1 / 2 ^ 36 = d)).map fun c => c.1 / 128 * 128).eraseDups
/-- R267, R268: the lines of the old window are written back and invalidated, replicas in any slice among them, and every
line is held as the new windows say: a replica of a line whose form changes is invalidated too. -/
def windowWrite (s : State) (d n r : Nat) (v : Word) : State :=
  let reg (i : Nat) : Word := if i = r then v else areg s (winPa d n i)
  if !windowOk d (reg 0) (reg 1) (reg 2) (reg 3) then countIgnored s d
  else
    let covered (pa : Nat) : Bool := bitAt (areg s (winPa d n 3)) 5 && decide (fld (areg s (winPa d n 0)) 51 7 ≤ pa / 128) &&
      decide (pa / 128 < fld (areg s (winPa d n 1)) 51 7)
    let s1 := { s with dram := s.dram.filter fun e => !(decide (e.1 * 32 / 2 ^ 36 = d) && covered (e.1 * 32)) }
    let s1 := setAreg s1 (winPa d n r) v
    let s1 := { s1 with dies := s1.dies.map fun e => (e.1, { e.2 with
      replicas := e.2.replicas.filter fun q => !(decide (q.pa / 2 ^ 36 = d) && (covered q.pa || planeFmt s q.pa != planeFmt s1 q.pa)) }) }
    (liveLines s d).foldl (fun t line =>
      if planeFmt s line = planeFmt s1 line then t
      else
        let el := elemLine s line
        let bs := match planeFmt s1 line with
          | some c => planeBytes true c el
          | none => el
        { t with mem := mwrite t.mem line bs }) s1
def execFormatWindowWrite (die n r : Nat) (v : BitVec 64) (s : State) : Out :=
  .next (if die < 8 ∧ n < 32 ∧ r < 4 then windowWrite s die n r v else s)
/-- R273: dirty sectors under the old key are written back, and the slot takes its value. -/
def keySlotWrite (s : State) (d k : Nat) (v : BitVec 512) : State :=
  let old := slotKey s d k
  let s := { s with dram := s.dram.filter fun e => !(decide (e.1 * 32 / 2 ^ 36 = d) && keyTag s e.1 == old) }
  forN 8 (fun i s => setAreg s (dieBlock d + 0x01006000 + 64 * k + 8 * i) (BitVec.ofNat 64 (fld v (64 * i + 63) (64 * i)))) s
def execKeySlotWrite (die k : Nat) (v : BitVec 512) (s : State) : Out :=
  .next (if die < 8 ∧ k < 64 then keySlotWrite s die k v else s)
def execErrstatWrite (die : Nat) (_v : BitVec 64) (s : State) : Out := .next (if die < 8 then setAreg s (errstatPa die) 0 else s)
def execExstatWrite (die : Nat) (_v : BitVec 64) (s : State) : Out := .next (if die < 8 then setAreg s (exstatPa die) 0 else s)
/-- A core is idle, or its gang is frozen by the stall wire. -/
def windowOpen (s : State) (cid : Nat) : Bool :=
  match gangOfCore s cid with
  | none => true
  | some x => x.stalled
def scratchWindowWrite (s : State) (cid off : Nat) (bs : List Byte) : State :=
  if windowOpen s cid then modCore s cid fun c => { c with scratch := mwrite c.scratch off bs } else countIgnored s (dieOf cid)
def execScratchpadWindowWrite (cid off : Nat) (v : BitVec 64) (s : State) : Out :=
  .next (if cid < 512 ∧ off + 8 ≤ scratchSize then scratchWindowWrite s cid off (leBytes 8 v.toNat) else s)

/-! ### Rings (R343) -/

/-- An ignored write to a register of a block is recorded (R261, R465). -/
def ignoredAt (s : State) (pa : Nat) : State :=
  if 0x9000000000 ≤ pa ∧ pa < 0x9080000000 then countIgnored s ((pa - 0x9000000000) / 0x10000000)
  else if 0x9080000000 ≤ pa ∧ pa < 0x90A0000000 then countIoIgnored s ((pa - 0x9080000000) / 0x10000000)
  else s
/-- CTL of a ring: LOG2N from 6 to 16, or the write is ignored. -/
def ringCtl (s : State) (r : Nat) (v : Word) : State :=
  if 6 ≤ fld v 4 0 ∧ fld v 4 0 ≤ 16 then setAreg s (r + 8) (v &&& 0x11F) else ignoredAt s r
/-- TAIL of a ring: ignored while the ring has no size. -/
def ringTailWrite (s : State) (r : Nat) (v : Word) : State :=
  if fld (areg s (r + 8)) 4 0 = 0 then ignoredAt s r else setAreg s (r + 24) (BitVec.ofNat 64 (fld v 31 0))
/-- A register of a ring: who fills the ring writes TAIL, who empties it writes HEAD. -/
def ringReg (s : State) (r i : Nat) (fill : Bool) (hi lo : Nat) (v : Word) : State :=
  match i with
  | 0 => setAreg s r (BitVec.ofNat 64 (fld v hi lo * 2 ^ lo))
  | 1 => ringCtl s r v
  | 2 => if fill then ignoredAt s r else setAreg s (r + 16) (BitVec.ofNat 64 (fld v 31 0))
  | _ => if fill then ringTailWrite s r v else ignoredAt s r
def lqOk (die q : Nat) : Bool := decide (die < 8 ∧ q < 8) || (die == 0 && q == 8)
def execLqtailWrite (die q : Nat) (v : BitVec 64) (s : State) : Out :=
  .next (if lqOk die q then ringTailWrite s (lqRegs die q) v else s)
def execLqctlWrite (die q : Nat) (v : BitVec 64) (s : State) : Out :=
  .next (if lqOk die q then ringCtl s (lqRegs die q) v else s)

/-! ### Reads -/

def outNext (o : Out) (s : State) : State :=
  match o with
  | .next t => t
  | _ => s
/-- The eight bytes of a send table from a slot on, as last accepted. -/
def sendBytes (s : State) (d o : Nat) : Word :=
  BitVec.ofNat 64 (leNat ((List.range 8).map fun i => (aget (dieAt s d).sendNext (o + i)).getD 0))
def fingerprint (key : List Byte) (i : Nat) : Word := dword (shake256 32 key) i
/-- What a register of a die's block holds, as a write of part of it merges with it. -/
def dieRaw (s : State) (d o : Nat) : Word :=
  if 0x01000000 ≤ o ∧ o < 0x01004000 then sendBytes s d (o - 0x01000000)
  else if 0x08000000 ≤ o then
    BitVec.ofNat 64 (mnat (coreAt s (64 * d + (o - 0x08000000) / 0x200000)).scratch ((o - 0x08000000) % 0x200000) 8)
  else areg s (dieBlock d + o)
def dieRead (s : State) (d o : Nat) : Word :=
  if 0x01006000 ≤ o ∧ o < 0x01007000 then
    let i := o % 64 / 8
    if i < 4 then fingerprint (leBytes 64 (slotKey s d ((o - 0x01006000) / 64)).toNat) i else 0
  else dieRaw s d o
/-- Doubleword r of an outward link as a write of part of it merges with it: the key itself, not its fingerprint. -/
def trunkRaw (s : State) (k r : Nat) : Word :=
  let t := trunkAt s k
  if r < 4 then BitVec.ofNat 64 (fld t.txKey (64 * r + 63) (64 * r))
  else if r < 8 then BitVec.ofNat 64 (fld (t.txNext.getD 0) (64 * r - 193) (64 * r - 256))
  else if r = 8 then BitVec.ofNat 64 t.switch
  else areg s (ioBlock (k / 12) + 0x04001000 + 0x80 * (k % 12) + 8 * r)
/-- An SRAM window of an I/O block, whose bytes stand in memory at their PA. -/
def ioSram (io o : Nat) : Bool := decide (0x07000000 ≤ o ∧ o < 0x09000000) || (io == 0 && decide (0x09000000 ≤ o ∧ o < 0x0A000000))
def ioRaw (s : State) (io o : Nat) : Word :=
  if ioSram io o then BitVec.ofNat 64 (mnat s.mem (ioBlock io + o) 8) else areg s (ioBlock io + o)
/-- Outward link j of an I/O block. DESIGN CHOICE (log entry 102): a NEXTKEY slot that was never loaded reads as the
fingerprint of an all-zero key (R455). -/
def trunkRead (s : State) (io j r : Nat) : Word :=
  let t := trunkAt s (12 * io + j)
  if r < 4 then fingerprint (leBytes 32 t.txKey.toNat) r
  else if r < 8 then fingerprint (leBytes 32 (t.txNext.getD 0).toNat) (r - 4)
  else match r with
    | 8 => BitVec.ofNat 64 t.switch
    | 10 => BitVec.ofNat 64 (t.txState + 4 * t.rxState)
    | _ => areg s (ioBlock io + 0x04001000 + 0x80 * j + 8 * r)
def ioRead (s : State) (io o : Nat) : Word :=
  if 0x04000600 ≤ o ∧ o < 0x04000680 then
    let sid := 2048 + 16 * io + (o - 0x04000600) / 8
    BitVec.ofNat 64 ((areg s (stewardCtl sid)).toNat % 2 + 2 * ((streamAt s sid).phase == .halted).toNat)
  else if io = 0 ∧ 0x04000000 ≤ o ∧ o < 0x04000080 then csemValue s ((o - 0x04000000) / 8)
  else if 0x04001000 ≤ o ∧ o < 0x04001600 then trunkRead s io ((o - 0x04001000) / 0x80) ((o - 0x04001000) % 0x80 / 8)
  else if io = 0 ∧ 0x04004100 ≤ o ∧ o < 0x040048A0 then
    BitVec.ofNat 64 (leNat ((List.range 8).map fun i => Config.identityKey (o - 0x04004100 + i)))
  else ioRaw s io o
/-- The block of an Atlas PA: a die, an I/O die, or none. -/
inductive Block where
  | die (d o : Nat) | io (i o : Nat) | none
  deriving DecidableEq, Repr
def blockOf (pa : Nat) : Block :=
  if pa < 0x9000000000 ∨ 0x90A0000000 ≤ pa then .none
  else if pa < 0x9080000000 then .die ((pa - 0x9000000000) / 0x10000000) (pa % 0x10000000)
  else .io ((pa - 0x9080000000) / 0x10000000) (pa % 0x10000000)
/-- The eight bytes at an aligned PA. A master's read of a free control semaphore takes it (R465). -/
def atlasRead (s : State) (who : Master) (pa : Nat) : Word × State :=
  match blockOf pa with
  | .none => (0, s)
  | .die d o => (dieRead s d o, s)
  | .io i o =>
    (ioRead s i o, match who with
      | .host m => if i = 0 ∧ 0x04000000 ≤ o ∧ o < 0x04000080 then csemRead s m ((o - 0x04000000) / 8) else s
      | .steward => s)
/-- Bytes of Atlas space within one aligned doubleword. -/
def atlasBytes (s : State) (who : Master) (pa n : Nat) : List Byte × State :=
  let (v, s) := atlasRead s who (pa / 8 * 8)
  (((leBytes 8 v.toNat).drop (pa % 8)).take n, s)

/-! ### Writes -/

/-- The control region that a register lies in (R465); of an outward link the key slots and SWITCH. -/
def regionOf (pa : Nat) : Option Nat :=
  match blockOf pa with
  | .none => none
  | .die _ o =>
    if 0x01000000 ≤ o ∧ o < 0x01004000 then some 3
    else if 0x01004000 ≤ o ∧ o < 0x01004200 then some 1
    else if 0x01005000 ≤ o ∧ o < 0x01005400 then some 1
    else if 0x01006000 ≤ o ∧ o < 0x01007000 then some 2
    else if 0x01018000 ≤ o ∧ o < 0x010181C0 then some 6
    else if 0x02000000 ≤ o ∧ o < 0x02000100 then some 4
    else if o = 0x02000108 ∨ o = 0x02000220 then some 4
    else none
  | .io i o =>
    if i = 0 ∧ 0x02000000 ≤ o ∧ o < 0x02000020 then some 4
    else if i = 0 ∧ 0x03000000 ≤ o ∧ o < 0x03000200 then some 0
    else if i = 0 ∧ o = 0x04000100 then some 6
    else if i = 0 ∧ 0x04000200 ≤ o ∧ o < 0x04000210 then some 7
    else if i = 0 ∧ 0x04000300 ≤ o ∧ o < 0x04000340 then some 8
    else if 0x04000500 ≤ o ∧ o < 0x04000510 then some 2
    else if 0x04000600 ≤ o ∧ o < 0x04000680 then some 5
    else if 0x04001000 ≤ o ∧ o < 0x04001600 ∧ (o - 0x04001000) % 0x80 < 0x48 then some 6
    else if 0x07000000 ≤ o ∧ o < 0x09000000 ∧ o % 0x200000 < 0x100000 then some 5
    else none
/-- The writer may write the register (R464, R465). -/
def mayWrite (s : State) (who : Master) (pa : Nat) : Bool :=
  match who with
  | .steward => true
  | .host m => match regionOf pa with
    | none => true
    | some n => csemOwner s n == some m
/-- RESOLVE (R365). -/
def resolveWrite (s : State) (d : Nat) (v : Word) : State :=
  let q := fld v 14 0
  if fld v 63 18 ≠ 0 ∨ bitAt v 15 then ignoredResolve s d
  else match fld v 17 16 with
    | 0 => resolveRetry s d q
    | 1 => resolveKill s d q
    | 2 => resolveSeat s d q
    | _ => ignoredResolve s d
/-- A write of eight send-table entries (R255): accepted as a whole. -/
def sendWrite (s : State) (d o : Nat) (v : Word) : State :=
  let t := (List.range 8).foldl (fun t i =>
    let w : BitVec 8 := BitVec.ofNat 8 (fld v (8 * i + 7) (8 * i)) &&& 0xBF
    aput t (o + i) w) (dieAt s d).sendNext
  if tableOk t then modDie s d fun x => { x with sendNext := t }
  else
    let s := countIgnored s d
    setAreg s (errstatPa d) (setFld (setFld (areg s (errstatPa d)) 5 0 (o / 256)) 8 8 1)
/-- A write in a die's block; a write that nothing takes is counted (R261). -/
def dieWrite (s : State) (who : Master) (d o : Nat) (v : Word) : State :=
  let pa := dieBlock d + o
  if 0x08000000 ≤ o then scratchWindowWrite s (64 * d + (o - 0x08000000) / 0x200000) ((o - 0x08000000) % 0x200000) (leBytes 8 v.toNat)
  else if 0x01000000 ≤ o ∧ o < 0x01004000 then sendWrite s d (o - 0x01000000) v
  else if 0x01004000 ≤ o ∧ o < 0x01004200 then carveWrite s d ((o - 0x01004000) / 8) v
  else if o = 0x01004200 then setAreg s pa (v &&& 0xFFFFFF003FFFFFC0)
  else if o = 0x01004208 then setAreg s pa 0
  else if 0x01005000 ≤ o ∧ o < 0x01005400 then windowWrite s d ((o - 0x01005000) / 32) (o % 32 / 8) v
  else if 0x01006000 ≤ o ∧ o < 0x01007000 then
    let k := (o - 0x01006000) / 64
    let i := o % 64 / 8
    keySlotWrite s d k (setFld (slotKey s d k) (64 * i + 63) (64 * i) v.toNat)
  else if 0x01008000 ≤ o ∧ o < 0x01018000 then (if who = .steward then setAreg s pa v else countIgnored s d)
  else if 0x01018000 ≤ o ∧ o < 0x010181C0 ∧ o % 0x40 = 0 then
    (if bitAt v 8 then linkTrain s d ((o - 0x01018000) / 0x40) else s)
  else if 0x02000000 ≤ o ∧ o < 0x02000100 then ringReg s (dieBlock d + o / 32 * 32) (o % 32 / 8) true 51 7 v
  else if o = 0x02000108 then outNext (execPreemptWrite d v s) s
  else if o = 0x02000110 then setAreg s pa 0
  else if 0x02000200 ≤ o ∧ o < 0x02000220 then ringReg s (fqRegs d) (o % 32 / 8) false 51 5 v
  else if o = 0x02000220 then resolveWrite s d v
  else if 0x02001000 ≤ o ∧ o < 0x02001200 then setAreg s pa (v &&& 0xFC0FFFFFFFFFC001)
  else if o = 0x05000000 then setAreg s pa (v &&& 0x000FFFFFFC000001)
  else countIgnored s d
/-- CMD of the Coach (R420). DESIGN CHOICE (log entry 93): a write with a nonzero bit in [60:12], which R420 gives as 0, is
ignored, and is not counted as one that names a request in the wrong state. -/
def coachCmd (s : State) (v : Word) : State :=
  let slot := fld v 11 0
  if fld v 60 12 ≠ 0 then s
  else match fld v 63 61 with
    | 1 => outNext (execCmdEvict slot s) s
    | 2 => outNext (execCmdPark slot s) s
    | 3 => outNext (execCmdUnpark slot s) s
    | 4 => outNext (execCmdRelease slot s) s
    | _ => s
/-- A register of the Coach (R410). DESIGN CHOICE (log entry 93): a VERDICT of neither 1 nor 2 is ignored. -/
def coachWrite (s : State) (r : Nat) (v : Word) : State :=
  let pa := coachBase + r
  if r = 0 then setAreg s pa (v &&& 0x000000FFFFFF0003)
  else if 0x10 ≤ r ∧ r < 0x48 then setAreg s pa v
  else if r = 0x48 then coachCmd s v
  else if r = 0x50 then
    (match fld v 1 0 with
    | 1 => outNext (execVerdictConcur ((v >>> 2).setWidth 62) s) s
    | 2 => outNext (execVerdictDissent ((v >>> 2).setWidth 62) s) s
    | _ => s)
  else if 0x100 ≤ r ∧ r < 0x120 then ringReg s subRing (r % 32 / 8) true 63 0 v
  else if 0x140 ≤ r ∧ r < 0x160 then ringReg s accRing (r % 32 / 8) false 63 0 v
  else if 0x180 ≤ r ∧ r < 0x1A0 then ringReg s cplRing (r % 32 / 8) false 63 0 v
  else s
/-- A write in outward link j. DESIGN CHOICE (log entry 102): a write of any doubleword of NEXTKEY loads it (R455). -/
def trunkWrite (s : State) (io j r : Nat) (v : Word) : State :=
  let t := trunkAt s (12 * io + j)
  if r < 4 then outNext (execLinkKeyWrite io j false (setFld t.txKey (64 * r + 63) (64 * r) v.toNat) s) s
  else if r < 8 then outNext (execLinkKeyWrite io j true (setFld (t.txNext.getD 0) (64 * r - 193) (64 * r - 256) v.toNat) s) s
  else match r with
    | 8 => outNext (execSwitchWrite io j v s) s
    | 9 => setAreg s (ioBlock io + 0x04001000 + 0x80 * j + 0x48) (v &&& 0xFFFFFFFF)
    | _ => s
/-- SNAPCTL (R466): MATCH is kept, REL and TRIG act. -/
def snapWrite (s : State) (who : Master) (v : Word) : State :=
  let s := setAreg s snapctl (setFld (areg s snapctl) 55 8 (fld v 55 8))
  let s := if bitAt v 1 then outNext (execSnapshotRelease s) s else s
  if bitAt v 0 then snapTrigger s (match who with
    | .host m => BitVec.ofNat 3 (m % 2)
    | .steward => 2)
  else s
def dstateWrite (s : State) (d : Nat) (v : Word) : State :=
  match fld v 9 8 with
  | 1 => outNext (execDieJoin d s) s
  | 2 => outNext (execDieLeave d s) s
  | 3 => outNext (execDieDone d s) s
  | _ => s
/-- The MSI-X table: clearing a mask bit unmasks (R463). -/
def msixWrite (s : State) (io o : Nat) (v : Word) : State :=
  let link := 2 * io + o / 0x400 % 2
  let s := setAreg s (ioBlock io + 0x04002000 + o) v
  if o % 16 = 8 ∧ !bitAt v 32 then outNext (execMsixUnmask link (o % 0x400 / 16) s) s else s
/-- A write in an I/O block; a write that nothing takes is ignored. -/
def ioWrite (s : State) (who : Master) (io o : Nat) (v : Word) : State :=
  let pa := ioBlock io + o
  if ioSram io o then
    let sid := 2048 + 16 * io + (o - 0x07000000) / 0x200000
    if o < 0x09000000 ∧ o % 0x200000 < 0x100000 ∧ (streamAt s sid).phase ≠ .halted then s
    else { s with mem := mwrite s.mem pa (leBytes 8 v.toNat) }
  else if 0x04000500 ≤ o ∧ o < 0x04000510 then setAreg s pa (v &&& 0x3F)
  else if 0x04000600 ≤ o ∧ o < 0x04000680 then
    (if bitAt v 0 then outNext (execStewardHalt io ((o - 0x04000600) / 8) s) s
    else outNext (execStewardResume io ((o - 0x04000600) / 8) s) s)
  else if o = 0x04000700 then outNext (execDbell io v s) s
  else if o = 0x04000710 then (if v.toNat < 64 then outNext (execMsiraise io v s) s else s)
  else if 0x04001000 ≤ o ∧ o < 0x04001600 then trunkWrite s io ((o - 0x04001000) / 0x80) ((o - 0x04001000) % 0x80 / 8) v
  else if 0x04002000 ≤ o ∧ o < 0x04002800 then msixWrite s io (o - 0x04002000) v
  else if 0x05000000 ≤ o ∧ o < 0x05000200 then ringReg s (ioBlock io + o / 32 * 32) (o % 32 / 8) true 51 7 v
  else if io ≠ 0 then s
  else if 0x02000000 ≤ o ∧ o < 0x02000020 then ringReg s (lqRegs 0 8) (o % 32 / 8) true 51 7 v
  else if 0x03000000 ≤ o ∧ o < 0x03000200 then coachWrite s (o - 0x03000000) v
  else if 0x04000000 ≤ o ∧ o < 0x04000080 then
    (match who with
    | .host m => csemWrite s m ((o - 0x04000000) / 8)
    | .steward => s)
  else if o = 0x04000100 then outNext (execFabcfgWrite v s) s
  else if o = 0x04000200 then snapWrite s who v
  else if 0x04000300 ≤ o ∧ o < 0x04000340 then dstateWrite s ((o - 0x04000300) / 8) v
  else if o = 0x04000400 then setAreg s pa (v &&& 0xFFFF)
  else if o = 0x04004008 then outNext (execBootgo s) s
  else if 0x04005000 ≤ o ∧ o < 0x04005040 then setAreg s pa v
  else if o = 0x04005040 then outNext (execReportgo s) s
  else if 0x06000000 ≤ o ∧ o < 0x06080000 then groupWrite s ((o - 0x06000000) / 128) (o % 128 / 8) v
  else s
/-- A write of the eight bytes at an aligned PA. -/
def atlasWrite (s : State) (who : Master) (pa : Nat) (v : Word) : State :=
  if !mayWrite s who pa then ignoredAt s pa
  else match blockOf pa with
    | .none => s
    | .die d o => dieWrite s who d o v
    | .io i o => ioWrite s who i o v
/-- What a register of an I/O block holds, as a write of part of it merges with it. -/
def ioMerge (s : State) (io o : Nat) : Word :=
  if 0x04001000 ≤ o ∧ o < 0x04001600 then trunkRaw s (12 * io + (o - 0x04001000) / 0x80) ((o - 0x04001000) % 0x80 / 8)
  else ioRaw s io o
/-- The doubleword that a write of bytes within it makes. -/
def merged (s : State) (pa : Nat) (bs : List Byte) : Word :=
  let q := pa / 8 * 8
  let old : Word := match blockOf q with
    | .none => 0
    | .die d o => dieRaw s d o
    | .io i o => ioMerge s i o
  let b := leBytes 8 old.toNat
  BitVec.ofNat 64 (leNat (b.take (pa - q) ++ bs ++ b.drop (pa - q + bs.length)))
/-- A write that completes only later (R398): a multicast group's new generation. -/
def atlasHeld (s : State) (pa : Nat) (bs : List Byte) : Bool :=
  match blockOf pa with
  | .io 0 o => decide (0x06000000 ≤ o) && decide (o < 0x06080000) &&
      groupHeld s ((o - 0x06000000) / 128) (o % 128 / 8) (merged s pa bs)
  | _ => false
/-- Bytes written within one aligned doubleword. -/
def atlasPut (s : State) (who : Master) (pa : Nat) (bs : List Byte) : State :=
  atlasWrite s who (pa / 8 * 8) (merged s pa bs)
def execRegisterWrite (who : Master) (pa : Nat) (v : BitVec 64) (s : State) : Out :=
  .next (if atlasHeld s (pa / 8 * 8) (leBytes 8 v.toNat) then s else atlasWrite s who (pa / 8 * 8) v)

/-! ### Reading every piece of state (R467) -/

/-- A key as the Atlas shows it: its fingerprint. -/
def keyShown (key : BitVec 256) : BitVec 256 := BitVec.ofNat 256 (leNat (shake256 32 (leBytes 32 key.toNat)))
/-- A sector's key as the Atlas shows it. -/
def tagShown (key : BitVec 512) : BitVec 512 := BitVec.ofNat 512 (leNat (shake256 32 (leBytes 64 key.toNat)))
/-- The key slots of a die, written or not, by their fingerprints. -/
def slotsShown (b : AMap (BitVec 64)) (d : Nat) : AMap (BitVec 64) :=
  let base := (dieBlock d + 0x01006000) / 8
  (List.range 512).foldl (fun m j =>
    let key := (List.range 8).flatMap fun i => leBytes 8 ((aget b (base + j / 8 * 8 + i)).getD 0).toNat
    aput m (base + j) (if j % 8 < 4 then dword (shake256 32 key) (j % 8) else 0)) b
/-- An outward link with its keys replaced by their fingerprints. -/
def trunkShown (t : Trunk) : Trunk :=
  { t with
    txKey := keyShown t.txKey, txNext := some (keyShown (t.txNext.getD 0)), rxKey := keyShown t.rxKey
    rxNext := some (keyShown (t.rxNext.getD 0)) }
/-- What DRAM holds of a sector, its key after its bytes as `markDirty` keeps it, with the key's fingerprint instead. -/
def dramShown (bs : List Byte) : List Byte := bs.take 32 ++ leBytes 64 (tagShown (BitVec.ofNat 512 (leNat (bs.drop 32)))).toNat
/-- A block's state with every key replaced by its fingerprint (R273, R455, R467): the key slots of the dies, those of the outward
links, and the keys under which sectors stand, in the slices and in DRAM. -/
def keysHidden (b : Snap) : Snap :=
  { b with
    atlas := (List.range 8).foldl slotsShown b.atlas
    trunks := (List.range 24).foldl (fun m k => aput m k (trunkShown ((aget b.trunks k).getD Trunk.zero))) b.trunks
    keyTags := b.keyTags.map fun e => (e.1, tagShown e.2)
    dram := b.dram.map fun e => (e.1, dramShown e.2) }
/-- What the Atlas reads of the blocks' state, live or in the snapshot copy: token queues, latches, rings, counters, TLBs, scope
caches, claim and datum tables among it. The addresses that the spec gives are `atlasRead`; it gives none for the rest (log
entry 60). -/
def atlasView (s : State) (live : Bool) : Option Snap :=
  if live then some (keysHidden (blocksOf s 0 ((areg s ptickPa).setWidth 48))) else s.snap.map keysHidden

/-! ### Host accesses (R461) -/

/-- HKEY of a host link. -/
def hostKey (s : State) (link : Nat) : Nat := fld (areg s (ioBlock (link / 2) + 0x04000500 + 8 * (link % 2))) 5 0
/-- The PA that an offset in a window of a link names: BAR0 is the Atlas, BAR2 maps PAs below 0x82_0000_0000, and under CXL
the HDM range (window 1) maps HBM. -/
def windowPa (h : HostLink) (win off : Nat) : Option Nat :=
  match win with
  | 0 => if off < 2 ^ 32 then some (0x9000000000 + off) else none
  | 1 => if h.cxl ∧ off < 2 ^ 39 then some off else none
  | 2 => if off < 0x8200000000 then some off else none
  | _ => none
/-- HOST_ACCESS: through BAR0 the Atlas, through BAR2 or HDM memory, at its home. What a read returns goes out on the link. An
access to a die that does not serve, or beyond carved storage, is answered with the fault's code (R265, R406), and an offset
that its window does not take as an Unsupported Request. -/
def hostAccess (s : State) (link win off n : Nat) (wr : Bool) (v : Word) : State :=
  let m : Master := .host (link % 2)
  let h := vget s.hostLinks link { trained := false, cxl := false }
  if 4 ≤ link || !h.trained || !([1, 2, 4, 8].contains n) || off % n != 0 then s
  else match windowPa h win off with
  | none => { s with hostErr := s.hostErr ++ [(link, off, none)] }
  | some pa =>
  let out (s : State) (w : Word) : State := { s with hostOut := s.hostOut ++ [(link, pa, w)] }
  if 0x9000000000 ≤ pa then
    if wr then (if atlasHeld s pa (leBytes n v.toNat) then s else atlasPut s m pa (leBytes n v.toNat))
    else
      let (bs, s) := atlasBytes s m pa n
      out s (BitVec.ofNat 64 (leNat bs))
  else if (paFault s pa).isSome then { s with hostErr := s.hostErr ++ [(link, pa, paFault s pa)] }
  else if wr then paWrite s pa (leBytes n v.toNat) (hostKey s link)
  else out s (BitVec.ofNat 64 (leNat (paRead s pa n (hostKey s link))))
def execHostAccess (link : Nat) (at_ : HostAddress) (n : Nat) (wr : Bool) (v : BitVec 64) (s : State) : Out :=
  .next (hostAccess s link at_.win at_.off n wr v)

end Sys2Proof.Machine
end

