-- ==== Sys2Proof/Machine/Access.lean ====
section
/-! DEFINITION. Accesses as they are performed: loads and fills (R92, R302), stores (R303), atomics (R307, R308) and datum
accumulation (R309 to R315) at their homes, peer operations at their targets (R238 to R240), landings and late writes
(R28, R50, R52), token pushes (R15), walks (R356), and the retirement of commands and updates (R108, R295, R332). -/
namespace Sys2Proof.Machine

/-! ### Results -/

/-- The registers that an access still writes. -/
def outRegs (s : State) (r : Req) : List Loc :=
  match r.outst with
  | none => []
  | some o => (((streamAt s r.sid).outst.find? fun w => w.id == o).map fun w => w.regs).getD []
/-- The values of an access arrive, one for each of its registers, and the access is done. -/
def answer (s : State) (r : Req) (vs : List Word) : State :=
  let ws := ((outRegs s r).zip vs).map fun p => ({ loc := p.1, val := p.2.setWidth 2048, mask := fullMask } : Write)
  let s := match r.outst with
    | some o => deliver s r.sid o ws
    | none => s
  dropReq s r.id
/-- The register writes of a peer vector load: only the bytes of active lanes (R149, R171). -/
def vecAnswer (s : State) (r : Req) (m : Memory) (bytes : List (Nat × Nat × Nat)) : State :=
  let ls := outRegs s r
  let ws := (List.range ls.length).map fun k =>
    let mine := bytes.filter fun b => b.2.1 == k
    let v := mine.foldl (fun (v : VWord) b => v ||| ((mget m b.1).setWidth 2048 <<< (8 * b.2.2))) 0
    let mask := mine.foldl (fun (v : VWord) b => v ||| ((0xFF : VWord) <<< (8 * b.2.2))) 0
    ({ loc := ls.getD k (.x 0), val := v, mask := mask } : Write)
  let s := match r.outst with
    | some o => deliver s r.sid o ws
    | none => s
  dropReq s r.id
/-- An access may be performed: it is at its home, holds for no fault, and is next on its route. -/
def reqReady (s : State) (r : Req) : Bool := r.arrived && r.hold.isNone && inOrder s r
/-- A Steward's access faults at its word, as if it had not issued: no write is outstanding, and the PC, the loop and the slot
count are as before it, also where the Steward halts for a second exception (R402). -/
def stewardFault (s : State) (r : Req) (code : BitVec 8) (va : Word) : State :=
  let s := match r.outst with
    | some o => dropOutst s r.sid o
    | none => s
  let s := modStream s r.sid fun st => match st.phase with
    | .holding (.access q l) => if q = r.id then
        { st with pc := r.pc, loop := l, slot := st.slot - 1, sinceSafe := st.sinceSafe - 1 } else st
    | _ => st
  let s := dropReq (stewardException s r.sid code va r.pc) r.id
  if bitAt (areg s (stewardCtl r.sid)) 0 && (streamAt s r.sid).phase == .running then haltSteward s r.sid else s
/-- A fault of an access in flight (R248, R315): its stream is the agent, and PC and VA are the access's. A class 1 fault
holds the access for the entry, and gives up its outstanding write until then (R249); of a leg that no longer runs, and of a fatal fault, nothing is left. -/
def reqFail (s : State) (r : Req) (code : BitVec 8) (va : Word) : State :=
  if isSW r.sid then stewardFault s r code va
  else
    let cid := coreOf r.sid
    let d := dieOf cid
    if !canRaise s d then setExstat s d 8
    else
      let e := nextEntry s d
      let runs := legRuns s cid
      let s' := raise s (coreFault cid (kindOf r.sid) (r.pc.setWidth 32) code va s)
      if classOf code = 1 && runs then
        let regs := outRegs s r
        let s' := match r.outst with
          | some o => dropOutst s' r.sid o
          | none => s'
        { s' with requests := mapIf (fun q => q.id == r.id) (fun q => { q with hold := some e, regs := regs }) s'.requests }
      else
        dropReq (modDie s' d fun x => { x with unresolved := if runs then x.unresolved else x.unresolved.filter fun y => y.seq != e })
          r.id

/-! ### Loads (R92, R264, R302) -/

/-- The translation that an access went by. -/
def reqXlat (s : State) (r : Req) : Xlat :=
  let k := 2 ^ (pageBits (leafSize r.leaf) - 14)
  ⟨r.pa, { ctx := xctx s r.sid, vpn := fld r.va 55 14 / k * k, leaf := r.leaf }⟩
/-- A load takes its value from a line; the L1 installs the line. If a store or an atomic of the core to it left since, the line is
not installed, and a copy that an earlier fill installed, which may be older than the value of this load, leaves the L1 (R92,
R277). -/
def loadLine (s : State) (r : Req) (signed : Bool) (n : Nat) (line : List Byte) : State :=
  let cid := coreOf r.sid
  let x := reqXlat s r
  let s := if !legRuns s cid then s
    else if r.stale then modCore s cid fun c => l1Evict c r.pa
    else if l1Keeps s x then modCore s cid fun c => l1Install c { pa := lineOf r.pa, via := x.via, data := line }
    else s
  answer s r [loadVal signed ((line.drop (r.pa % 128)).take n)]
/-- The line of a load of a REPL page is on its way to the core's own slice, for an earlier load. -/
def lineComing (s : State) (r : Req) : Bool :=
  s.requests.any fun q => q.fetched && sameSource q r && lineOf q.pa == lineOf r.pa
/-- A load that missed in its own slice goes on to the home on another die (R264, R487). -/
def fetchLine (s : State) (r : Req) (dst : Nat) : State :=
  let src := srcGlobal s r.sid
  let seq := (aget (dieAt s (src % 8)).txSeq dst).getD 0
  sendPacket { s with requests := (s.requests.filter fun q => q.id != r.id) ++ [{ r with arrived := false, fetched := true, track := seq }] }
    src dst (.req r.id)
/-- A load of a REPL page (R264): a hit in its own slice; on a miss the home's line, which the slice keeps, and for which the
load crosses the routers where the home is on another die (R487). -/
def replLoad (s : State) (r : Req) (signed : Bool) (n : Nat) : State :=
  let cid := coreOf r.sid
  let fill (s : State) : State :=
    let (line, s) := replFill s cid (reqXlat s r)
    loadLine s r signed n line
  if r.fetched then fill s
  else if lineComing s r then s
  else match replHit s cid r.pa with
    | (some line, s) => loadLine s r signed n line
    | (none, s) => match homeGlobal s r.pa with
      | some d => if d = srcGlobal s r.sid then fill s else fetchLine s r d
      | none => fill s
/-- A load takes its value at the home, or in its own slice for a REPL page. -/
def loadPerform (s : State) (r : Req) (signed : Bool) (n : Nat) : State :=
  match placeOf r.pa with
  | .atlas =>
    let (bs, s) := atlasBytes s .steward r.pa n
    answer s r [loadVal signed bs]
  | _ =>
    if !hostUp s r.pa then reqFail s r 0x40 (BitVec.ofNat 64 r.pa)
    else
    let s := { s with freeCtr := s.freeCtr + 1 }
    if isSW r.sid then answer s r [loadVal signed (paRead s r.pa n (leafKey r.leaf))]
    else if isRepl r.leaf r.pa then replLoad s r signed n
    else loadLine s r signed n (paRead s (lineOf r.pa) 128 (leafKey r.leaf))
/-- KVMAP looks its key up in the die's map, and acquires at PACKAGE (R437). -/
def kvmapPerform (s : State) (r : Req) (key : Word) : State :=
  let (v, w) := kvmapValue s (dieOf (coreOf r.sid)) key
  acquire (answer s r [v, w]) r.sid
def l1Fill (s : State) (id : Nat) : State :=
  match reqAt s id with
  | none => s
  | some r =>
    if !reqReady s r then s
    else match r.op with
      | .load signed n => loadPerform s r signed n
      | .kvmap key => kvmapPerform s r key
      | _ => s
def execL1Fill (req : Nat) (s : State) : Out := .next (l1Fill s req)

/-! ### Stores (R303) -/

/-- A write of a stream at its home: a Steward's may reach the Atlas. -/
def homeStore (s : State) (r : Req) (bs : List Byte) : State :=
  match placeOf r.pa with
  | .atlas => atlasPut s .steward r.pa bs
  | _ => paWrite s r.pa bs (leafKey r.leaf)
def storePerform (s : State) (id : Nat) : State :=
  match reqAt s id with
  | none => s
  | some r =>
    match r.op with
    | .store n v =>
      if !reqReady s r || isFabric s r.pa then s
      else if !hostUp s r.pa then reqFail s r 0x40 (BitVec.ofNat 64 r.pa)
      else if atlasHeld s r.pa (leBytes n v.toNat) then s
      else dropReq (homeStore s r (leBytes n v.toNat)) r.id
    | _ => s
def execStorePerform (req : Nat) (s : State) : Out := .next (storePerform s req)

/-! ### Atomics (R307) -/

/-- The new value of functions 0 to 11, and the ok of AFAB. -/
def atomicNew {w : Nat} (fn : Nat) (old v b : BitVec w) : BitVec w × Bool :=
  match fn with
  | 0 => (old + v, false)
  | 1 => (v, false)
  | 2 => (if old = v then b else old, false)
  | 3 => (old &&& v, false)
  | 4 => (old ||| v, false)
  | 5 => (old ^^^ v, false)
  | 6 => (if old.toInt < v.toInt then v else old, false)
  | 7 => (if v.toInt < old.toInt then v else old, false)
  | 8 => (if old < v then v else old, false)
  | 9 => (if v < old then v else old, false)
  | 10 => (incwNew old v, false)
  | _ => fabNew old v b
/-- The new bytes of functions 0 to 11 at their size, and ok. -/
def atomicBytes (fn n : Nat) (old : List Byte) (v b : Word) : List Byte × Bool :=
  if n = 8 then
    let (x, ok) := atomicNew fn (BitVec.ofNat 64 (leNat old)) v b
    (leBytes 8 x.toNat, ok)
  else
    let (x, ok) := atomicNew fn (BitVec.ofNat 32 (leNat old)) (v.setWidth 32) (b.setWidth 32)
    (leBytes 4 x.toNat, ok)
/-- The function number of an atomic and its size in bytes (R305); for a datum form the size of its word. -/
def atomicFn (i : Instr) (v : Word) : Nat × Nat :=
  let n (sz : BitVec 2) : Nat := if sz = 0 then 8 else 4
  match i with
  | .aadd _ _ _ _ sz => (0, n sz)
  | .aswp _ _ _ _ sz => (1, n sz)
  | .acas _ _ _ _ sz => (2, n sz)
  | .aand _ _ _ _ sz => (3, n sz)
  | .aor _ _ _ _ sz => (4, n sz)
  | .axor _ _ _ _ sz => (5, n sz)
  | .amax _ _ _ _ sz => (6, n sz)
  | .amin _ _ _ _ sz => (7, n sz)
  | .amaxu _ _ _ _ sz => (8, n sz)
  | .aminu _ _ _ _ sz => (9, n sz)
  | .aincw _ _ _ _ sz => (10, n sz)
  | .afab _ _ _ _ sz => (11, n sz)
  | .dacc .. => (12, datumSize v)
  | .drd .. => (13, datumSize v)
  | .dclr .. => (14, datumSize v)
  | _ => (15, 8)

/-! ### Datum accumulation (R309 to R315) -/

def datumFmt (v : Word) : Fmt :=
  match fld v 33 32 with
  | 0 => fFP32
  | 1 => fBF16
  | _ => fFP16
def datumMax : Int := 2 ^ 319 - 1
/-- add(x) of R311. -/
def datumAdd (d : Datum) (x : XNum) : Datum :=
  let d : Datum := match x with
    | .nan => { d with n := true }
    | .inf true => { d with im := true }
    | .inf false => { d with ip := true }
    | .fin neg m e =>
      let v := d.e + inUnits neg m e (-179)
      if datumMax < v then { d with e := datumMax, s := true }
      else if v < -datumMax then { d with e := -datumMax, s := true }
      else { d with e := v }
  { d with n := d.n || (d.ip && d.im), z := d.z && isNegZero x }
/-- An entry that opens on a word. -/
def datumOpen (w : XNum) (spilled : Bool) : Datum :=
  { datumAdd { e := 0, n := false, ip := false, im := false, z := false, s := false, spilled := spilled } w with z := isNegZero w }
/-- What DRD writes (R312): one rounding, RNE. -/
def datumOut (f : Fmt) (d : Datum) : Nat :=
  let x := accBase d.e d.n d.ip d.im d.z (-179)
  let x := match x with
    | .fin .. => if d.s then .fin (decide (d.e < 0)) datumMax.toNat (-179) else x
    | o => o
  (readOut (.flt f) 0 false x).1
/-- Where entry `i` of the spill area lies. -/
def spillPa (runs : List (Nat × Nat)) (i : Nat) : Option Nat :=
  match runs with
  | [] => none
  | r :: t => if i < r.2 then some (r.1 + 64 * i) else spillPa t (i - r.2)
/-- A new entry spills (R315): 64 bytes of the area take a form that the spec does not give, at a place it does not give
(log entry 46). -/
def spillWrite (s : State) (d : Nat) : State :=
  let (i, s) := freeVal s 32
  let (v, s) := freeVal s 512
  match spillPa (spillRuns s d) (i.toNat % Nat.max 1 (spillRoom s d)) with
  | some pa => { s with mem := mwrite s.mem pa (leBytes 64 v.toNat) }
  | none => s
def putDatum (s : State) (d pa : Nat) (x : Datum) : State := modDie s d fun y => { y with datum := aput y.datum pa x }
/-- DACC: `none` is Claim Capacity. -/
def daccPerform (s : State) (pa k : Nat) (v : Word) : Option State :=
  match datumHome s pa with
  | none => some s
  | some (d, sl) =>
    let f := datumFmt v
    let x := fltVal f (fld v 31 0)
    match aget (dieAt s d).datum pa with
    | some e => some (putDatum s d pa (datumAdd e x))
    | none =>
      match datumRoom s d sl with
      | none => none
      | some sp =>
        let w := fltVal f (leNat (paRead s pa (datumSize v) k))
        let s := if sp then spillWrite s d else s
        some (putDatum s d pa (datumAdd (datumOpen w sp) x))
/-- DRD: the bits it returns. -/
def drdPerform (s : State) (pa k : Nat) (v : Word) : Word × State :=
  let n := datumSize v
  match datumHome s pa with
  | none => (BitVec.ofNat 64 (leNat (paRead s pa n k)), { s with freeCtr := s.freeCtr + 1 })
  | some (d, _) =>
    match aget (dieAt s d).datum pa with
    | none => (BitVec.ofNat 64 (leNat (paRead s pa n k)), s)
    | some e =>
      let b := datumOut (datumFmt v) e
      let s := modDie s d fun y => { y with datum := adel y.datum pa }
      (BitVec.ofNat 64 b, paWrite s pa (leBytes n b) k)
/-- DCLR: 1 if there was an entry. -/
def dclrPerform (s : State) (pa : Nat) : Word × State :=
  match datumHome s pa with
  | none => (0, s)
  | some (d, _) =>
    if (aget (dieAt s d).datum pa).isSome then (1, modDie s d fun y => { y with datum := adel y.datum pa }) else (0, s)

/-- An atomic at its home (R307, R311 to R313): what it returns, or Claim Capacity. -/
def homeAtomic (s : State) (fn n pa k : Nat) (v b : Word) : Option (List Word × State) :=
  match fn with
  | 12 => (daccPerform s pa k v).map fun s => ([], s)
  | 13 => let (w, s) := drdPerform s pa k v
    some ([w], s)
  | 14 => let (w, s) := dclrPerform s pa
    some ([w], s)
  | _ =>
    let old := paRead s pa n k
    let (new, ok) := atomicBytes fn n old v b
    some ([BitVec.ofNat 64 (leNat old), BitVec.ofNat 64 ok.toNat], paWrite s pa new k)
/-- An atomic of a Steward in Atlas space; `none` where its write completes only later (R398). -/
def atlasAtomic (s : State) (fn n pa : Nat) (v b : Word) : Option (List Word × State) :=
  let (old, t) := atlasBytes s .steward pa n
  if fn < 12 then
    let (new, ok) := atomicBytes fn n old v b
    if atlasHeld s pa new then none
    else some ([BitVec.ofNat 64 (leNat old), BitVec.ofNat 64 ok.toNat], atlasPut t .steward pa new)
  else some (if fn = 13 then [BitVec.ofNat 64 (leNat old)] else if fn = 14 then [0] else [], t)
def atomicPerform (s : State) (id : Nat) : State :=
  match reqAt s id with
  | none => s
  | some r =>
    match r.op with
    | .atomic i v b =>
      if !reqReady s r || isFabric s r.pa then s
      else
        let (fn, n) := atomicFn i v
        match placeOf r.pa with
        | .atlas =>
          match atlasAtomic s fn n r.pa v b with
          | some (vs, s) => answer s r vs
          | none => s
        | _ =>
          match homeAtomic s fn n r.pa (leafKey r.leaf) v b with
          | some (vs, s) => answer s r vs
          | none => if isSW r.sid then s else reqFail s r 0x29 r.va
    | _ => s
def execAtomicPerform (req : Nat) (s : State) : Out := .next (atomicPerform s req)

/-! ### Peer operations (R238 to R240, R248) -/

/-- The effect of an accepted operation at its target; a write of a code ring's words has none (R44). -/
def peerEffect (s : State) (r : Req) (t : Nat) (op : PeerOp) : State :=
  let m := (coreAt s t).scratch
  match op with
  | .load signed n off => answer s r [loadVal signed (mread m off n)]
  | .vload bytes => vecAnswer s r m bytes
  | .store bytes =>
    if bytes.any fun b => codeHit s t b.1 1 then reqFail s r 0x10 r.va
    else dropReq (modCore s t fun c => { c with scratch := bytes.foldl (fun m b => mwrite m b.1 [b.2]) c.scratch }) r.id
  | .sinc sem inc =>
    match semAdd s t sem inc.toNat .cluster [] with
    | some s => dropReq s r.id
    | none => reqFail s r 0x12 r.va
  | .srd sem => answer s r [zx64 (semAt s t sem).count]
  | .sincw sem bound =>
    let old := (semAt s t sem).count
    acquire (answer (semSet s t sem (incwNew old bound) (old < bound) true) r [zx64 old]) r.sid
  | .sfab sem add bound =>
    let old := (semAt s t sem).count
    let (new, ok) := fabNew old add bound
    acquire (answer (semSet s t sem new ok true) r [zx64 old, BitVec.ofNat 64 ok.toNat]) r.sid
  | .rsteal ring =>
    if ringMode (ringAt s t ring) ≠ 2 then reqFail s r 0x05 r.va
    else
      let (v, w, s) := ringSteal s t ring
      acquire (answer s r (v :: w.toList)) r.sid
  | .rstat ring => answer s r [ringStatus (ringAt s t ring)]
  | .wmArrive off => if codeHit s t off 16 then reqFail s r 0x10 r.va else dropReq (wayApply s t off false) r.id
  | .wmExpect off n =>
    if codeHit s t off 16 then reqFail s r 0x10 r.va
    else match wayExpect s t off n.toNat with
    | some s => dropReq s r.id
    | none => reqFail s r 0x12 r.va
/-- The value that an operation of another core is about to give comes from that core (R248). -/
def fromPeer (s : State) (r : Req) (t : Nat) : State :=
  match r.outst with
  | none => s
  | some o => modStream s r.sid fun st => { st with outst := mapIf (fun w => w.id == o) (fun w => { w with peer := some t }) st.outst }
/-- PEER_ACCEPT: every operation that reaches a core that is not live raises Peer Gone, also behind one of its stream that
holds for that fault (R248); a live target accepts them in issue order (R239). -/
def peerAccept (s : State) (id : Nat) : State :=
  match reqAt s id with
  | none => s
  | some r =>
    match r.op with
    | .peer t op =>
      if !reaches s r then s
      else if !liveTo s (coreOf r.sid) t then reqFail s r 0x40 r.va
      else if inOrder s r then peerEffect (fromPeer s r t) r t op
      else s
    | _ => s
def execPeerAccept (req : Nat) (s : State) : Out := .next (peerAccept s req)

/-! ### Walks, landings, late writes, pushes -/

/-- TRANSLATION_WALK: the walk of a miss installs its leaf; what the access makes of it is in `access`. -/
def execTranslationWalk (sid ctx : Nat) (va : BitVec 64) (s : State) : Out :=
  .next (if sid < 2080 ∧ xctx s sid = ctx ∧ vaOk va then (translate s (tlbId sid) ctx va .rd).2 else s)
/-- R57: a pre-emption is pending, in no freeze (R58), and the stream issued too many slots since its last safe point. -/
def mustStop (s : State) (sid : Nat) (st : Stream) : Bool :=
  !isSW sid && decide (4096 < st.sinceSafe) && (match gangOfCore s (coreOf sid) with
    | some x => x.phase == .running && x.preempt && !x.stalled
    | none => false)
/-- RESULT_LANDING: what is due lands; once a stream issues no more, everything does (R57, R68), but in a freeze (R59). -/
def resultLanding (s : State) (sid : Nat) : State :=
  let st := streamAt s sid
  match st.phase with
  | .ending => if frozen s sid then putStream s sid (landDue st) else finishEnd (putStream s sid (landAll st)) sid
  | .stopped => putStream s sid (landAll st)
  | .running => if mustStop s sid st then putStream s sid { landAll st with phase := .stopped } else putStream s sid (landDue st)
  | _ => putStream s sid (if mustStop s sid st then landAll st else landDue st)
def execResultLanding (sid : Nat) (s : State) : Out := .next (if sid < 2080 then resultLanding s sid else s)
/-- VARIABLE_LATENCY_WRITE: a result that arrived is written; the latches are not touched. -/
def lateWrite (s : State) (sid id : Nat) : State :=
  let st := streamAt s sid
  match st.outst.find? fun o => o.id == id with
  | none => s
  | some o =>
    match o.val with
    | none => s
    | some ws =>
      finishEnd (putStream s sid { applyWrites st ws with outst := st.outst.filter fun o => o.id != id }) sid
def execVariableLatencyWrite (sid id : Nat) (s : State) : Out := .next (lateWrite s sid id)
/-- The condition of a push, and its release at CORE, are met (R15). -/
def pushReady (s : State) (cid : Nat) (p : Push) : Bool :=
  let st := streamAt s p.stream
  let live (q : Nat) : Bool := s.requests.any fun r => r.id == q
  (match p.cond with
    | .now => true
    | .holdEnds | .ends => false
    | .landed f => !st.flying.any fun x => x.id == f
    | .written o => !st.outst.any (fun x => x.id == o) && !s.requests.any fun r => r.outst == some o
    | .performed q => !live q
    | .retired q => !(coreAt s cid).cmds.any fun k => k.seq == q) && p.rel.all fun q => !live q
/-- TOKEN_PUSH: the reserved pushes of an instruction are made, all at one moment (R15), with their release at CORE, which gives
up the claims of the region that ended at the instruction (R279, R296, R299). -/
def tokenPush (s : State) (cid i : Nat) : State :=
  match (coreAt s cid).pushes[i]? with
  | none => s
  | some p =>
    if pushReady s cid p then
      modCore (dropClaims s p.stream fun line wr => p.closing.contains (line, wr)) cid fun c =>
        { c with
          pushes := c.pushes.eraseIdx i
          reserved := p.queues.foldl (fun v q => vset v q (vget v q 0 - 1)) c.reserved
          queues := p.queues.foldl (fun v q => vset v q (vget v q [] ++ [p.settle])) c.queues }
    else s
def execTokenPush (cid i : Nat) (s : State) : Out := .next (tokenPush s cid i)

/-! ### Retirements (R108, R295, R332) -/

def commandRetire (s : State) (cid : Nat) (seq : BitVec 32) : State :=
  match cmdAt s cid seq with
  | none => s
  | some k =>
    if !cmdReady s cid k || remoteOut s (.cmd cid seq (cmdAgent k.engine)) then s
    else match k.engine with
      | 4 => retireCopy s cid k
      | 5 => if boundsDone k then retireCmd s cid seq else s
      | 6 => retireBank s cid k (match k.ins with
          | .bgemva .. => true
          | _ => false)
      | 8 => retireCmd (maEffect s cid k) cid seq
      | 9 => kvappRun s cid k
      | _ => s
def execCommandRetire (cid : Nat) (seq : BitVec 32) (s : State) : Out := .next (commandRetire s cid seq)
/-- SCOPE_UPDATE_RETIRE: no core caches an earlier version any more. -/
def scopeRetire (s : State) (i : Nat) : State :=
  match s.scopeUpds[i]? with
  | none => s
  | some u =>
    { s with
      scopeUpds := s.scopeUpds.eraseIdx i
      cores := s.cores.map fun e => (e.1, { e.2 with scopeCache := e.2.scopeCache.filter fun c => scopeKey c.1 c.2.1 != u.key }) }
def execScopeUpdateRetire (i : Nat) (s : State) : Out := .next (scopeRetire s i)
/-- MIG_PAGE_COMPLETE: a page later than its deadline adds 1 to SLIP, which saturates. -/
def migComplete (s : State) (d i : Nat) (tick : BitVec 48) : State :=
  match (dieAt s d).mig[i]? with
  | none => s
  | some r =>
    pageArrives (modDie s d fun x => { x with mig := x.mig.eraseIdx i }) r.core r.deadline tick
def execMigPageComplete (die i : Nat) (tick : BitVec 48) (s : State) : Out := .next (if die < 8 then migComplete s die i tick else s)

end Sys2Proof.Machine
end

