-- ==== Sys2Proof/Machine/Errors.lean ====
section
/-! DEFINITION. Uncorrectable and corrected errors (R367, R368, R105): the gang stops, what was in flight leaves each 32-byte
sector old or new, an entry is posted, and the failing unit goes offline. -/
namespace Sys2Proof.Machine

/-! ### Old or new, sector by sector (R286, R367) -/

/-- Sectors in which two memories differ. -/
def diffSectors (a b : Memory) : List Nat :=
  (((a ++ b).filter fun c => mget a c.1 != mget b c.1).map fun c => c.1 / 32).eraseDups
/-- The memory whose sectors of a list come from `new` where a free bit says so. -/
def mixSectors (old new : Memory) (secs : List Nat) (s : State) : Memory × List Nat × State :=
  secs.foldl (fun (a : Memory × List Nat × State) k =>
    let (b, s) := freeVal a.2.2 1
    if b = 0 then (a.1, a.2.1, s) else (mwrite a.1 (32 * k) (mread new (32 * k) 32), k :: a.2.1, s)) (old, [], s)
/-- The stores of a set of cores that are not performed yet, performed. -/
def finishStores (s : State) (ms : List Nat) : State :=
  (s.requests.filter fun r => !isSW r.sid && ms.contains (coreOf r.sid)).foldl (fun s r =>
    match r.op with
    | .store n v => dropReq (homeStore s r (leBytes n v.toNat)) r.id
    | .peer t (.store bs) => if liveTo s (coreOf r.sid) t then peerEffect s r t (.store bs) else dropReq s r.id
    | _ => dropReq s r.id) s
/-- A command run to its end. -/
def finishCmd (s : State) (cid : Nat) (k : Cmd) : State :=
  let s := modCmd s cid k.seq fun q => { q with after := [], waitReq := [] }
  match k.engine with
  | 4 => commandRetire (forN (sectorCount k) (fun _ s => porterSector s cid k.seq) s) cid k.seq
  | 5 => boundsStart s cid k.seq
  | _ => commandRetire s cid k.seq
def finishCmds (s : State) (ms : List Nat) : State :=
  ms.foldl (fun s m => (coreAt s m).cmds.foldl (fun s k => finishCmd s m k) s) s
/-- Waymarks of copies that end now: ERR is set, and what they did not write, or what waited, is decremented (R105). -/
def errWays (s : State) (ms : List Nat) : State :=
  ms.foldl (fun s m => (coreAt s m).cmds.foldl (fun s k =>
    if k.engine = 4 && compKind k.ins % 2 = 1 then
      wayDecs (wayErr s m (cmdWay k)) m (cmdWay k) ((sectorCount k - k.next) * (if isTldm k.ins then 4 else 1) + k.owed)
    else s) s) s
/-- Offsets of the waymarks of a core's copies in flight. -/
def wayOffs (c : Core) : List Nat :=
  c.cmds.filterMap fun k =>
    if k.engine = 4 && compKind k.ins % 2 = 1 then some (cmdWay k) else none
/-- What was in flight at a set of cores leaves old or new values; then nothing of it is in flight. -/
def leaveMixed (s : State) (ms : List Nat) : State :=
  let new := finishCmds (finishStores s ms) ms
  let ways := errWays s ms
  let (mem, taken, s) := mixSectors s.mem new.mem (diffSectors s.mem new.mem) s
  let s := { s with
    mem := mem
    keyTags := taken.foldl (fun t k => match aget new.keyTags k with
      | some v => aput t k v
      | none => adel t k) s.keyTags
    dram := taken.foldl (fun t k => match aget new.dram k with
      | some v => aput t k v
      | none => t) s.dram }
  let s := (List.range 512).foldl (fun s m =>
    let old := (coreAt s m).scratch
    let nw := (coreAt new m).scratch
    if old = nw then s
    else
      let (x, _, s) := mixSectors old nw (diffSectors old nw) s
      modCore s m fun c => { c with scratch := x }) s
  let s := ms.foldl (fun s m => (wayOffs (coreAt s m)).foldl (fun s o =>
    modCore s m fun c => { c with scratch := mwrite c.scratch o (mread (coreAt ways m).scratch o 16) }) s) s
  let s := ms.foldl (fun s m =>
    let qs := (coreAt s m).cmds.map fun k => agentOf m k.seq
    modCore (qs.foldl endRegion s) m fun c => { c with cmds := [] }) s
  { s with
    requests := s.requests.filter fun r => isSW r.sid || !ms.contains (coreOf r.sid)
    remotes := s.remotes.filter fun m => match m.owner with
      | .cmd c _ _ => !ms.contains c
      | .spawn sid _ => !ms.contains (coreOf sid)
      | .save _ c => !ms.contains c
      | .port .. | .join .. | .replat .. | .hw .. => true }

/-! ### Stopping (R367) -/

/-- A gang stops: issue, commands and accesses end, and the leg ends with 0xF0. A rectangle that is only held for a caravan
runs nothing, and is in no gang yet (R348, R368). -/
def ueGang (s : State) (g : Nat) : State :=
  match (gangAt s g).filter fun x => x.phase != .heldFor with
  | none => s
  | some x => stopGang (leaveMixed s (membersOf g x)) g x 0xF0
/-- The gangs of a caravan stop together. -/
def ueLeg (s : State) (g : Nat) : State :=
  match gangAt s g with
  | none => s
  | some x =>
    match x.caravan with
    | none => ueGang s g
    | some c => s.gangs.foldl (fun s e => if e.2.caravan = some c then ueGang s e.1 else s) s
/-- Every gang whose leg an uncorrectable error of an access has ended in this move is stopped (R367, R381). -/
def ueSweep (s : State) : State :=
  (s.gangs.filter fun e => e.2.phase != .dying && e.2.killed.isSome).foldl (fun s e =>
    match gangAt s e.1 with
    | some x => if x.phase = .dying then s else ueLeg s e.1
    | none => s) s
/-- A move ends with the stops that its uncorrectable errors ask for. -/
def swept (o : Out) : Out :=
  match o with
  | .next s => .next (ueSweep s)
  | o => o
/-- DESIGN CHOICE (log entry 100): a rectangle held for a caravan that loses a core is held no longer, and the caravan is placed
anew on that die. -/
def releaseHeld (s : State) (c : Nat) : State :=
  match gangKey s c, gangOfCore s c with
  | some g, some x =>
    if x.phase = .heldFor then
      (membersOf g x).foldl (fun s m => modCore s m fun k => { k with gang := none }) { s with gangs := adel s.gangs g }
    else s
  | _, _ => s
/-- A unit goes offline (R367): the core, if the error lies in one; else the slice, the vault or the bank unit, or the slice or
the carve way, that the address belongs to, and requests whose pages lay there are marked (R423). Which of them failed is the
hardware's (a free value; log entry 87). -/
def ueOffline (s : State) (core : Option Nat) (pa : Nat) : State :=
  if pa = 0 then
    match core with
    | some c => releaseHeld (modCore s c fun c => { c with offline := true }) c
    | none => s
  else
    let (u, s) := freeVal s 2
    noteLost (match placeOf (localPa s pa) with
    | .hbm d v => modDie s d fun x =>
      if u = 0 then { x with offSlices := (v :: x.offSlices).eraseDups }
      else if u = 1 then { x with offVaults := (v :: x.offVaults).eraseDups }
      else { x with offBanks := (v :: x.offBanks).eraseDups }
    | .carve d v o => modDie s d fun x =>
      if u = 0 then { x with offSlices := (v :: x.offSlices).eraseDups }
      else { x with offCarve := ((16 * v + o / 0x100000) :: x.offCarve).eraseDups }
    | _ => s)
/-- An access of a stream that no link or answer can serve (R381, R457): class 4, the destination PA. -/
def ueAccess (s : State) (r : Req) : State :=
  if isSW r.sid then stewardFault s r 0xF0 (BitVec.ofNat 64 r.pa)
  else
    let cid := coreOf r.sid
    if !canRaise s (dieOf cid) then setExstat s (dieOf cid) 8
    else
      let s := raise s (coreFault cid (kindOf r.sid) (r.pc.setWidth 32) 0xF0 (BitVec.ofNat 64 r.pa) s)
      let s := dropReq s r.id
      match gangKey s cid with
      | some g => ueLeg s g
      | none => s
/-- UNCORRECTABLE_ERROR in a core, or in the data at `pa` that it reads; the agent and its PC or sequence number are the
detecting unit's (log entry 47). An idle core has no gang (R368). -/
def uncorrectable (s : State) (cid pa : Nat) : State :=
  if !canRaise s (dieOf cid) then setExstat s (dieOf cid) 8
  else
    let (a, s) := freeVal s 32
    let (pc, s) := freeVal s 32
    let s := raise s (coreFault cid (a.toNat % 9) pc 0xF0 (BitVec.ofNat 64 pa) s)
    let s := match gangKey s cid with
      | some g => ueLeg s g
      | none => s
    ueOffline s (some cid) pa
def execUncorrectableError (cid pa : Nat) (s : State) : Out := .next (if cid < 512 then uncorrectable s cid pa else s)
def ueOutside (s : State) (d pa : Nat) : State :=
  if !canRaise s d then setExstat s d 8
  else
    let (a, s) := freeVal s 32
    let (pc, s) := freeVal s 32
    let tick : BitVec 48 := (areg s (dieBlock d + 0x02000100)).setWidth 48
    ueOffline (raise s { die := d, agent := a.toNat % 9, code := 0xF0, va := BitVec.ofNat 64 pa, pc := pc, tick := tick }) none pa
def execUeOutsideGang (die pa : Nat) (s : State) : Out := .next (if die < 8 then ueOutside s die pa else s)
/-- A corrected error is counted and changes no value. -/
def execSoftErrorCorrected (die : Nat) (s : State) : Out :=
  .next (if die < 8 then modDie s die fun x => { x with softErrors := x.softErrors + 1 } else s)

end Sys2Proof.Machine
end

