-- ==== Sys2Proof/Machine/Fetch.lean ====
section
/-! DEFINITION. Fetching a word and giving a stream its turn (R39, R44), and what a turn does to a stream that
holds or must stop. `step` only calls what stands here. -/
namespace Sys2Proof.Machine

/-- The next turn: the head of the agenda, or the free schedule's (log entry 1). -/
def nextTurn (s : State) : Turn × State :=
  match s.agenda with
  | t :: r => (t, { s with agenda := r, moves := s.moves + 1 })
  | [] => (Config.schedule s.moves, { s with moves := s.moves + 1 })

/-- The code that a word which does not decode raises (R38). -/
def rejectCode (sid : Nat) (r : Reject) : BitVec 8 := if r = .swTokens ∧ !isSW sid then 0x02 else 0x01
/-- A stream's turn to issue: it fetches its word, which raises Illegal Encoding if it is no instruction
(R38, R39), or is executed. `held` is what a turn does to a stream that has issued and holds. After the trip of R471 nothing
moves. -/
def issueTurn (ex : Instr → State → Out) (held : State → Nat → State) (sid : Nat) (s : State) : Out :=
  let s := { s with cur := sid }
  match (streamAt s sid).phase with
  | .holding _ => .next (if s.tripped then s else held s sid)
  | _ =>
    if 2080 ≤ sid || !canIssue s sid then .next s
    else if ringSize s sid = 0 then .fault .noCodeRing
    else
      match decode (fetchWord s sid) with
      | .error r => .next (raiseAt (modStream s sid landDue) sid (rejectCode sid r) 0)
      | .ok i => ex i s

/-- A step that no word encodes. After the trip of R471 nothing moves. -/
def eventTurn (ex : Instr → State → Out) (e : Instr) (s : State) : Out :=
  if (encode e).isNone && !s.tripped then ex e s else .next s

/-- A stream kind that may issue an instruction (R37): LD where LD may, else MA, VX, ST or SW. -/
def homeKind (i : Instr) : Nat :=
  match i with
  | .eret | .wfe | .tlbi .. | .ipi .. => 4
  | .csrr _ _ n => if csrSwOnly n.toNat then 4 else 0
  | .csrw _ _ n => if csrSwOnly n.toNat then 4 else 0
  | .mcfg .. | .mdat .. | .mclr .. | .mma .. | .mmaz .. | .mmas .. | .matt .. | .msmx .. | .mrd .. | .macc ..
  | .mstat .. => 1
  | .st .. | .spst .. | .tst .. | .bcfg .. | .bgemv .. | .bgemva .. | .csnd .. | .platw .. | .replat ..
  | .bndcfg .. | .bndx .. | .gmc .. | .trset .. | .stepend .. | .kvapp .. | .digest .. => 3
  | .vcfg .. | .vadd .. | .vsub .. | .vmul .. | .vmac .. | .vmin .. | .vmax .. | .vadds .. | .vabs .. | .vand ..
  | .vor .. | .vxor .. | .vshl .. | .vshr .. | .vsra .. | .vneg .. | .vsel .. | .vcmpeq .. | .vcmpne ..
  | .vcmplt .. | .vcmple .. | .vmsk .. | .vexp2 .. | .vlog2 .. | .vrcp .. | .vrsq .. | .vsqrt .. | .vcvt ..
  | .vpack .. | .vunpk .. | .vplane .. | .vunpl .. | .vrsum .. | .vrmax .. | .vrmin .. | .vbsum .. | .vbfin ..
  | .vbcast .. | .vext .. | .vins .. | .vslide .. | .vperm .. | .vld .. | .vst .. | .vlds .. | .vsts ..
  | .vgth .. | .vsct .. => 2
  | _ => 0

/-- The gang that `withFetchWord` puts on core 0 of die 0: a 1×1 leg of context 0 with a record of zeros. -/
def probeGang : Gang :=
  { phase := .running, record := List.replicate 64 0, ctx := 0, origin := 0, w := 1, h := 1, dieIndex := 0,
    dieCount := 1, caravan := none, resume := false, tick := 0, slip := 0, stalled := false, preempt := false,
    killed := none, hold := none, dropJoin := false }

/-- The word stored where the next turn fetches (log entry 6): in the code ring of a stream that may issue
it, at its PC, with the gang running and that stream's turn next. -/
def placeWord (s : State) (w : IWord) : State :=
  let k := match decode w with
    | .ok i => homeKind i
    | .error _ => 0
  let bs := (List.range 4).map fun i => byteOfWord w i
  if k = 4 then
    let s := modStream s 2048 fun st => { st with phase := .running }
    { s with mem := mwrite s.mem (swBase 2048 + 4 * (streamAt s 2048).pc.toNat) bs, agenda := [.issue 2048] }
  else
    let s := putGang s 0 probeGang
    let s := modStream s k fun st => { st with phase := .running }
    let s := modCore s 0 fun c =>
      { c with
        gang := some 0, ringBase := vset c.ringBase k (4096 * k), ringLog := vset c.ringLog k 10
        scratch := mwrite c.scratch (4096 * k + 4 * (streamAt s k).pc.toNat) bs }
    { s with agenda := [.issue k] }

end Sys2Proof.Machine
end

