-- ==== Sys2Proof/Machine/Hold.lean ====
section
/-! DEFINITION. A turn of a stream that has issued and holds: the end of its hold, if what it waits for is done
(R69, R280, R316 to R318, R323). -/
namespace Sys2Proof.Machine

/-- The stream issues on; its pushes wait for their release only. A Steward whose HALT was written during its hold halts
before its next issue (R262). -/
def endHold (s : State) (sid : Nat) : State :=
  if isSW sid && bitAt (areg s (stewardCtl sid)) 0 then haltSteward s sid
  else freePushes (modStream s sid fun st => { st with phase := .running }) sid .holdEnds
/-- The result of an update lands at the slot after the hold ends (R323). -/
def endUpdate (s : State) (sid : Nat) (d : Reg) (hdr : BitVec 64) : State :=
  endHold (landIn s sid [wX d.toNat hdr] (hdr.setWidth 2048) 0).2 sid
/-- A push that a parking stream makes first: any but one that waits for a circuit value, which may never come (R15, R67, R330). -/
def pushFirst (s : State) (sid : Nat) (p : Push) : Bool :=
  p.stream == sid && (match p.cond with
    | .written o => !waitsValue s (coreOf sid) o
    | _ => true)
/-- The turn of a stream that holds; in a freeze of its gang it stays as it is (R59, R352). -/
def holdTurn (s : State) (sid : Nat) : State :=
  if frozen s sid then s
  else match (streamAt s sid).phase with
  | .holding (.waitl n) => if (streamAt s sid).outst.length ≤ n then endHold s sid else s
  | .holding (.fence kind reqs cmds cores slices) =>
    if fenceDone s sid reqs cmds then endHold (fenceEffect s sid kind cores slices) sid else s
  | .holding (.scope upd d hdr) => if s.scopeUpds.any fun u => u.id == upd then s else endUpdate s sid d hdr
  | .holding (.access q _) => if s.requests.any fun r => r.id == q then s else endHold s sid
  | .holding (.park i) =>
    if (coreAt s (coreOf sid)).pushes.any (pushFirst s sid) then s
    else modStream s sid fun st => { st with phase := .parked i }
  | .holding (.plat upd d hdr) => if s.platUpds.any fun u => u.id == upd then s else endUpdate s sid d hdr
  | _ => s

end Sys2Proof.Machine
end

