-- ==== Sys2Proof/Machine/Router.lean ====
section
/-! DEFINITION. Packets on their way (R376 to R381), and tracked requests across package edges (R457, R458). -/
namespace Sys2Proof.Machine

def dropPacket (s : State) (id : Nat) : State := { s with packets := s.packets.filter fun p => p.id != id }
/-- The access that a packet carries, tracked across a package edge (R457). -/
def packetReq (s : State) (p : Packet) : Option Req :=
  match p.payload with
  | .req id => reqAt s id
  | .gmc .. => none
  | .put _ => none
def isTracked (s : State) (r : Req) : Bool :=
  isFabric s r.pa && (match r.op with
    | .store .. | .atomic .. => true
    | _ => false)
/-- The packet carries a tracked request (R457). -/
def packetTracked (s : State) (p : Packet) : Bool :=
  match p.payload with
  | .put _ => true
  | _ => (match packetReq s p with
    | some r => isTracked s r
    | none => false)
/-- An earlier packet of the same source for the same destination is still before this one (R257, R380). -/
def packetBehind (s : State) (p : Packet) (arriving : Bool) : Bool :=
  (s.packets.takeWhile fun q => q.id != p.id).any fun q =>
    q.src == p.src && q.dst == p.dst && (q.at_ == p.at_ || (arriving && q.at_ != q.dst))
def dropRemote (s : State) (id : Nat) : State := { s with remotes := s.remotes.filter fun m => m.id != id }
/-- A die's own request fails: a fault of its own (agent 4) for a leg's end, at the schedule counter of the leg's gang (R364),
which makes no update then, or for a save; of a stream whose SPAWN waits; of a router's participant; of a ring or the Coach, in no gang (log entry 105). What has ended since
raises nothing. -/
def hardwareFail (s : State) (o : RemoteOwner) (pa : Nat) : State :=
  let va : Word := BitVec.ofNat 64 pa
  match o with
  | .join d g leg ctx =>
    let gang := if g < 64 then gangAt s (64 * d + g) else none
    let tick := (gang.map fun x => x.tick).getD ((areg s (dtickPa d)).setWidth 48)
    raise s { die := d, agent := 4, gang := g, code := 0xF0, va := va, leg := leg, ctx := ctx, tick := tick }
  | .spawn sid pc =>
    if workDone (streamAt s sid) && (streamAt s sid).pc == pc && legRuns s (coreOf sid) then raiseAt s sid 0xF0 va else s
  | .save g m => if (gangAt s g).isSome then memberFault s g m 0xF0 va else s
  | .replat id d => (match (s.replats.find? fun r => r.id == id).bind fun r => (r.parts.find? fun p => p.1 == d).map fun p => (r, p) with
    | some (r, p) => partFault s r p 0xF0 va
    | none => s)
  | .hw d => raise s { die := d, agent := 4, code := 0xF0, va := va, tick := (areg s (dtickPa d)).setWidth 48 }
  | _ => s
/-- The die whose fault queue takes the fault of a request. -/
def ownerDie (o : RemoteOwner) : Nat :=
  match o with
  | .cmd cid .. => dieOf cid
  | .join d .. => d
  | .spawn sid _ => dieOf (coreOf sid)
  | .save g _ => g / 64
  | .replat _ d => d
  | .hw d => d
  | .port .. => 0
/-- A tracked request of hardware fails (R381, R457): the command's fault, the descriptor's status, or a fault of the die's
own. -/
def remoteFail (s : State) (m : Remote) : State :=
  match m.owner with
  | .cmd cid seq agent =>
    if !canRaise s (dieOf cid) then heldByQueue s cid
    else engineFail (dropRemote s m.id) cid seq agent 0xF0 (BitVec.ofNat 64 m.pa) 0xFFFF
  | .port io storage ring =>
    portDone { s with remotes := s.remotes.filter fun q => q.owner != m.owner } io storage ring 0xF0
  | o =>
    if !canRaise s (ownerDie o) then setExstat s (ownerDie o) 8
    else hardwareFail (dropRemote s m.id) o m.pa
/-- No link leads on: the router answers, and the access raises Uncorrectable Error (R381), once a fault can be raised. -/
def packetLost (s : State) (p : Packet) : State :=
  let gone := dropPacket s p.id
  match p.payload with
  | .req id => (match reqAt s id with
    | none => gone
    | some r =>
      if !isSW r.sid && !canRaise s (dieOf (coreOf r.sid)) then heldByQueue s (coreOf r.sid) else ueAccess gone r)
  | .put id => (match s.remotes.find? fun m => m.id == id with
    | none => gone
    | some m => remoteFail gone m)
  | .gmc _ sid m g _ _ leg serial pc =>
    let pa := 0x9000000000 + dieOf m * 0x10000000 + 0x08000000 + m % 64 * 0x200000 + fld (areg s (groupPa g 9)) 20 0
    if canRaise s (dieOf (coreOf sid)) then raise gone (gmcFault sid leg serial pc 0xF0 (BitVec.ofNat 64 pa) s)
    else heldByQueue s (coreOf sid)
/-- The window check at ejection (R378), then the packet is at its destination. -/
def ejectPacket (s : State) (p : Packet) : State :=
  let d := p.dst % 8
  let seen := (dieAt s d).window.contains (p.src, p.seq)
  if p.resent && seen && !(packetTracked s p && p.src / 8 != p.dst / 8) then dropPacket s p.id
  else
    let s := modDie s d fun x =>
      let own := (x.window.filter fun w => w.1 == p.src) ++ [(p.src, p.seq)]
      { x with window := (x.window.filter fun w => w.1 != p.src) ++ own.drop (own.length - 256) }
    match p.payload with
    | .req id =>
      { dropPacket s p.id with requests := mapIf (fun r => r.id == id) (fun r => { r with arrived := true }) s.requests }
    | .put _ => dropPacket s p.id
    | .gmc .. => modPacket s p.id fun q => { q with at_ := p.dst, queued := none, detour := [] }
/-- The bytes of a packet on an outward link, cut into flits (R452): 1 to 288 bytes, which the spec does not lay out (log
entry 44). -/
def packetFlits (s : State) : List (List Byte) × State :=
  let (n, s) := freeVal s 9
  let (v, s) := freeVal s 2304
  let bs := leBytes (n.toNat % 288 + 1) v.toNat
  ((List.range (ceilDiv bs.length 104)).map fun i => (bs.drop (104 * i)).take 104, s)
/-- A packet at a router, not yet in a channel there, takes its next hop (R376, R377, R381): it needs `need` free slots,
or 1 where it goes on in the channel it came by. The router of the destination ejects it, from a sidestep too. -/
def hopPacket (s : State) (p : Packet) (came : Option Nat) : State :=
  match firstDim p.at_ p.dst with
  | none => ejectPacket s p
  | some dim0 =>
    match nextHop s p dim0 with
    | none => packetLost s p
    | some (h, det) =>
      let d := p.at_ % 8
      let L := linkFor s d h.dim h.dir
      let ch := if L % 2 = 1 then 1000 + trunkKey d h.dim else channelOf h p
      let room := if came = some (channelOf h p) then 1 else 2
      if slotsFree s p.at_ ch < room then s
      else
        let s := modPacket s p.id fun q => { q with at_ := p.at_, queued := some ch, detour := det }
        if L % 2 = 1 then
          let (fs, s) := packetFlits s
          let k := trunkKey d h.dim
          putTrunk (modPacket s p.id fun q => { q with flits := fs.length }) k
            { trunkAt s k with outQ := (trunkAt s k).outQ ++ fs.map fun f => (p.id, f) }
        else s
/-- An earlier packet of the same source for the same destination was taken back at this router and waits there to be injected
again: it comes first (R380). -/
def takenBefore (s : State) (p : Packet) : Bool :=
  (s.packets.takeWhile fun q => q.id != p.id).any fun q =>
    q.src == p.src && q.dst == p.dst && q.at_ == p.at_ && q.queued.isNone
/-- ROUTER_PACKET: packet i enters its channel, or crosses its link to the next router. -/
def routerPacket (s : State) (i : Nat) : State :=
  match s.packets[i]? with
  | none => s
  | some p =>
    match p.queued with
    | none => if p.at_ = p.dst || packetBehind s p false then s else hopPacket s p none
    | some c =>
      if 1000 ≤ c || packetBehind s p false then s
      else
        let e := p.at_ / 8 * 8 + (p.at_ % 8 ^^^ 2 ^ (c / 16))
        let q := { p with at_ := e, queued := none, detour := p.detour.drop 1 }
        if e = p.dst then (if packetBehind s p true then s else ejectPacket s q)
        else if takenBefore s q then s
        else hopPacket s q (some c)
def execRouterPacket (i : Nat) (s : State) : Out := .next (routerPacket s i)
/-- PACKET_AGE_EXPIRY: a packet older than 200 µs is discarded. -/
def execPacketAgeExpiry (i : Nat) (s : State) : Out := .next { s with packets := s.packets.eraseIdx i }

/-! ### Tracked requests (R457, R458) -/

/-- A request or a write goes out again, marked RESENT, under its own number. -/
def resend (s : State) (src dst seq : Nat) (p : Payload) : State :=
  let (pid, s) := fresh s
  let pk : Packet :=
    { id := pid, src := src, dst := dst, at_ := src, seq := seq, resent := true, response := false, payload := p
      detour := [], queued := none, flits := 0 }
  { s with packets := s.packets ++ [pk] }
/-- RETRANSMIT_TIMEOUT: a request to another package, a load too, is sent again; after 8 times it fails (R457). -/
def retransmit (s : State) (id : Nat) : State :=
  match reqAt s id with
  | some r =>
    if !isFabric s r.pa || inSlice r then s
    else if 8 ≤ r.tries then ueAccess s r
    else
      let s := { s with requests := mapIf (fun q => q.id == id) (fun q => { q with tries := r.tries + 1 }) s.requests }
      match homeGlobal s r.pa with
      | none => s
      | some dst => resend s (srcGlobal s r.sid) dst r.track (.req id)
  | none => match s.remotes.find? fun m => m.id == id with
    | none => s
    | some m =>
      if 8 ≤ m.tries then remoteFail s m
      else
        let s := { s with remotes := mapIf (fun q => q.id == id) (fun q => { q with tries := m.tries + 1 }) s.remotes }
        resend s m.src m.dst m.track (.put id)
def execRetransmitTimeout (req : Nat) (s : State) : Out := .next (retransmit s req)
/-- The home slice of an address that keeps the records of tracked requests, as 64·die + slice; past the slices the die that
serves the address, and for a semaphore its core (R458). -/
def recordHome (s : State) (pa : Nat) : Nat :=
  match datumHome s pa with
  | some (d, v) => 64 * d + v
  | none => 512 + (homeGlobal s pa).getD 0 % 8
/-- The effect of a tracked request at its home and its result; `none` where it is not performed. `fn` has the function in [5:0]
(16 a write of `data`, 17 an increment of a semaphore of core `pa`) and the key slot above it. -/
def trackedEffect (s : State) (fn pa n : Nat) (v v2 : Word) (data : List Byte) : Option (Word × State) :=
  match fn % 64 with
  | 15 => none
  | 16 => if 1 ≤ data.length ∧ pa % 32 + data.length ≤ 32 then some (0, paWrite s pa data (fn / 64 % 64)) else none
  | 17 => (semAdd s pa (fld v 4 0) (fld v2 31 0) .fabric []).map fun t => (0, t)
  | f =>
    if 17 < f ∨ !([1, 2, 4, 8].contains n) ∨ pa % n ≠ 0 then none
    else (homeAtomic s f n pa (fn / 64 % 64) v v2).map fun r => (r.1.headD 0, r.2)
/-- What a tracked request names is there: an address of memory, or a core that runs a leg (R214, R397). -/
def trackedTarget (s : State) (fn pa : Nat) : Bool :=
  if fn % 64 = 17 then decide (pa < 512) && legRuns s pa else decide (pa < 0x8200000000) && (paFault s pa).isNone
/-- TRACKED_REQUEST: a request of another package at its home in this one, performed once for each source and home slice
(R458). One that meets Claim Capacity or an overflow is not performed and not recorded (log entry 15). -/
def trackedRequest (s : State) (src seq fn pa n : Nat) (v v2 : Word) (data : List Byte) : State :=
  let dst := if fn % 64 = 17 then 1024 + pa else recordHome s pa
  if src / 8 = packageId s || !trackedTarget s fn pa || (s.tracked.any fun t => t.src == src && t.dst == dst && t.seq == seq) then s
  else match trackedEffect s fn pa n v v2 data with
    | none => s
    | some (w, s) =>
      let mine (t : Tracked) : Bool := t.src == src && t.dst == dst
      let own := s.tracked.filter mine ++ [⟨src, dst, seq, w⟩]
      { s with tracked := (s.tracked.filter fun t => !mine t) ++ own.drop (own.length - 256) }
def execTrackedRequest (src seq fn pa n : Nat) (v : BitVec 256) (v2 : BitVec 64) (s : State) : Out :=
  .next (trackedRequest s src seq fn pa n (v.setWidth 64) v2 (leBytes n v.toNat))
/-- The first answer to a tracked request of hardware: room for a join update that waited (R457). A port's descriptor completes with its last. -/
def remoteDone (s : State) (id : Nat) : State :=
  match s.remotes.find? fun m => m.id == id with
  | none => s
  | some m =>
    if m.tries < (s.packets.filter fun p => p.payload == .put id).length then s
    else
      let t := if s.hwOut = [] then dropRemote s id else flushHw (dropRemote s id)
      match m.owner with
      | .port io storage ring => if remoteOut t m.owner then t else portDone t io storage ring 1
      | .cmd .. => t
      | o => heldOrphans t (ownerDie o)
/-- TRACKED_RESPONSE: the first answer completes the access; `v` is what the home read. -/
def trackedResponse (s : State) (id : Nat) (v : Word) : State :=
  match reqAt s id with
  | none => remoteDone s id
  | some r =>
    if !isTracked s r || !r.arrived || r.hold.isSome then s
    else match r.op with
      | .store .. => dropReq s id
      | .atomic i a b =>
        let (fn, n) := atomicFn i a
        if fn = 12 then answer s r []
        else
          let old : Word := BitVec.ofNat 64 (v.toNat % 2 ^ (8 * n))
          answer s r [old, BitVec.ofNat 64 (atomicBytes fn n (leBytes n old.toNat) a b).2.toNat]
      | _ => s
def execTrackedResponse (req : Nat) (v : BitVec 64) (s : State) : Out := .next (trackedResponse s req v)

end Sys2Proof.Machine
end

