-- ==== Sys2Proof/Machine/Scalar.lean ====
section
/-! DEFINITION. The scalar forms of chapter 04: ALU and ALU2 (R73 to R77), immediates (R78 to R80),
branches and jumps (R81 to R83) and LOOP (R84). -/
namespace Sys2Proof.Machine

/-! ### Shared shapes -/

/-- Two sources, one landing (R62). -/
def scalar2 (lat : Nat) (f : Word → Word → Word) (tk : Tok) (d a b : Reg) (nw : BitVec 1) (s : State) : Out :=
  issue { legal := allStreams, srcs := [.x a.toNat, .x b.toNat], dsts := dstNw d nw } tk
    (fun s => let st := streamAt s s.cur
      landX s s.cur (nw == 1) d.toNat (f (readX st a.toNat) (readX st b.toNat)) lat) s
/-- Two sources and d read as well (R76). -/
def scalar3 (lat : Nat) (f : Word → Word → Word → Word) (tk : Tok) (d a b : Reg) (nw : BitVec 1) (s : State) : Out :=
  issue { legal := allStreams, srcs := [.x d.toNat, .x a.toNat, .x b.toNat], dsts := dstNw d nw } tk
    (fun s => let st := streamAt s s.cur
      landX s s.cur (nw == 1) d.toNat (f (readX st d.toNat) (readX st a.toNat) (readX st b.toNat)) lat) s
/-- One source, one landing. -/
def scalar1 (f : Word → Word) (tk : Tok) (d a : Reg) (nw : BitVec 1) (s : State) : Out :=
  issue { legal := allStreams, srcs := [.x a.toNat], dsts := dstNw d nw } tk
    (fun s => landX s s.cur (nw == 1) d.toNat (f (readX (streamAt s s.cur) a.toNat)) 1) s
/-- No register source. -/
def scalar0 (f : State → Word) (tk : Tok) (d : Reg) (s : State) : Out :=
  issue { legal := allStreams, dsts := locX d } tk (fun s => landX s s.cur false d.toNat (f s) 1) s
/-- The register writes of a group result (R74): register d takes the low bits. -/
def groupWrites (d k v : Nat) : List Write :=
  (List.range k).map fun i => wX (d + i) (BitVec.ofNat 64 (v / 2 ^ (64 * i)))
/-- ALU fn 0 to 5 at any width (R73, R74): one landing of the whole group. -/
def aluWide (f : (n : Nat) → BitVec n → BitVec n → BitVec n) (tk : Tok) (d a b : Reg) (w : BitVec 2)
    (nw : BitVec 1) (s : State) : Out :=
  let k := 2 ^ w.toNat
  issue
    { legal := allStreams, srcs := [.xs a.toNat k, .xs b.toNat k],
      dsts := if nw = 1 then [] else groupLocs d.toNat k } tk
    (fun s =>
      let st := streamAt s s.cur
      let v := (f (64 * k) (BitVec.ofNat _ (readGroup st a.toNat k)) (BitVec.ofNat _ (readGroup st b.toNat k))).toNat
      let (id, s) := landIn s s.cur (if nw = 1 then [] else groupWrites d.toNat k v)
        ((BitVec.ofNat 64 v).setWidth 2048) 1
      .done s { push := .landed id }) s
/-- A conditional branch (R81). -/
def branch (cond : Nat) (tk : Tok) (a b : Reg) (off : BitVec 9) (s : State) : Out :=
  issue { legal := allStreams, srcs := [.x a.toNat, .x b.toNat] } tk
    (fun s =>
      let st := streamAt s s.cur
      if condHolds cond (readX st a.toNat) (readX st b.toNat) then
        .done s { jump := some (ringPc s s.cur (st.pc.toNat + off.toInt)) }
      else .done s {}) s

/-! ### ALU -/

def execAdd (tk : Tok) (d a b : Reg) (w : BitVec 2) (nw : BitVec 1) (s : State) : Out :=
  aluWide (fun _ x y => x + y) tk d a b w nw s
def execSub (tk : Tok) (d a b : Reg) (w : BitVec 2) (nw : BitVec 1) (s : State) : Out :=
  aluWide (fun _ x y => x - y) tk d a b w nw s
def execAnd (tk : Tok) (d a b : Reg) (w : BitVec 2) (nw : BitVec 1) (s : State) : Out :=
  aluWide (fun _ x y => x &&& y) tk d a b w nw s
def execOr (tk : Tok) (d a b : Reg) (w : BitVec 2) (nw : BitVec 1) (s : State) : Out :=
  aluWide (fun _ x y => x ||| y) tk d a b w nw s
def execXor (tk : Tok) (d a b : Reg) (w : BitVec 2) (nw : BitVec 1) (s : State) : Out :=
  aluWide (fun _ x y => x ^^^ y) tk d a b w nw s
def execAndn (tk : Tok) (d a b : Reg) (w : BitVec 2) (nw : BitVec 1) (s : State) : Out :=
  aluWide (fun _ x y => x &&& ~~~y) tk d a b w nw s
def execSll (tk : Tok) (d a b : Reg) (nw : BitVec 1) (s : State) : Out := scalar2 1 sllVal tk d a b nw s
def execSrl (tk : Tok) (d a b : Reg) (nw : BitVec 1) (s : State) : Out := scalar2 1 srlVal tk d a b nw s
def execSra (tk : Tok) (d a b : Reg) (nw : BitVec 1) (s : State) : Out := scalar2 1 sraVal tk d a b nw s
def execSlt (tk : Tok) (d a b : Reg) (nw : BitVec 1) (s : State) : Out := scalar2 1 sltVal tk d a b nw s
def execSltu (tk : Tok) (d a b : Reg) (nw : BitVec 1) (s : State) : Out := scalar2 1 sltuVal tk d a b nw s
def execMin (tk : Tok) (d a b : Reg) (nw : BitVec 1) (s : State) : Out := scalar2 1 minVal tk d a b nw s
def execMax (tk : Tok) (d a b : Reg) (nw : BitVec 1) (s : State) : Out := scalar2 1 maxVal tk d a b nw s
def execMinu (tk : Tok) (d a b : Reg) (nw : BitVec 1) (s : State) : Out := scalar2 1 minuVal tk d a b nw s
def execMaxu (tk : Tok) (d a b : Reg) (nw : BitVec 1) (s : State) : Out := scalar2 1 maxuVal tk d a b nw s
def execRotr (tk : Tok) (d a b : Reg) (nw : BitVec 1) (s : State) : Out := scalar2 1 rotrVal tk d a b nw s

/-! ### ALU2 (R76, R77) -/

def execMul (tk : Tok) (d a b : Reg) (nw : BitVec 1) (s : State) : Out := scalar2 3 mulVal tk d a b nw s
def execMulh (tk : Tok) (d a b : Reg) (nw : BitVec 1) (s : State) : Out := scalar2 3 mulhVal tk d a b nw s
def execMulhu (tk : Tok) (d a b : Reg) (nw : BitVec 1) (s : State) : Out := scalar2 3 mulhuVal tk d a b nw s
def execMadd (tk : Tok) (d a b : Reg) (nw : BitVec 1) (s : State) : Out := scalar3 3 maddVal tk d a b nw s
def execDiv (tk : Tok) (d a b : Reg) (nw : BitVec 1) (s : State) : Out := scalar2 18 divVal tk d a b nw s
def execDivu (tk : Tok) (d a b : Reg) (nw : BitVec 1) (s : State) : Out := scalar2 18 divuVal tk d a b nw s
def execRem (tk : Tok) (d a b : Reg) (nw : BitVec 1) (s : State) : Out := scalar2 18 remVal tk d a b nw s
def execRemu (tk : Tok) (d a b : Reg) (nw : BitVec 1) (s : State) : Out := scalar2 18 remuVal tk d a b nw s
def execClz (tk : Tok) (d a : Reg) (nw : BitVec 1) (s : State) : Out := scalar1 clzVal tk d a nw s
def execCtz (tk : Tok) (d a : Reg) (nw : BitVec 1) (s : State) : Out := scalar1 ctzVal tk d a nw s
def execPopc (tk : Tok) (d a : Reg) (nw : BitVec 1) (s : State) : Out := scalar1 popcVal tk d a nw s
def execBrev (tk : Tok) (d a : Reg) (nw : BitVec 1) (s : State) : Out := scalar1 brevVal tk d a nw s
def execBswp (tk : Tok) (d a : Reg) (nw : BitVec 1) (s : State) : Out := scalar1 bswpVal tk d a nw s
def execSelz (tk : Tok) (d a b : Reg) (nw : BitVec 1) (s : State) : Out := scalar3 1 selzVal tk d a b nw s

/-! ### Immediates (R78 to R80) -/

def execAddi (tk : Tok) (d a : Reg) (imm : BitVec 12) (s : State) : Out :=
  scalar1 (fun x => x + sx64 imm) tk d a 0 s
def execAndi (tk : Tok) (d a : Reg) (imm : BitVec 12) (s : State) : Out :=
  scalar1 (fun x => x &&& sx64 imm) tk d a 0 s
def execOri (tk : Tok) (d a : Reg) (imm : BitVec 12) (s : State) : Out :=
  scalar1 (fun x => x ||| sx64 imm) tk d a 0 s
def execXori (tk : Tok) (d a : Reg) (imm : BitVec 12) (s : State) : Out :=
  scalar1 (fun x => x ^^^ sx64 imm) tk d a 0 s
def execSlti (tk : Tok) (d a : Reg) (imm : BitVec 12) (s : State) : Out :=
  scalar1 (fun x => sltVal x (sx64 imm)) tk d a 0 s
def execSltiu (tk : Tok) (d a : Reg) (imm : BitVec 12) (s : State) : Out :=
  scalar1 (fun x => sltuVal x (sx64 imm)) tk d a 0 s
def execSlli (tk : Tok) (d a : Reg) (amt : BitVec 6) (s : State) : Out :=
  scalar1 (fun x => sllVal x (zx64 amt)) tk d a 0 s
def execSrli (tk : Tok) (d a : Reg) (amt : BitVec 6) (s : State) : Out :=
  scalar1 (fun x => srlVal x (zx64 amt)) tk d a 0 s
def execSrai (tk : Tok) (d a : Reg) (amt : BitVec 6) (s : State) : Out :=
  scalar1 (fun x => sraVal x (zx64 amt)) tk d a 0 s
def execLhi (tk : Tok) (d : Reg) (imm : BitVec 17) (s : State) : Out := scalar0 (fun _ => lhiVal imm) tk d s
def execLsi (tk : Tok) (d : Reg) (imm : BitVec 17) (s : State) : Out :=
  issue { legal := allStreams, srcs := [.x d.toNat], dsts := locX d } tk
    (fun s => landX s s.cur false d.toNat (lsiVal (readX (streamAt s s.cur) d.toNat) imm) 1) s
def execLpc (tk : Tok) (d : Reg) (imm : BitVec 17) (s : State) : Out :=
  scalar0 (fun s => zx64 (ringPc s s.cur ((streamAt s s.cur).pc.toNat + imm.toInt))) tk d s

/-! ### Branches, jumps and the loop (R81 to R84) -/

def execBeq (tk : Tok) (a b : Reg) (off : BitVec 9) (s : State) : Out := branch 0 tk a b off s
def execBne (tk : Tok) (a b : Reg) (off : BitVec 9) (s : State) : Out := branch 1 tk a b off s
def execBlt (tk : Tok) (a b : Reg) (off : BitVec 9) (s : State) : Out := branch 2 tk a b off s
def execBge (tk : Tok) (a b : Reg) (off : BitVec 9) (s : State) : Out := branch 3 tk a b off s
def execBltu (tk : Tok) (a b : Reg) (off : BitVec 9) (s : State) : Out := branch 4 tk a b off s
def execBgeu (tk : Tok) (a b : Reg) (off : BitVec 9) (s : State) : Out := branch 5 tk a b off s
def execBset (tk : Tok) (a b : Reg) (off : BitVec 9) (s : State) : Out := branch 6 tk a b off s
def execBclr (tk : Tok) (a b : Reg) (off : BitVec 9) (s : State) : Out := branch 7 tk a b off s

def execJ (tk : Tok) (off : BitVec 22) (s : State) : Out :=
  issue { legal := allStreams } tk
    (fun s => .done s { jump := some (ringPc s s.cur ((streamAt s s.cur).pc.toNat + off.toInt)) }) s
/-- The link lands in x26 and b0 at the slot where the target issues (R82). -/
def execJl (tk : Tok) (off : BitVec 22) (s : State) : Out :=
  issue { legal := allStreams, dsts := [.x 26] } tk
    (fun s =>
      let t := ringPc s s.cur ((streamAt s s.cur).pc.toNat + off.toInt)
      let link := zx64 (nextPc s s.cur)
      let (id, s) := landIn s s.cur [wX 26 link] (link.setWidth 2048) 1
      .done s { push := .landed id, jump := some t }) s
/-- JR does not wrap: a target outside the ring raises Ring Bounds (R83). DESIGN CHOICE (log entry 83): R83 names no
value for bytes 8 to 15 of that fault's entry, and the model writes 0. -/
def execJr (tk : Tok) (a : Reg) (imm : BitVec 12) (s : State) : Out :=
  issue { legal := allStreams, srcs := [.x a.toNat] } tk
    (fun s =>
      let t : Int := (readX (streamAt s s.cur) a.toNat).toInt + imm.toInt
      if t < 0 ∨ (ringSize s s.cur : Int) ≤ t then .fault s 0x05 0
      else .done s { jump := some (BitVec.ofNat 18 t.toNat) }) s
def execLoop (tk : Tok) (a : Reg) (imm : BitVec 12) (s : State) : Out :=
  issue { legal := allStreams, srcs := [.x a.toNat] } tk
    (fun s =>
      let st := streamAt s s.cur
      let sw := isSW s.cur
      let v := readX st a.toNat
      let n := if sw then fld v 27 0 else fld v 31 0
      let last := ringPc s s.cur (st.pc.toNat + imm.toInt)
      let l := mkLoop sw n (nextPc s s.cur).toNat last.toNat
      .done (modStream s s.cur fun st => { st with loop := l })
        { jump := if n = 0 then some (ringPc s s.cur (last.toNat + 1)) else none }) s

end Sys2Proof.Machine
end

