-- ==== Sys2Proof/Machine/Vector.lean ====
section
/-! DEFINITION. The vector instructions (R147 to R173). -/
namespace Sys2Proof.Machine

/-! ### Shared shapes -/

/-- VTYPE of the current stream as it issues. -/
def ctlOf (s : State) : VCtl := vctl (streamAt s s.cur).vtype
/-- Lane `i` is active under mask field `m` (R149). -/
def active (st : Stream) (m : BitVec 2) (i : Nat) : Bool := bitAt (readM st m.toNat) i
/-- Land one vector register under a bit mask. -/
def landV (s : State) (d : Reg) (v mask : VWord) (lat : Nat) : Res :=
  let (id, s) := landIn s s.cur [wV d.toNat v mask] v lat
  .done s { push := .landed id }
/-- A form that writes the active lanes of vd from a function of the stream and the lane (R149). A VTYPE that the
form does not take is a fault of its own description (R40 step 4). -/
def laneForm (illegal : VCtl → Bool) (srcs : List Src) (lat : Nat) (f : VCtl → Stream → Nat → Nat) (tk : Tok) (d : Reg)
    (m : BitVec 2) (s : State) : Out :=
  issue { legal := [2], srcs := srcs, dsts := [.v d.toNat] } tk
    (fun s =>
      let st := streamAt s s.cur
      let c := ctlOf s
      let n := tyBits c.ty
      if illegal c then .fault s 0x01 0 else
      landV s d (ofLanes n ((List.range (tyLanes c.ty)).map (f c st))) (laneMask n (active st m)) lat) s
/-- A form that writes every bit of vd. -/
def wholeForm (illegal : VCtl → Bool) (srcs : List Src) (lat : Nat) (f : VCtl → Stream → VWord) (tk : Tok) (d : Reg)
    (s : State) : Out :=
  issue { legal := [2], srcs := srcs, dsts := [.v d.toNat] } tk
    (fun s => if illegal (ctlOf s) then .fault s 0x01 0 else landV s d (f (ctlOf s) (streamAt s s.cur)) fullMask lat) s
def anyTy (_ : VCtl) : Bool := false
def notFlt (c : VCtl) : Bool := !isFlt c.ty
def notFp32 (c : VCtl) : Bool := c.ty != .flt fFP32
/-- Lane `i` of a vector field at VTYPE's width. -/
def vl (c : VCtl) (st : Stream) (r : Reg) (i : Nat) : Nat := lane (tyBits c.ty) (readV st r.toNat) i

/-! ### VCFG -/

def execVcfg (tk : Tok) (sat : BitVec 1) (rnd : BitVec 2) (ty : BitVec 4) (s : State) : Out :=
  issue { legal := [2] } tk
    (fun s => .done (modStream s s.cur fun st => { st with vtype := (sat ++ rnd ++ ty).setWidth 64 }) {}) s

/-! ### VARITH -/

def arith2 (op : VOp) (lat : Nat) (tk : Tok) (d a b : Reg) (m : BitVec 2) (s : State) : Out :=
  laneForm anyTy [.v a.toNat, .v b.toNat] lat (fun c st i => laneOp c op 0 (vl c st a i) (vl c st b i)) tk d m s
def arith1 (op : VOp) (tk : Tok) (d a : Reg) (m : BitVec 2) (s : State) : Out :=
  laneForm anyTy [.v a.toNat] 2 (fun c st i => laneOp c op 0 (vl c st a i) 0) tk d m s
def execVadd (tk : Tok) (d a b : Reg) (m : BitVec 2) (s : State) : Out := arith2 .add 2 tk d a b m s
def execVsub (tk : Tok) (d a b : Reg) (m : BitVec 2) (s : State) : Out := arith2 .sub 2 tk d a b m s
def execVmul (tk : Tok) (d a b : Reg) (m : BitVec 2) (s : State) : Out := arith2 .mul 3 tk d a b m s
def execVmac (tk : Tok) (d a b : Reg) (m : BitVec 2) (s : State) : Out :=
  laneForm anyTy [.v d.toNat, .v a.toNat, .v b.toNat] 4
    (fun c st i => laneOp c .mac (vl c st d i) (vl c st a i) (vl c st b i)) tk d m s
def execVmin (tk : Tok) (d a b : Reg) (m : BitVec 2) (s : State) : Out := arith2 .min 2 tk d a b m s
def execVmax (tk : Tok) (d a b : Reg) (m : BitVec 2) (s : State) : Out := arith2 .max 2 tk d a b m s
def execVadds (tk : Tok) (d a b : Reg) (m : BitVec 2) (s : State) : Out :=
  laneForm anyTy [.v a.toNat, .x b.toNat] 2
    (fun c st i => laneOp c .add 0 (vl c st a i) ((readX st b.toNat).toNat % 2 ^ tyBits c.ty)) tk d m s
def execVabs (tk : Tok) (d a : Reg) (m : BitVec 2) (s : State) : Out := arith1 .abs tk d a m s

/-! ### VLOGIC -/

def logic2 (op : VLog) (tk : Tok) (d a b : Reg) (m : BitVec 2) (s : State) : Out :=
  laneForm anyTy [.v a.toNat, .v b.toNat] 2 (fun c st i => laneLog (tyBits c.ty) op (vl c st a i) (vl c st b i)) tk d m s
def execVand (tk : Tok) (d a b : Reg) (m : BitVec 2) (s : State) : Out := logic2 .and tk d a b m s
def execVor (tk : Tok) (d a b : Reg) (m : BitVec 2) (s : State) : Out := logic2 .or tk d a b m s
def execVxor (tk : Tok) (d a b : Reg) (m : BitVec 2) (s : State) : Out := logic2 .xor tk d a b m s
def execVshl (tk : Tok) (d a b : Reg) (m : BitVec 2) (s : State) : Out := logic2 .shl tk d a b m s
def execVshr (tk : Tok) (d a b : Reg) (m : BitVec 2) (s : State) : Out := logic2 .shr tk d a b m s
def execVsra (tk : Tok) (d a b : Reg) (m : BitVec 2) (s : State) : Out := logic2 .sra tk d a b m s
def execVneg (tk : Tok) (d a : Reg) (m : BitVec 2) (s : State) : Out := arith1 .neg tk d a m s
/-- R159: the mask selects, and every lane is written. -/
def execVsel (tk : Tok) (d a b : Reg) (m : BitVec 2) (s : State) : Out :=
  wholeForm anyTy [.v a.toNat, .v b.toNat] 2
    (fun c st => ofLanes (tyBits c.ty) ((List.range (tyLanes c.ty)).map fun i =>
      if active st m i then vl c st a i else vl c st b i)) tk d s

/-! ### VCMP -/

/-- Land a mask register: every bit of it is written (R160). -/
def landM (s : State) (d : Reg) (bits : Nat → Bool) (n : Nat) : Res :=
  let v : VWord := BitVec.ofNat 2048 (packFields ((List.range n).map fun i => (1, (bits i).toNat)))
  let (id, s) := landIn s s.cur [{ loc := .m d.toNat, val := v, mask := fullMask }] v 2
  .done s { push := .landed id }
def compare2 (k : Nat) (tk : Tok) (d a b : Reg) (m : BitVec 2) (s : State) : Out :=
  issue { legal := [2], srcs := [.v a.toNat, .v b.toNat], dsts := [.m d.toNat] } tk
    (fun s =>
      let st := streamAt s s.cur
      let c := ctlOf s
      landM s d (fun i => active st m i && laneCmp c.ty k (vl c st a i) (vl c st b i)) (tyLanes c.ty)) s
def execVcmpeq (tk : Tok) (d a b : Reg) (m : BitVec 2) (s : State) : Out := compare2 0 tk d a b m s
def execVcmpne (tk : Tok) (d a b : Reg) (m : BitVec 2) (s : State) : Out := compare2 1 tk d a b m s
def execVcmplt (tk : Tok) (d a b : Reg) (m : BitVec 2) (s : State) : Out := compare2 2 tk d a b m s
def execVcmple (tk : Tok) (d a b : Reg) (m : BitVec 2) (s : State) : Out := compare2 3 tk d a b m s
def execVmsk (tk : Tok) (d a : Reg) (s : State) : Out :=
  issue { legal := [2], srcs := [.x a.toNat], dsts := [.m d.toNat] } tk
    (fun s =>
      let n := tyLanes (ctlOf s).ty
      let k := Nat.min (readX (streamAt s s.cur) a.toNat).toNat n
      landM s d (fun i => decide (i < k)) n) s

/-! ### VMATH -/

def math1 (k : Nat) (tk : Tok) (d a : Reg) (m : BitVec 2) (s : State) : Out :=
  laneForm notFlt [.v a.toNat] 8
    (fun c st i => match c.ty with
      | .flt f => fltOut c f (mathX k (fltVal f (vl c st a i)))
      | _ => 0) tk d m s
def execVexp2 (tk : Tok) (d a : Reg) (m : BitVec 2) (s : State) : Out := math1 0 tk d a m s
def execVlog2 (tk : Tok) (d a : Reg) (m : BitVec 2) (s : State) : Out := math1 1 tk d a m s
def execVrcp (tk : Tok) (d a : Reg) (m : BitVec 2) (s : State) : Out := math1 2 tk d a m s
def execVrsq (tk : Tok) (d a : Reg) (m : BitVec 2) (s : State) : Out := math1 3 tk d a m s
def execVsqrt (tk : Tok) (d a : Reg) (m : BitVec 2) (s : State) : Out := math1 4 tk d a m s

/-! ### VCONV -/

/-- VCVT (R163): b is the immediate, [4:3] part and [2:0] source type. DESIGN CHOICE (log entry 82): the spec gives
no moment at which VCNV is set, and the model sets it at issue. DESIGN CHOICE (log entry 109): source code 7 is Illegal Encoding
before the operand faults, and a part of ρ or more, which depends on VTYPE, after them. -/
def execVcvt (tk : Tok) (d a b : Reg) (m : BitVec 2) (s : State) : Out :=
  let src := vtyOf (fld b 2 0)
  let part := fld b 4 3
  issue { illegal := fld b 2 0 == 7, legal := [2], srcs := [.v a.toNat], dsts := [.v d.toNat] } tk
    (fun s =>
      let st := streamAt s s.cur
      let c := ctlOf s
      if !cvtOk src c.ty part then .fault s 0x01 0 else
      let n := tyBits c.ty
      let rs := ((cvtLanes src c.ty part).filter fun p => active st m p.2).map fun p =>
        (p.2, convElem c src (lane (tyBits src) (readV st a.toNat) p.1))
      let v := ofLanes n ((List.range (tyLanes c.ty)).map fun j => ((rs.find? fun r => r.1 == j).map fun r => r.2.1).getD 0)
      let s := if rs.any fun r => r.2.2 then modStream s s.cur fun st => { st with sstat := st.sstat ||| 0x200 } else s
      landV s d v (laneMask n fun j => rs.any fun r => r.1 == j) 4) s
/-- Land a pair of vector registers once; b0 takes the lower one (R29). -/
def landVPair (s : State) (d : Reg) (p : VWord × VWord) (lat : Nat) : Res :=
  let (id, s) := landIn s s.cur [wV d.toNat p.1 fullMask, wV (d.toNat + 1) p.2 fullMask] p.1 lat
  .done s { push := .landed id }
def execVpack (tk : Tok) (d a b : Reg) (s : State) : Out :=
  issue { legal := [2], srcs := [.vs a.toNat 2], dsts := [.v d.toNat, .v (d.toNat + 1)] } tk
    (fun s =>
      let st := streamAt s s.cur
      landVPair s d (vpackVal b.toNat (ctlOf s).rnd (readV st a.toNat) (readV st (a.toNat + 1))) 4) s
def execVunpk (tk : Tok) (d a b : Reg) (s : State) : Out :=
  issue { legal := [2], srcs := [.vs a.toNat 2], dsts := [.v d.toNat, .v (d.toNat + 1)] } tk
    (fun s =>
      let st := streamAt s s.cur
      landVPair s d (vunpkVal b.toNat (ctlOf s).rnd (readV st a.toNat) (readV st (a.toNat + 1))) 4) s
def execVplane (tk : Tok) (d a b : Reg) (s : State) : Out :=
  wholeForm anyTy [.v a.toNat] 6 (fun _ st => vplaneVal true b.toNat (readV st a.toNat)) tk d s
def execVunpl (tk : Tok) (d a b : Reg) (s : State) : Out :=
  wholeForm anyTy [.v a.toNat] 6 (fun _ st => vplaneVal false b.toNat (readV st a.toNat)) tk d s

/-! ### VRED -/

def execVrsum (tk : Tok) (d a : Reg) (m : BitVec 2) (s : State) : Out :=
  wholeForm anyTy [.v a.toNat] 6 (fun c st => vrsumVal c (active st m) (readV st a.toNat)) tk d s
def execVrmax (tk : Tok) (d a : Reg) (m : BitVec 2) (s : State) : Out :=
  wholeForm anyTy [.v a.toNat] 6 (fun c st => vrextVal c false (active st m) (readV st a.toNat)) tk d s
def execVrmin (tk : Tok) (d a : Reg) (m : BitVec 2) (s : State) : Out :=
  wholeForm anyTy [.v a.toNat] 6 (fun c st => vrextVal c true (active st m) (readV st a.toNat)) tk d s
def execVbsum (tk : Tok) (d a : Reg) (m : BitVec 2) (s : State) : Out :=
  wholeForm notFp32 [.v d.toNat, .v a.toNat] 6
    (fun _ st => vbsumVal (active st m) (readV st d.toNat) (readV st a.toNat)) tk d s
def execVbfin (tk : Tok) (d a : Reg) (s : State) : Out :=
  wholeForm notFp32 [.v a.toNat] 10 (fun c st => vbfinVal c.rnd (readV st a.toNat)) tk d s

/-! ### VPERM -/

def execVbcast (tk : Tok) (d a : Reg) (s : State) : Out :=
  wholeForm anyTy [.x a.toNat] 2
    (fun c st => ofLanes (tyBits c.ty) (List.replicate (tyLanes c.ty) (readX st a.toNat).toNat)) tk d s
/-- VEXT: sign-extended for the signed integer types only (R168). -/
def execVext (tk : Tok) (d a b : Reg) (s : State) : Out :=
  issue { legal := [2], srcs := [.v a.toNat, .x b.toNat], dsts := locX d } tk
    (fun s =>
      let st := streamAt s s.cur
      let c := ctlOf s
      let v := vl c st a ((readX st b.toNat).toNat % tyLanes c.ty)
      landX s s.cur false d.toNat (match c.ty with
        | .int true n => BitVec.ofInt 64 (signedOf n v)
        | _ => BitVec.ofNat 64 v) 2) s
def execVins (tk : Tok) (d a b : Reg) (s : State) : Out :=
  issue { legal := [2], srcs := [.x a.toNat, .x b.toNat], dsts := [.v d.toNat] } tk
    (fun s =>
      let st := streamAt s s.cur
      let c := ctlOf s
      let n := tyBits c.ty
      let k := (readX st b.toNat).toNat % tyLanes c.ty
      landV s d (ofLanes n (List.replicate (tyLanes c.ty) (readX st a.toNat).toNat)) (laneMask n fun i => i == k) 2) s
def execVslide (tk : Tok) (d a b : Reg) (m : BitVec 2) (s : State) : Out :=
  laneForm anyTy [.v a.toNat, .x b.toNat] 3
    (fun c st i =>
      let j : Int := i + (readX st b.toNat).toInt
      if 0 ≤ j ∧ j < tyLanes c.ty then vl c st a j.toNat else 0) tk d m s
def execVperm (tk : Tok) (d a b : Reg) (m : BitVec 2) (s : State) : Out :=
  laneForm anyTy [.v a.toNat, .v b.toNat] 3 (fun c st i => vl c st a (vl c st b i % tyLanes c.ty)) tk d m s

/-! ### VMEM -/

/-- Where each active lane's bytes lie: register of the group, lane, offset in the scratchpad, which may lie
outside it. -/
abbrev LaneAt := Nat × Nat × Int
/-- The lanes of a group of `g` registers at consecutive bytes (R169). -/
def laneRun (c : VCtl) (act : Nat → Bool) (g off : Nat) : List LaneAt :=
  let w := tyBits c.ty / 8
  (List.range g).flatMap fun k => ((List.range (tyLanes c.ty)).filter act).map fun i => (k, i, ((off + 256 * k + w * i : Nat) : Int))
/-- The lanes of one register at a displacement each. -/
def laneDisp (c : VCtl) (act : Nat → Bool) (off : Nat) (disp : Nat → Int) : List LaneAt :=
  ((List.range (tyLanes c.ty)).filter act).map fun i => (0, i, (off : Int) + disp i)
/-- The checks of R170 on single lanes, in the order of R90. DESIGN CHOICE (log entry 82): each check is made over all
lanes before the next, so a misaligned lane is reported before another lane's bounds. -/
def lanesCheck (s : State) (base : Word) (w : Nat) (ls : List LaneAt) (wr : Bool) : Option (BitVec 8) :=
  if fld base 63 24 ≠ 0 then some 0x23
  else if ls.any fun l => l.2.2 % (w : Int) != 0 then some 0x24
  else if ls.any fun l => decide (l.2.2 < 0 ∨ (scratchSize : Int) < l.2.2 + w) then some 0x10
  else if wr && ls.any fun l => codeHit s (spTarget (coreOf s.cur) base).1 l.2.2.toNat w then some 0x10
  else none
/-- Bytes that the lanes touch. -/
def laneRanges (t w : Nat) (ls : List LaneAt) : List Range := ls.map fun l => ⟨t, l.2.2.toNat, w⟩
/-- The register writes of a vector load, from a reader of one lane's bytes. -/
def laneWrites (d : Reg) (n g : Nat) (ls : List LaneAt) (rd : Nat → Nat) : List Write :=
  (List.range g).map fun k =>
    let mine := ls.filter fun l => l.1 == k
    let v := ofLanes n ((List.range (2048 / n)).map fun i =>
      ((mine.find? fun l => l.2.1 == i).map fun l => rd l.2.2.toNat).getD 0)
    wV (d.toNat + k) v (laneMask n fun i => mine.any fun l => l.2.1 == i)
/-- A vector load whose checks have passed: own at issue (R171), or a peer access. DESIGN CHOICE (log entry 108): a group load
from a peer is one outstanding write, as a pair is (R52, R206). -/
def vecLoad (s : State) (d : Reg) (base : Word) (g : Nat) (ls : List LaneAt) : Res :=
  let n := tyBits (ctlOf s).ty
  let w := n / 8
  let cid := coreOf s.cur
  let (t, peer) := spTarget cid base
  withSync s s.cur (laneRanges t w ls) [] fun s =>
    if peer then withRoom s fun s =>
      let bytes := ls.flatMap fun l => (List.range w).map fun j => (l.2.2.toNat + j, l.1, w * l.2.1 + j)
      sendLoad s s.cur ((List.range g).map fun k => .v (d.toNat + k)) { mkReq s s.cur (.peer t (.vload bytes)) with va := base }
    else
      let m := (coreAt s cid).scratch
      let (id, s) := landIn s s.cur (laneWrites d n g ls fun o => mnat m o w) 0 6
      .done s { push := .landed id }
/-- A vector store whose checks have passed: lanes in ascending order (R172). Its effect counts as performed at its issue
slot, a peer store's too, which is when its pushes may be made (R152). -/
def vecStore (s : State) (d : Reg) (base : Word) (ls : List LaneAt) : Res :=
  let n := tyBits (ctlOf s).ty
  let w := n / 8
  let cid := coreOf s.cur
  let (t, peer) := spTarget cid base
  let st := streamAt s s.cur
  let val (l : LaneAt) : List Byte := leBytes w (lane n (readV st (if d.toNat < 28 then d.toNat + l.1 else d.toNat)) l.2.1)
  withSync s s.cur [] (laneRanges t w ls) fun s =>
    if peer then
      let (_, s) := sendReq s { mkReq s s.cur (.peer t (.store (ls.flatMap fun l => offBytes l.2.2.toNat (val l)))) with va := base }
      .done s {}
    else .done (modCore s cid fun c =>
      { c with scratch := ls.foldl (fun m l => mwrite m l.2.2.toNat (val l)) c.scratch }) {}
def execVld (tk : Tok) (d a b : Reg) (w m : BitVec 2) (s : State) : Out :=
  let g := 2 ^ w.toNat
  issue { legal := [2], srcs := [.x a.toNat, .x b.toNat], dsts := (List.range g).map fun k => .v (d.toNat + k) } tk
    (fun s =>
      let st := streamAt s s.cur
      let p := readX st a.toNat + readX st b.toNat
      withCheck s (spCheck s (coreOf s.cur) p (256 * g) 64 false) p fun s =>
        vecLoad s d p g (laneRun (ctlOf s) (active st m) g (spOff p))) s
def execVst (tk : Tok) (d a b : Reg) (w m : BitVec 2) (s : State) : Out :=
  let g := 2 ^ w.toNat
  issue { legal := [2], srcs := [.vs d.toNat g, .x a.toNat, .x b.toNat] } tk
    (fun s =>
      let st := streamAt s s.cur
      let p := readX st a.toNat + readX st b.toNat
      withCheck s (spCheck s (coreOf s.cur) p (256 * g) 64 true) p fun s =>
        vecStore s d p (laneRun (ctlOf s) (active st m) g (spOff p))) s
/-- Lanes at a constant stride (VLDS, VSTS). -/
def strideLanes (s : State) (base : Word) (b : Reg) (m : BitVec 2) : List LaneAt :=
  let st := streamAt s s.cur
  laneDisp (ctlOf s) (active st m) (spOff base) fun i => (i : Int) * (readX st b.toNat).toInt
/-- Lanes at an index vector (VGTH, VSCT). -/
def indexLanes (s : State) (base : Word) (b : Reg) (m : BitVec 2) : List LaneAt :=
  let st := streamAt s s.cur
  let c := ctlOf s
  laneDisp c (active st m) (spOff base) fun i => ((vl c st b i * (tyBits c.ty / 8) : Nat) : Int)
/-- A load and a store of single lanes (R170). DESIGN CHOICE (log entry 83): the VA field of the fault of a lane is the base
address read(a), not the lane's. -/
def lanesLoad (srcB : Src) (f : State → Word → List LaneAt) (tk : Tok) (d a : Reg) (s : State) : Out :=
  issue { legal := [2], srcs := [.x a.toNat, srcB], dsts := [.v d.toNat] } tk
    (fun s =>
      let p := readX (streamAt s s.cur) a.toNat
      let ls := f s p
      withCheck s (lanesCheck s p (tyBits (ctlOf s).ty / 8) ls false) p fun s => vecLoad s d p 1 ls) s
def lanesStore (srcB : Src) (f : State → Word → List LaneAt) (tk : Tok) (d a : Reg) (s : State) : Out :=
  issue { legal := [2], srcs := [.v d.toNat, .x a.toNat, srcB] } tk
    (fun s =>
      let p := readX (streamAt s s.cur) a.toNat
      let ls := f s p
      withCheck s (lanesCheck s p (tyBits (ctlOf s).ty / 8) ls true) p fun s => vecStore s d p ls) s
def execVlds (tk : Tok) (d a b : Reg) (m : BitVec 2) (s : State) : Out :=
  lanesLoad (.x b.toNat) (fun s p => strideLanes s p b m) tk d a s
def execVsts (tk : Tok) (d a b : Reg) (m : BitVec 2) (s : State) : Out :=
  lanesStore (.x b.toNat) (fun s p => strideLanes s p b m) tk d a s
def execVgth (tk : Tok) (d a b : Reg) (m : BitVec 2) (s : State) : Out :=
  lanesLoad (.v b.toNat) (fun s p => indexLanes s p b m) tk d a s
def execVsct (tk : Tok) (d a b : Reg) (m : BitVec 2) (s : State) : Out :=
  lanesStore (.v b.toNat) (fun s p => indexLanes s p b m) tk d a s

end Sys2Proof.Machine
end

