-- ==== Sys2Proof/Machine/Dispatch.lean ====
section
/-! DEFINITION. The meaning of every instruction and step, one arm each. -/
namespace Sys2Proof.Machine

def exec (i : Instr) (s : State) : Host.Outcome State Fault Refusal :=
  match i with
  | .nop tk => Sys2Proof.Machine.execNop tk s
  | .trap tk code => Sys2Proof.Machine.execTrap tk code s
  | .safept tk imm => Sys2Proof.Machine.execSafept tk imm s
  | .endleg tk => Sys2Proof.Machine.execEndleg tk s
  | .waitl tk n => Sys2Proof.Machine.execWaitl tk n s
  | .eret => Sys2Proof.Machine.execEret s
  | .wfe => Sys2Proof.Machine.execWfe s
  | .tlbi kind r => Sys2Proof.Machine.execTlbi kind r s
  | .ipi n => Sys2Proof.Machine.execIpi n s
  | .csrr tk d num => Sys2Proof.Machine.execCsrr tk d num s
  | .csrw tk a num => Sys2Proof.Machine.execCsrw tk a num s
  | .add tk d a b w nw => Sys2Proof.Machine.execAdd tk d a b w nw s
  | .sub tk d a b w nw => Sys2Proof.Machine.execSub tk d a b w nw s
  | .and tk d a b w nw => Sys2Proof.Machine.execAnd tk d a b w nw s
  | .or tk d a b w nw => Sys2Proof.Machine.execOr tk d a b w nw s
  | .xor tk d a b w nw => Sys2Proof.Machine.execXor tk d a b w nw s
  | .andn tk d a b w nw => Sys2Proof.Machine.execAndn tk d a b w nw s
  | .sll tk d a b nw => Sys2Proof.Machine.execSll tk d a b nw s
  | .srl tk d a b nw => Sys2Proof.Machine.execSrl tk d a b nw s
  | .sra tk d a b nw => Sys2Proof.Machine.execSra tk d a b nw s
  | .slt tk d a b nw => Sys2Proof.Machine.execSlt tk d a b nw s
  | .sltu tk d a b nw => Sys2Proof.Machine.execSltu tk d a b nw s
  | .min tk d a b nw => Sys2Proof.Machine.execMin tk d a b nw s
  | .max tk d a b nw => Sys2Proof.Machine.execMax tk d a b nw s
  | .minu tk d a b nw => Sys2Proof.Machine.execMinu tk d a b nw s
  | .maxu tk d a b nw => Sys2Proof.Machine.execMaxu tk d a b nw s
  | .rotr tk d a b nw => Sys2Proof.Machine.execRotr tk d a b nw s
  | .mul tk d a b nw => Sys2Proof.Machine.execMul tk d a b nw s
  | .mulh tk d a b nw => Sys2Proof.Machine.execMulh tk d a b nw s
  | .mulhu tk d a b nw => Sys2Proof.Machine.execMulhu tk d a b nw s
  | .madd tk d a b nw => Sys2Proof.Machine.execMadd tk d a b nw s
  | .div tk d a b nw => Sys2Proof.Machine.execDiv tk d a b nw s
  | .divu tk d a b nw => Sys2Proof.Machine.execDivu tk d a b nw s
  | .rem tk d a b nw => Sys2Proof.Machine.execRem tk d a b nw s
  | .remu tk d a b nw => Sys2Proof.Machine.execRemu tk d a b nw s
  | .clz tk d a nw => Sys2Proof.Machine.execClz tk d a nw s
  | .ctz tk d a nw => Sys2Proof.Machine.execCtz tk d a nw s
  | .popc tk d a nw => Sys2Proof.Machine.execPopc tk d a nw s
  | .brev tk d a nw => Sys2Proof.Machine.execBrev tk d a nw s
  | .bswp tk d a nw => Sys2Proof.Machine.execBswp tk d a nw s
  | .selz tk d a b nw => Sys2Proof.Machine.execSelz tk d a b nw s
  | .addi tk d a imm => Sys2Proof.Machine.execAddi tk d a imm s
  | .andi tk d a imm => Sys2Proof.Machine.execAndi tk d a imm s
  | .ori tk d a imm => Sys2Proof.Machine.execOri tk d a imm s
  | .xori tk d a imm => Sys2Proof.Machine.execXori tk d a imm s
  | .slti tk d a imm => Sys2Proof.Machine.execSlti tk d a imm s
  | .sltiu tk d a imm => Sys2Proof.Machine.execSltiu tk d a imm s
  | .slli tk d a amt => Sys2Proof.Machine.execSlli tk d a amt s
  | .srli tk d a amt => Sys2Proof.Machine.execSrli tk d a amt s
  | .srai tk d a amt => Sys2Proof.Machine.execSrai tk d a amt s
  | .lhi tk d imm => Sys2Proof.Machine.execLhi tk d imm s
  | .lsi tk d imm => Sys2Proof.Machine.execLsi tk d imm s
  | .lpc tk d imm => Sys2Proof.Machine.execLpc tk d imm s
  | .beq tk a b off => Sys2Proof.Machine.execBeq tk a b off s
  | .bne tk a b off => Sys2Proof.Machine.execBne tk a b off s
  | .blt tk a b off => Sys2Proof.Machine.execBlt tk a b off s
  | .bge tk a b off => Sys2Proof.Machine.execBge tk a b off s
  | .bltu tk a b off => Sys2Proof.Machine.execBltu tk a b off s
  | .bgeu tk a b off => Sys2Proof.Machine.execBgeu tk a b off s
  | .bset tk a b off => Sys2Proof.Machine.execBset tk a b off s
  | .bclr tk a b off => Sys2Proof.Machine.execBclr tk a b off s
  | .j tk off => Sys2Proof.Machine.execJ tk off s
  | .jl tk off => Sys2Proof.Machine.execJl tk off s
  | .jr tk a imm => Sys2Proof.Machine.execJr tk a imm s
  | .loop tk a imm => Sys2Proof.Machine.execLoop tk a imm s
  | .ld tk d a off sz => Sys2Proof.Machine.execLd tk d a off sz s
  | .ldu tk d a off sz => Sys2Proof.Machine.execLdu tk d a off sz s
  | .st tk d a off sz => Sys2Proof.Machine.execSt tk d a off sz s
  | .spld tk d a off sz => Sys2Proof.Machine.execSpld tk d a off sz s
  | .spldu tk d a off sz => Sys2Proof.Machine.execSpldu tk d a off sz s
  | .spst tk d a off sz => Sys2Proof.Machine.execSpst tk d a off sz s
  | .aadd tk a b scope sz => Sys2Proof.Machine.execAadd tk a b scope sz s
  | .aswp tk a b scope sz => Sys2Proof.Machine.execAswp tk a b scope sz s
  | .acas tk a b scope sz => Sys2Proof.Machine.execAcas tk a b scope sz s
  | .aand tk a b scope sz => Sys2Proof.Machine.execAand tk a b scope sz s
  | .aor tk a b scope sz => Sys2Proof.Machine.execAor tk a b scope sz s
  | .axor tk a b scope sz => Sys2Proof.Machine.execAxor tk a b scope sz s
  | .amax tk a b scope sz => Sys2Proof.Machine.execAmax tk a b scope sz s
  | .amin tk a b scope sz => Sys2Proof.Machine.execAmin tk a b scope sz s
  | .amaxu tk a b scope sz => Sys2Proof.Machine.execAmaxu tk a b scope sz s
  | .aminu tk a b scope sz => Sys2Proof.Machine.execAminu tk a b scope sz s
  | .aincw tk a b scope sz => Sys2Proof.Machine.execAincw tk a b scope sz s
  | .afab tk a b scope sz => Sys2Proof.Machine.execAfab tk a b scope sz s
  | .dacc tk a b scope => Sys2Proof.Machine.execDacc tk a b scope s
  | .drd tk a b scope => Sys2Proof.Machine.execDrd tk a b scope s
  | .dclr tk a b scope => Sys2Proof.Machine.execDclr tk a b scope s
  | .fenceAcq tk scope => Sys2Proof.Machine.execFenceAcq tk scope s
  | .fenceRel tk scope => Sys2Proof.Machine.execFenceRel tk scope s
  | .fenceAr tk scope => Sys2Proof.Machine.execFenceAr tk scope s
  | .fenceSc tk scope => Sys2Proof.Machine.execFenceSc tk scope s
  | .fenceBw tk scope => Sys2Proof.Machine.execFenceBw tk scope s
  | .fenceBr tk scope => Sys2Proof.Machine.execFenceBr tk scope s
  | .sinc tk sem a t => Sys2Proof.Machine.execSinc tk sem a t s
  | .sacq tk sem n => Sys2Proof.Machine.execSacq tk sem n s
  | .swait tk sem n => Sys2Proof.Machine.execSwait tk sem n s
  | .sset tk sem a => Sys2Proof.Machine.execSset tk sem a s
  | .srd tk sem a t => Sys2Proof.Machine.execSrd tk sem a t s
  | .sincw tk sem a t => Sys2Proof.Machine.execSincw tk sem a t s
  | .sfab tk sem a t => Sys2Proof.Machine.execSfab tk sem a t s
  | .rcfg tk ring a => Sys2Proof.Machine.execRcfg tk ring a s
  | .rclaim tk ring d => Sys2Proof.Machine.execRclaim tk ring d s
  | .rpub tk ring a => Sys2Proof.Machine.execRpub tk ring a s
  | .rwaitf tk ring d => Sys2Proof.Machine.execRwaitf tk ring d s
  | .rfree tk ring => Sys2Proof.Machine.execRfree tk ring s
  | .rwaite tk ring => Sys2Proof.Machine.execRwaite tk ring s
  | .rpopo tk ring d => Sys2Proof.Machine.execRpopo tk ring d s
  | .rsteal tk ring d t => Sys2Proof.Machine.execRsteal tk ring d t s
  | .rstat tk ring d t => Sys2Proof.Machine.execRstat tk ring d t s
  | .wminit tk d a b => Sys2Proof.Machine.execWminit tk d a b s
  | .wmarrive tk a => Sys2Proof.Machine.execWmarrive tk a s
  | .wmexpect tk a b => Sys2Proof.Machine.execWmexpect tk a b s
  | .wmwait tk a b => Sys2Proof.Machine.execWmwait tk a b s
  | .wmtest tk d a => Sys2Proof.Machine.execWmtest tk d a s
  | .cpy tk d a b k => Sys2Proof.Machine.execCpy tk d a b k s
  | .tld tk d a b k => Sys2Proof.Machine.execTld tk d a b k s
  | .tst tk d a b k => Sys2Proof.Machine.execTst tk d a b k s
  | .tldm tk d a b k => Sys2Proof.Machine.execTldm tk d a b k s
  | .pft tk a b k => Sys2Proof.Machine.execPft tk a b k s
  | .mig tk a b k => Sys2Proof.Machine.execMig tk a b k s
  | .waitseq tk a => Sys2Proof.Machine.execWaitseq tk a s
  | .pred tk a b bv av => Sys2Proof.Machine.execPred tk a b bv av s
  | .drain tk p => Sys2Proof.Machine.execDrain tk p s
  | .spawn tk a => Sys2Proof.Machine.execSpawn tk a s
  | .joinw tk d a => Sys2Proof.Machine.execJoinw tk d a s
  | .gsync tk a => Sys2Proof.Machine.execGsync tk a s
  | .cbar tk n => Sys2Proof.Machine.execCbar tk n s
  | .scpw tk d a b => Sys2Proof.Machine.execScpw tk d a b s
  | .scpr tk d a b => Sys2Proof.Machine.execScpr tk d a b s
  | .scpinv tk d a => Sys2Proof.Machine.execScpinv tk d a s
  | .bcfg tk a b => Sys2Proof.Machine.execBcfg tk a b s
  | .bgemv tk b => Sys2Proof.Machine.execBgemv tk b s
  | .bgemva tk b => Sys2Proof.Machine.execBgemva tk b s
  | .csnd tk a b => Sys2Proof.Machine.execCsnd tk a b s
  | .crcv tk d a => Sys2Proof.Machine.execCrcv tk d a s
  | .platr tk d a b => Sys2Proof.Machine.execPlatr tk d a b s
  | .platw tk d a b => Sys2Proof.Machine.execPlatw tk d a b s
  | .replat tk a b => Sys2Proof.Machine.execReplat tk a b s
  | .bndcfg tk a b => Sys2Proof.Machine.execBndcfg tk a b s
  | .bndx tk a b => Sys2Proof.Machine.execBndx tk a b s
  | .gmc tk a b => Sys2Proof.Machine.execGmc tk a b s
  | .seatmap tk a => Sys2Proof.Machine.execSeatmap tk a s
  | .trld tk d a b => Sys2Proof.Machine.execTrld tk d a b s
  | .trset tk a b => Sys2Proof.Machine.execTrset tk a b s
  | .stepend tk a => Sys2Proof.Machine.execStepend tk a s
  | .kvmap tk d a => Sys2Proof.Machine.execKvmap tk d a s
  | .kvapp tk b => Sys2Proof.Machine.execKvapp tk b s
  | .digest tk a b => Sys2Proof.Machine.execDigest tk a b s
  | .mcfg tk t a b => Sys2Proof.Machine.execMcfg tk t a b s
  | .mdat tk t a => Sys2Proof.Machine.execMdat tk t a s
  | .mclr tk t neg => Sys2Proof.Machine.execMclr tk t neg s
  | .mma tk t a b scl rag => Sys2Proof.Machine.execMma tk t a b scl rag s
  | .mmaz tk t a b scl rag => Sys2Proof.Machine.execMmaz tk t a b scl rag s
  | .mmas tk t a b scl rag => Sys2Proof.Machine.execMmas tk t a b scl rag s
  | .matt tk t b first => Sys2Proof.Machine.execMatt tk t b first s
  | .msmx tk t a => Sys2Proof.Machine.execMsmx tk t a s
  | .mrd tk t a out norm => Sys2Proof.Machine.execMrd tk t a out norm s
  | .macc tk t a => Sys2Proof.Machine.execMacc tk t a s
  | .mstat tk t a => Sys2Proof.Machine.execMstat tk t a s
  | .vcfg tk sat rnd ty => Sys2Proof.Machine.execVcfg tk sat rnd ty s
  | .vadd tk d a b m => Sys2Proof.Machine.execVadd tk d a b m s
  | .vsub tk d a b m => Sys2Proof.Machine.execVsub tk d a b m s
  | .vmul tk d a b m => Sys2Proof.Machine.execVmul tk d a b m s
  | .vmac tk d a b m => Sys2Proof.Machine.execVmac tk d a b m s
  | .vmin tk d a b m => Sys2Proof.Machine.execVmin tk d a b m s
  | .vmax tk d a b m => Sys2Proof.Machine.execVmax tk d a b m s
  | .vadds tk d a b m => Sys2Proof.Machine.execVadds tk d a b m s
  | .vabs tk d a m => Sys2Proof.Machine.execVabs tk d a m s
  | .vand tk d a b m => Sys2Proof.Machine.execVand tk d a b m s
  | .vor tk d a b m => Sys2Proof.Machine.execVor tk d a b m s
  | .vxor tk d a b m => Sys2Proof.Machine.execVxor tk d a b m s
  | .vshl tk d a b m => Sys2Proof.Machine.execVshl tk d a b m s
  | .vshr tk d a b m => Sys2Proof.Machine.execVshr tk d a b m s
  | .vsra tk d a b m => Sys2Proof.Machine.execVsra tk d a b m s
  | .vneg tk d a m => Sys2Proof.Machine.execVneg tk d a m s
  | .vsel tk d a b m => Sys2Proof.Machine.execVsel tk d a b m s
  | .vcmpeq tk d a b m => Sys2Proof.Machine.execVcmpeq tk d a b m s
  | .vcmpne tk d a b m => Sys2Proof.Machine.execVcmpne tk d a b m s
  | .vcmplt tk d a b m => Sys2Proof.Machine.execVcmplt tk d a b m s
  | .vcmple tk d a b m => Sys2Proof.Machine.execVcmple tk d a b m s
  | .vmsk tk d a => Sys2Proof.Machine.execVmsk tk d a s
  | .vexp2 tk d a m => Sys2Proof.Machine.execVexp2 tk d a m s
  | .vlog2 tk d a m => Sys2Proof.Machine.execVlog2 tk d a m s
  | .vrcp tk d a m => Sys2Proof.Machine.execVrcp tk d a m s
  | .vrsq tk d a m => Sys2Proof.Machine.execVrsq tk d a m s
  | .vsqrt tk d a m => Sys2Proof.Machine.execVsqrt tk d a m s
  | .vcvt tk d a b m => Sys2Proof.Machine.execVcvt tk d a b m s
  | .vpack tk d a b => Sys2Proof.Machine.execVpack tk d a b s
  | .vunpk tk d a b => Sys2Proof.Machine.execVunpk tk d a b s
  | .vplane tk d a b => Sys2Proof.Machine.execVplane tk d a b s
  | .vunpl tk d a b => Sys2Proof.Machine.execVunpl tk d a b s
  | .vrsum tk d a m => Sys2Proof.Machine.execVrsum tk d a m s
  | .vrmax tk d a m => Sys2Proof.Machine.execVrmax tk d a m s
  | .vrmin tk d a m => Sys2Proof.Machine.execVrmin tk d a m s
  | .vbsum tk d a m => Sys2Proof.Machine.execVbsum tk d a m s
  | .vbfin tk d a => Sys2Proof.Machine.execVbfin tk d a s
  | .vbcast tk d a => Sys2Proof.Machine.execVbcast tk d a s
  | .vext tk d a b => Sys2Proof.Machine.execVext tk d a b s
  | .vins tk d a b => Sys2Proof.Machine.execVins tk d a b s
  | .vslide tk d a b m => Sys2Proof.Machine.execVslide tk d a b m s
  | .vperm tk d a b m => Sys2Proof.Machine.execVperm tk d a b m s
  | .vld tk d a b w m => Sys2Proof.Machine.execVld tk d a b w m s
  | .vst tk d a b w m => Sys2Proof.Machine.execVst tk d a b w m s
  | .vlds tk d a b m => Sys2Proof.Machine.execVlds tk d a b m s
  | .vsts tk d a b m => Sys2Proof.Machine.execVsts tk d a b m s
  | .vgth tk d a b m => Sys2Proof.Machine.execVgth tk d a b m s
  | .vsct tk d a b m => Sys2Proof.Machine.execVsct tk d a b m s
  | .resultLanding sid => Sys2Proof.Machine.execResultLanding sid s
  | .variableLatencyWrite sid id => Sys2Proof.Machine.execVariableLatencyWrite sid id s
  | .tokenPush cid k => Sys2Proof.Machine.execTokenPush cid k s
  | .peerAccept req => Sys2Proof.Machine.execPeerAccept req s
  | .porterSector cid seq => Sys2Proof.Machine.execPorterSector cid seq s
  | .commandRetire cid seq => Sys2Proof.Machine.execCommandRetire cid seq s
  | .storePerform req => Sys2Proof.Machine.execStorePerform req s
  | .atomicPerform req => Sys2Proof.Machine.execAtomicPerform req s
  | .l1Fill req => Sys2Proof.Machine.execL1Fill req s
  | .translationWalk sid ctx va => Sys2Proof.Machine.execTranslationWalk sid ctx va s
  | .faultEntryPost die => Sys2Proof.Machine.execFaultEntryPost die s
  | .resolveRetry die seq => Sys2Proof.Machine.execResolveRetry die seq s
  | .resolveKill die seq => Sys2Proof.Machine.execResolveKill die seq s
  | .resolveSeat die seq => Sys2Proof.Machine.execResolveSeat die seq s
  | .gangResume die gang => Sys2Proof.Machine.execGangResume die gang s
  | .legEnd die gang => Sys2Proof.Machine.execLegEnd die gang s
  | .dispatcherRun die => Sys2Proof.Machine.execDispatcherRun die s
  | .legStart die gang => Sys2Proof.Machine.execLegStart die gang s
  | .caravanStart => Sys2Proof.Machine.execCaravanStart s
  | .scheduleCounterTick die gang => Sys2Proof.Machine.execScheduleCounterTick die gang s
  | .dtickTick die => Sys2Proof.Machine.execDtickTick die s
  | .ptickTick => Sys2Proof.Machine.execPtickTick s
  | .stickTick => Sys2Proof.Machine.execStickTick s
  | .slotCounterAdvance die => Sys2Proof.Machine.execSlotCounterAdvance die s
  | .preemptWrite die v => Sys2Proof.Machine.execPreemptWrite die v s
  | .preemptSave die gang => Sys2Proof.Machine.execPreemptSave die gang s
  | .forcedFullSave die gang => Sys2Proof.Machine.execForcedFullSave die gang s
  | .sendTableWrite die core slot v => Sys2Proof.Machine.execSendTableWrite die core slot v s
  | .sendTableActivate die => Sys2Proof.Machine.execSendTableActivate die s
  | .circuitArrival die k => Sys2Proof.Machine.execCircuitArrival die k s
  | .creditReturn die k => Sys2Proof.Machine.execCreditReturn die k s
  | .carveWrite die slice v => Sys2Proof.Machine.execCarveWrite die slice v s
  | .formatWindowWrite die n r v => Sys2Proof.Machine.execFormatWindowWrite die n r v s
  | .keySlotWrite die k v => Sys2Proof.Machine.execKeySlotWrite die k v s
  | .errstatWrite die v => Sys2Proof.Machine.execErrstatWrite die v s
  | .exstatWrite die v => Sys2Proof.Machine.execExstatWrite die v s
  | .scratchpadWindowWrite cid off v => Sys2Proof.Machine.execScratchpadWindowWrite cid off v s
  | .lqtailWrite die q v => Sys2Proof.Machine.execLqtailWrite die q v s
  | .lqctlWrite die q v => Sys2Proof.Machine.execLqctlWrite die q v s
  | .registerWrite who pa v => Sys2Proof.Machine.execRegisterWrite who pa v s
  | .linkDown die link => Sys2Proof.Machine.execLinkDown die link s
  | .linkTrain die link => Sys2Proof.Machine.execLinkTrain die link s
  | .linkUp die link => Sys2Proof.Machine.execLinkUp die link s
  | .linkTrainTimeout die link => Sys2Proof.Machine.execLinkTrainTimeout die link s
  | .routerPacket k => Sys2Proof.Machine.execRouterPacket k s
  | .packetAgeExpiry k => Sys2Proof.Machine.execPacketAgeExpiry k s
  | .flitSend io link => Sys2Proof.Machine.execFlitSend io link s
  | .flitReceive io link flit => Sys2Proof.Machine.execFlitReceive io link flit s
  | .nakReceive io link count => Sys2Proof.Machine.execNakReceive io link count s
  | .ackReceive io link count => Sys2Proof.Machine.execAckReceive io link count s
  | .switchWrite io link v => Sys2Proof.Machine.execSwitchWrite io link v s
  | .linkKeyWrite io link next key => Sys2Proof.Machine.execLinkKeyWrite io link next key s
  | .retransmitTimeout req => Sys2Proof.Machine.execRetransmitTimeout req s
  | .trackedRequest src seq fn pa n v v2 => Sys2Proof.Machine.execTrackedRequest src seq fn pa n v v2 s
  | .trackedResponse req v => Sys2Proof.Machine.execTrackedResponse req v s
  | .fabcfgWrite v => Sys2Proof.Machine.execFabcfgWrite v s
  | .stewardHalt io n => Sys2Proof.Machine.execStewardHalt io n s
  | .stewardResume io n => Sys2Proof.Machine.execStewardResume io n s
  | .dbell io v => Sys2Proof.Machine.execDbell io v s
  | .msiraise io v => Sys2Proof.Machine.execMsiraise io v s
  | .msixUnmask link vec => Sys2Proof.Machine.execMsixUnmask link vec s
  | .csemRead master n => Sys2Proof.Machine.execCsemRead master n s
  | .csemWrite master n => Sys2Proof.Machine.execCsemWrite master n s
  | .hostLinkReset link => Sys2Proof.Machine.execHostLinkReset link s
  | .hostLinkTrained link cxl => Sys2Proof.Machine.execHostLinkTrained link cxl s
  | .hostAccess link at_ n wr v => Sys2Proof.Machine.execHostAccess link at_ n wr v s
  | .snapshotTrigger src => Sys2Proof.Machine.execSnapshotTrigger src s
  | .snapshotRelease => Sys2Proof.Machine.execSnapshotRelease s
  | .snapshotTickMatch => Sys2Proof.Machine.execSnapshotTickMatch s
  | .snapshotLatch => Sys2Proof.Machine.execSnapshotLatch s
  | .thermalThrottle die => Sys2Proof.Machine.execThermalThrottle die s
  | .thermalTrip => Sys2Proof.Machine.execThermalTrip s
  | .powerOn => Sys2Proof.Machine.execPowerOn s
  | .bootgo => Sys2Proof.Machine.execBootgo s
  | .reportgo => Sys2Proof.Machine.execReportgo s
  | .dieJoin die => Sys2Proof.Machine.execDieJoin die s
  | .dieJoinComplete die => Sys2Proof.Machine.execDieJoinComplete die s
  | .dieJoinFail die => Sys2Proof.Machine.execDieJoinFail die s
  | .dieLeave die => Sys2Proof.Machine.execDieLeave die s
  | .dieDone die => Sys2Proof.Machine.execDieDone die s
  | .dieFailed die => Sys2Proof.Machine.execDieFailed die s
  | .netSend io ring => Sys2Proof.Machine.execNetSend io ring s
  | .netReceive io ring frame => Sys2Proof.Machine.execNetReceive io ring frame s
  | .storageRead io ring data => Sys2Proof.Machine.execStorageRead io ring data s
  | .storageWrite io ring => Sys2Proof.Machine.execStorageWrite io ring s
  | .storageFlush io ring => Sys2Proof.Machine.execStorageFlush io ring s
  | .coachSubmission => Sys2Proof.Machine.execCoachSubmission s
  | .coachBoundary => Sys2Proof.Machine.execCoachBoundary s
  | .verdictConcur step => Sys2Proof.Machine.execVerdictConcur step s
  | .verdictDissent step => Sys2Proof.Machine.execVerdictDissent step s
  | .cmdEvict slot => Sys2Proof.Machine.execCmdEvict slot s
  | .cmdPark slot => Sys2Proof.Machine.execCmdPark slot s
  | .cmdUnpark slot => Sys2Proof.Machine.execCmdUnpark slot s
  | .cmdRelease slot => Sys2Proof.Machine.execCmdRelease slot s
  | .warmReset => Sys2Proof.Machine.execWarmReset s
  | .kvLendRequest die => Sys2Proof.Machine.execKvLendRequest die s
  | .kvLendReply die => Sys2Proof.Machine.execKvLendReply die s
  | .boundsCommandStart cid seq => Sys2Proof.Machine.execBoundsCommandStart cid seq s
  | .gmcDelivery k => Sys2Proof.Machine.execGmcDelivery k s
  | .mcastGroupWrite g r v => Sys2Proof.Machine.execMcastGroupWrite g r v s
  | .replatRendezvous k => Sys2Proof.Machine.execReplatRendezvous k s
  | .replatStep k die => Sys2Proof.Machine.execReplatStep k die s
  | .replatRetire k => Sys2Proof.Machine.execReplatRetire k s
  | .scopeUpdateRetire k => Sys2Proof.Machine.execScopeUpdateRetire k s
  | .platwRetire k => Sys2Proof.Machine.execPlatwRetire k s
  | .migPageComplete die k tick => Sys2Proof.Machine.execMigPageComplete die k tick s
  | .uncorrectableError cid pa => Sys2Proof.Machine.execUncorrectableError cid pa s
  | .ueOutsideGang die pa => Sys2Proof.Machine.execUeOutsideGang die pa s
  | .softErrorCorrected die => Sys2Proof.Machine.execSoftErrorCorrected die s
  | .throttlingEnd die => Sys2Proof.Machine.execThrottlingEnd die s

end Sys2Proof.Machine
end

