-- ==== Sys2Proof/Machine/Step.lean ====
section
/-! DEFINITION. One move of the package (log entry 1), and the placing of a word where it fetches. -/
namespace Sys2Proof.Machine

/-- One move: the next turn of the agenda, or of the free schedule; legs that an uncorrectable error ended in it stop. -/
def step (s : State) : Out :=
  match nextTurn s with
  | (.issue sid, s) => swept (issueTurn exec holdTurn sid s)
  | (.event e, s) => swept (eventTurn exec e s)

/-- `s` with a table word stored where the next move fetches it (log entry 6). -/
def State.withFetchWord (s : State) (nbits w : Nat) : State :=
  if nbits ≤ 32 then placeWord s (BitVec.ofNat 32 w) else s

end Sys2Proof.Machine
end

