-- ==== Sys2Proof/Safety.lean ====
section
/-! DEFINITION. The terms in which the statements speak: when a word may issue (R40), the state at its issue, what its issue
leaves, frames, and the invariant of memory. -/
namespace Sys2Proof.Machine

/-- Memory is in its one canonical form. -/
def Canonical (s : State) : Prop := s.mem.wf = true

/-- The issuing stream's landings due at its slot are in (R50). -/
def landed (s : State) : State := modStream s s.cur landDue
/-- The same for a waiting form, once it is reached (R207). -/
def reached (s : State) : State := reach (landed s) s.cur
/-- The state a form's own checks and effect start from: its pops are taken (R14). -/
def popped (s : State) (tk : Tok) : State := takePops (landed s) s.cur tk
/-- The scalar value of a field at issue (R24 to R26, R50). -/
def operand (s : State) (r : Reg) : Word := readX (streamAt (landed s) s.cur) r.toNat
/-- The vector value of a field at issue. -/
def voperand (s : State) (r : Reg) : VWord := readV (streamAt (landed s) s.cur) r.toNat
/-- The issuing stream, with its landings. -/
def me (s : State) : Stream := streamAt (landed s) s.cur

/-- A word of the issuing stream passes the checks of R40 and does not wait: the stream may issue, on a stream of `legal`;
every queue it pops holds a token and every queue it pushes has a place; no source field faults; no destination has an
outstanding write, and there is room for one more if it adds one. -/
def mayIssue (s : State) (tk : Tok) (legal : List Nat) (srcs : List Src) (dsts : List Loc) (var : Bool := false) : Bool :=
  canIssue s s.cur && !(isSW s.cur && tk != 0) && legal.contains (kindOf s.cur) && tokensReady (landed s) s.cur tk &&
    (srcsFault (me s) srcs).isNone && !(dsts.any (pending (me s))) && !(var && decide (32 ≤ (me s).outst.length))

/-- A scalar result lands after `lat` slots, and the word retires (R15, R50). -/
def landing (s : State) (tk : Tok) (nw : Bool) (d : Reg) (v : Word) (lat : Nat) : State :=
  let (id, t) := landIn (popped s tk) s.cur (if nw then [] else [wX d.toNat v]) (v.setWidth 2048) lat
  retire (landed s) t s.cur tk { push := .landed id }

/-- Nothing but the issuing stream, its core's queues and records, and what a pop acquires has changed: memory, every other
stream, every other core, dies, gangs, registers of the Atlas, Stewards and every unit of the package are as they were. -/
def LocalFrame (s t : State) : Prop :=
  t.mem = s.mem ∧ t.dram = s.dram ∧ t.keyTags = s.keyTags ∧ t.atlas = s.atlas ∧ t.dies = s.dies ∧ t.gangs = s.gangs ∧
  t.stewards = s.stewards ∧ t.swTlb = s.swTlb ∧ t.scopes = s.scopes ∧ t.plats = s.plats ∧ t.coach = s.coach ∧
  t.requests = s.requests ∧ t.packets = s.packets ∧ t.trunks = s.trunks ∧ t.hostOut = s.hostOut ∧
  (∀ i, i ≠ s.cur → streamAt t i = streamAt s i) ∧ (∀ c, c ≠ coreOf s.cur → coreAt t c = coreAt s c) ∧
  (coreAt t (coreOf s.cur)).scratch = (coreAt s (coreOf s.cur)).scratch ∧
  (coreAt t (coreOf s.cur)).tiles = (coreAt s (coreOf s.cur)).tiles ∧
  (coreAt t (coreOf s.cur)).sems = (coreAt s (coreOf s.cur)).sems ∧
  (coreAt t (coreOf s.cur)).rings = (coreAt s (coreOf s.cur)).rings ∧
  (coreAt t (coreOf s.cur)).cmds = (coreAt s (coreOf s.cur)).cmds ∧
  (coreAt t (coreOf s.cur)).seq = (coreAt s (coreOf s.cur)).seq

end Sys2Proof.Machine
end

