-- ==== Sys2Proof/Certificates/Slice0/Obligations.lean ====
section
/-! DEFINITION. The statements for the provers. An equation `exec i s = .next t` is also the frame of the instruction: `t` is
written out from `s` by the operations named in it, and what they do not name is as in `s`; the frames of those operations
have statements of their own. -/

namespace Sys2Proof.Claims
end Sys2Proof.Claims

open Sys2Proof Sys2Proof.Machine Sys2Proof.Claims

/-! ### Scalar forms (chapter 04) -/

/-- An ALU or ALU2 form of two sources: the instruction, its latency (R51), its result (R73, R76, R77) as the spec writes it. -/
structure Sys2Proof.Claims.Alu2 where
  ins : Tok → Reg → Reg → Reg → BitVec 1 → Instr
  lat : Nat
  val : Word → Word → Word

/-- The two-source forms at 64 bits, with the amount of a shift in bits [5:0] and the division corners of R77. -/
def Sys2Proof.Claims.alu2Forms : List Alu2 :=
  [⟨.sll, 1, fun a b => a <<< (b.toNat % 64)⟩, ⟨.srl, 1, fun a b => a >>> (b.toNat % 64)⟩,
   ⟨.sra, 1, fun a b => a.sshiftRight (b.toNat % 64)⟩,
   ⟨.slt, 1, fun a b => if a.toInt < b.toInt then 1 else 0⟩, ⟨.sltu, 1, fun a b => if a.toNat < b.toNat then 1 else 0⟩,
   ⟨.min, 1, fun a b => if a.toInt < b.toInt then a else b⟩, ⟨.max, 1, fun a b => if b.toInt < a.toInt then a else b⟩,
   ⟨.minu, 1, fun a b => if a.toNat < b.toNat then a else b⟩, ⟨.maxu, 1, fun a b => if b.toNat < a.toNat then a else b⟩,
   ⟨.rotr, 1, fun a b => a.rotateRight (b.toNat % 64)⟩,
   ⟨.mul, 3, fun a b => BitVec.ofInt 64 (a.toInt * b.toInt)⟩,
   ⟨.mulh, 3, fun a b => BitVec.ofInt 64 (a.toInt * b.toInt / 2 ^ 64)⟩,
   ⟨.mulhu, 3, fun a b => BitVec.ofNat 64 (a.toNat * b.toNat / 2 ^ 64)⟩,
   ⟨.div, 18, fun a b => if b = 0 then BitVec.allOnes 64 else BitVec.ofInt 64 (a.toInt.tdiv b.toInt)⟩,
   ⟨.divu, 18, fun a b => if b = 0 then BitVec.allOnes 64 else BitVec.ofNat 64 (a.toNat / b.toNat)⟩,
   ⟨.rem, 18, fun a b => if b = 0 then a else BitVec.ofInt 64 (a.toInt.tmod b.toInt)⟩,
   ⟨.remu, 18, fun a b => if b = 0 then a else BitVec.ofNat 64 (a.toNat % b.toNat)⟩]

/-- R73, R76, R77, R51: SLL SRL SRA SLT SLTU MIN MAX MINU MAXU ROTR MUL MULH MULHU DIV DIVU REM REMU complete: the result lands
in d at slot s + L, and enters b0; with nw = 1 no register is written. -/
def Sys2Proof.Claims.AluTwoSourceResult : Prop :=
  ∀ f ∈ alu2Forms, ∀ (tk : Tok) (d a b : Reg) (nw : BitVec 1) (s : State),
    mayIssue s tk allStreams [.x a.toNat, .x b.toNat] (if nw = 1 ∨ d = 0 then [] else [.x d.toNat]) = true →
    exec (f.ins tk d a b nw) s = .next (landing s tk (nw == 1) d (f.val (operand s a) (operand s b)) f.lat)

/-- An ALU form of one width in {64, 128, 256, 512} bits (R31, R74). -/
structure Sys2Proof.Claims.AluW where
  ins : Tok → Reg → Reg → Reg → BitVec 2 → BitVec 1 → Instr
  val : (n : Nat) → BitVec n → BitVec n → BitVec n

def Sys2Proof.Claims.aluWideForms : List AluW :=
  [⟨.add, fun _ x y => x + y⟩, ⟨.sub, fun _ x y => x - y⟩, ⟨.and, fun _ x y => x &&& y⟩, ⟨.or, fun _ x y => x ||| y⟩,
   ⟨.xor, fun _ x y => x ^^^ y⟩, ⟨.andn, fun _ x y => x &&& ~~~y⟩]

/-- R74, R29: ADD SUB AND OR XOR ANDN at each width complete: the group of 2^w registers is written at one landing, register
d with the low 64 bits, and b0 takes the value of register d. -/
def Sys2Proof.Claims.AluWideResult : Prop :=
  ∀ f ∈ aluWideForms, ∀ (tk : Tok) (d a b : Reg) (w : BitVec 2) (nw : BitVec 1) (s : State),
    let k := 2 ^ w.toNat
    let v := (f.val (64 * k) (BitVec.ofNat _ (readGroup (me s) a.toNat k)) (BitVec.ofNat _ (readGroup (me s) b.toNat k))).toNat
    let writes := (List.range k).map fun i => wX (d.toNat + i) (BitVec.ofNat 64 (v / 2 ^ (64 * i)))
    mayIssue s tk allStreams [.xs a.toNat k, .xs b.toNat k] (if nw = 1 then [] else groupLocs d.toNat k) = true →
    exec (f.ins tk d a b w nw) s =
      .next (let (id, t) := landIn (popped s tk) s.cur (if nw = 1 then [] else writes) ((BitVec.ofNat 64 v).setWidth 2048) 1
        retire (landed s) t s.cur tk { push := .landed id })

/-- R73, R74, R76, R77: the results of the two-source ALU forms, at 64 bits and at every width. -/
def Obligations.AluResult : Prop := AluTwoSourceResult ∧ AluWideResult

/-- A form of one source. -/
structure Sys2Proof.Claims.Alu1 where
  ins : Tok → Reg → Reg → BitVec 1 → Instr
  val : Word → Word

def Sys2Proof.Claims.alu1Forms : List Alu1 :=
  [⟨.clz, fun a => BitVec.ofNat 64 (((List.range 64).takeWhile fun i => !a.getLsbD (63 - i)).length)⟩,
   ⟨.ctz, fun a => BitVec.ofNat 64 (((List.range 64).takeWhile fun i => !a.getLsbD i).length)⟩,
   ⟨.popc, fun a => BitVec.ofNat 64 (((List.range 64).filter fun i => a.getLsbD i).length)⟩,
   ⟨.brev, fun a => a.reverse⟩,
   ⟨.bswp, fun a => BitVec.ofNat 64 (leNat (leBytes 8 a.toNat).reverse)⟩]

/-- R76: CLZ CTZ POPC BREV BSWP complete, with latency 1. -/
def Sys2Proof.Claims.AluOneSourceResult : Prop :=
  ∀ f ∈ alu1Forms, ∀ (tk : Tok) (d a : Reg) (nw : BitVec 1) (s : State),
    mayIssue s tk allStreams [.x a.toNat] (if nw = 1 ∨ d = 0 then [] else [.x d.toNat]) = true →
    exec (f.ins tk d a nw) s = .next (landing s tk (nw == 1) d (f.val (operand s a)) 1)

/-- An immediate form. -/
structure Sys2Proof.Claims.AluI where
  ins : Tok → Reg → Reg → Instr
  val : Word → Word

/-- The immediate forms (R78, R79): the 12-bit immediate is sign-extended; a shift amount is 0 to 63. -/
def Sys2Proof.Claims.immForms (imm : BitVec 12) (amt : BitVec 6) : List AluI :=
  [⟨fun tk d a => .addi tk d a imm, fun x => x + imm.signExtend 64⟩,
   ⟨fun tk d a => .andi tk d a imm, fun x => x &&& imm.signExtend 64⟩,
   ⟨fun tk d a => .ori tk d a imm, fun x => x ||| imm.signExtend 64⟩,
   ⟨fun tk d a => .xori tk d a imm, fun x => x ^^^ imm.signExtend 64⟩,
   ⟨fun tk d a => .slti tk d a imm, fun x => if x.toInt < imm.toInt then 1 else 0⟩,
   ⟨fun tk d a => .sltiu tk d a imm, fun x => if x.toNat < (imm.signExtend 64).toNat then 1 else 0⟩,
   ⟨fun tk d a => .slli tk d a amt, fun x => x <<< amt.toNat⟩,
   ⟨fun tk d a => .srli tk d a amt, fun x => x >>> amt.toNat⟩,
   ⟨fun tk d a => .srai tk d a amt, fun x => x.sshiftRight amt.toNat⟩]

/-- R78, R79: ADDI ANDI ORI XORI SLTI SLTIU SLLI SRLI SRAI complete, with latency 1. -/
def Sys2Proof.Claims.ImmediateResult : Prop :=
  ∀ (imm : BitVec 12) (amt : BitVec 6), ∀ f ∈ immForms imm amt, ∀ (tk : Tok) (d a : Reg) (s : State),
    mayIssue s tk allStreams [.x a.toNat] (if d = 0 then [] else [.x d.toNat]) = true →
    exec (f.ins tk d a) s = .next (landing s tk false d (f.val (operand s a)) 1)

/-- R78, R79: the words of the immediate forms; a word of SHI with the selector 3, or with bits [9:6] that are not 0,
is illegal. -/
def Sys2Proof.Claims.ImmediateWords : Prop :=
  ∀ (tk : Tok) (d a : Reg) (imm : BitVec 12) (amt : BitVec 6) (w : IWord),
    encode (.addi tk d a imm) = some (tk ++ 0x04#6 ++ d ++ a ++ imm) ∧ encode (.andi tk d a imm) = some (tk ++ 0x05#6 ++ d ++ a ++ imm) ∧
    encode (.ori tk d a imm) = some (tk ++ 0x06#6 ++ d ++ a ++ imm) ∧ encode (.xori tk d a imm) = some (tk ++ 0x07#6 ++ d ++ a ++ imm) ∧
    encode (.slti tk d a imm) = some (tk ++ 0x08#6 ++ d ++ a ++ imm) ∧ encode (.sltiu tk d a imm) = some (tk ++ 0x09#6 ++ d ++ a ++ imm) ∧
    encode (.slli tk d a amt) = some (tk ++ 0x0A#6 ++ d ++ a ++ (0#2 ++ 0#4 ++ amt : BitVec 12)) ∧
    encode (.srli tk d a amt) = some (tk ++ 0x0A#6 ++ d ++ a ++ (1#2 ++ 0#4 ++ amt : BitVec 12)) ∧
    encode (.srai tk d a amt) = some (tk ++ 0x0A#6 ++ d ++ a ++ (2#2 ++ 0#4 ++ amt : BitVec 12)) ∧
    (w.extractLsb' 22 6 = 0x0A → w.extractLsb' 10 2 = 3 ∨ w.extractLsb' 6 4 ≠ 0 → ∃ r, decode w = .error r)

/-- R76, R78, R79: the results of the one-source and the immediate forms. -/
def Obligations.OneSourceResult : Prop := AluOneSourceResult ∧ ImmediateResult ∧ ImmediateWords

/-- R76, R80: MADD and SELZ read d as well as a and b; LSI shifts d left by 17 and ORs the immediate in; LHI shifts its
sign-extended immediate left by 12; LPC gives the ring index PC + imm. All complete, with latency 1 but for MADD's 3. -/
def Sys2Proof.Claims.ThreeSourceAndUpper : Prop :=
  ∀ (tk : Tok) (d a b : Reg) (nw : BitVec 1) (imm : BitVec 17) (s : State),
    (mayIssue s tk allStreams [.x d.toNat, .x a.toNat, .x b.toNat] (if nw = 1 ∨ d = 0 then [] else [.x d.toNat]) = true →
      exec (.madd tk d a b nw) s = .next (landing s tk (nw == 1) d (operand s d + operand s a * operand s b) 3) ∧
      exec (.selz tk d a b nw) s =
        .next (landing s tk (nw == 1) d (if operand s b = 0 then operand s a else operand s d) 1)) ∧
    (mayIssue s tk allStreams [.x d.toNat] (if d = 0 then [] else [.x d.toNat]) = true →
      exec (.lsi tk d imm) s = .next (landing s tk false d ((operand s d <<< 17) ||| imm.setWidth 64) 1)) ∧
    (mayIssue s tk allStreams [] (if d = 0 then [] else [.x d.toNat]) = true →
      exec (.lhi tk d imm) s = .next (landing s tk false d (imm.signExtend 64 <<< 12) 1) ∧
      exec (.lpc tk d imm) s =
        .next (landing s tk false d
          (BitVec.ofNat 64 (((me s).pc.toNat + imm.toInt) % (ringSize s s.cur : Int)).toNat) 1))

/-- R80: the words of LHI, LSI and LPC. -/
def Sys2Proof.Claims.UpperWords : Prop :=
  ∀ (tk : Tok) (d : Reg) (imm : BitVec 17),
    encode (.lhi tk d imm) = some (tk ++ 0x0B#6 ++ d ++ imm) ∧ encode (.lsi tk d imm) = some (tk ++ 0x0C#6 ++ d ++ imm) ∧
    encode (.lpc tk d imm) = some (tk ++ 0x0D#6 ++ d ++ imm)

/-- R76, R80: MADD, SELZ and the forms with a 17-bit immediate. -/
def Obligations.ThreeSourceAndUpperResult : Prop := ThreeSourceAndUpper ∧ UpperWords

/-- A conditional branch and its condition (R81). -/
structure Sys2Proof.Claims.Branch where
  ins : Tok → Reg → Reg → BitVec 9 → Instr
  cond : Word → Word → Bool

def Sys2Proof.Claims.branchForms : List Branch :=
  [⟨.beq, fun a b => a == b⟩, ⟨.bne, fun a b => a != b⟩, ⟨.blt, fun a b => decide (a.toInt < b.toInt)⟩,
   ⟨.bge, fun a b => decide (b.toInt ≤ a.toInt)⟩, ⟨.bltu, fun a b => decide (a.toNat < b.toNat)⟩,
   ⟨.bgeu, fun a b => decide (b.toNat ≤ a.toNat)⟩, ⟨.bset, fun a b => (a &&& b) != 0⟩, ⟨.bclr, fun a b => (a &&& b) == 0⟩]

/-- The state after a word without an effect of its own, which goes on at `jump` if there is one. -/
def Sys2Proof.Claims.jumped (s : State) (tk : Tok) (jump : Option (BitVec 18)) : State :=
  retire (landed s) (popped s tk) s.cur tk { jump := jump }
/-- A ring index, wrapped (R42). -/
def Sys2Proof.Claims.wrapped (s : State) (v : Int) : BitVec 18 := BitVec.ofNat 18 (v % (ringSize s s.cur : Int)).toNat

/-- R81, R82: the branches complete: taken, the stream goes on at PC + off in the ring; else in sequence. -/
def Sys2Proof.Claims.BranchResult : Prop :=
  ∀ f ∈ branchForms, ∀ (tk : Tok) (a b : Reg) (off : BitVec 9) (s : State),
    mayIssue s tk allStreams [.x a.toNat, .x b.toNat] [] = true →
    exec (f.ins tk a b off) s =
      .next (jumped s tk (if f.cond (operand s a) (operand s b) then some (wrapped s ((me s).pc.toNat + off.toInt)) else none))

/-- R82 to R84: J and JL go to PC + off, JL with the index after it in x26 and b0 one slot later; JR goes to read(a) + imm, or
raises Ring Bounds (0x05) outside the ring; LOOP sets the loop state, or skips the body when the count is 0. -/
def Sys2Proof.Claims.JumpResult : Prop :=
  ∀ (tk : Tok) (a : Reg) (off : BitVec 22) (imm : BitVec 12) (s : State),
    (mayIssue s tk allStreams [] [] = true →
      exec (.j tk off) s = .next (jumped s tk (some (wrapped s ((me s).pc.toNat + off.toInt))))) ∧
    (mayIssue s tk allStreams [] [.x 26] = true →
      exec (.jl tk off) s =
        .next (let link := (wrapped s ((me s).pc.toNat + 1)).setWidth 64
          let (id, t) := landIn (popped s tk) s.cur [wX 26 link] (link.setWidth 2048) 1
          retire (landed s) t s.cur tk { push := .landed id, jump := some (wrapped s ((me s).pc.toNat + off.toInt)) })) ∧
    (mayIssue s tk allStreams [.x a.toNat] [] = true →
      let t : Int := (operand s a).toInt + imm.toInt
      (0 ≤ t ∧ t < ringSize s s.cur → exec (.jr tk a imm) s = .next (jumped s tk (some (BitVec.ofNat 18 t.toNat)))) ∧
      (¬(0 ≤ t ∧ t < ringSize s s.cur) →
        exec (.jr tk a imm) s = .next (raiseAt (undoPops (popped s tk) (landed s) s.cur tk) s.cur 0x05 0))) ∧
    (mayIssue s tk allStreams [.x a.toNat] [] = true →
      let n := if isSW s.cur then fld (operand s a) 27 0 else fld (operand s a) 31 0
      let last := wrapped s ((me s).pc.toNat + imm.toInt)
      let l := mkLoop (isSW s.cur) n (wrapped s ((me s).pc.toNat + 1)).toNat last.toNat
      exec (.loop tk a imm) s =
        .next (retire (landed s) (modStream (popped s tk) s.cur fun st => { st with loop := l }) s.cur tk
          { jump := if n = 0 then some (wrapped s (last.toNat + 1)) else none }))

/-- R81 to R84: the words of the branches, jumps and LOOP. A JR or LOOP whose d field is not 0, and a LOOP whose immediate is 0
or negative, are illegal; Ring Bounds is of class 2. -/
def Sys2Proof.Claims.BranchJumpWords : Prop :=
  ∀ (tk : Tok) (a b : Reg) (off9 : BitVec 9) (off22 : BitVec 22) (imm : BitVec 12) (w : IWord),
    (∀ p ∈ branchForms.zipIdx, encode (p.1.ins tk a b off9) = some (tk ++ 0x0E#6 ++ BitVec.ofNat 3 p.2 ++ a ++ b ++ off9)) ∧
    encode (.j tk off22) = some (tk ++ 0x0F#6 ++ off22) ∧ encode (.jl tk off22) = some (tk ++ 0x10#6 ++ off22) ∧
    encode (.jr tk a imm) = some (tk ++ 0x11#6 ++ 0#5 ++ a ++ imm) ∧ encode (.loop tk a imm) = some (tk ++ 0x12#6 ++ 0#5 ++ a ++ imm) ∧
    (w.extractLsb' 22 6 = 0x11 ∨ w.extractLsb' 22 6 = 0x12 → w.extractLsb' 17 5 ≠ 0 → ∃ r, decode w = .error r) ∧
    (imm.toInt ≤ 0 → decode (tk ++ 0x12#6 ++ 0#5 ++ a ++ imm) = .error .badImmediate) ∧ classOf 0x05 = 2

/-- R81 to R84: the branches, jumps and LOOP. -/
def Obligations.BranchJumpResult : Prop := BranchResult ∧ JumpResult ∧ BranchJumpWords

/-- R42, R46, R49, R85: the issue of a word advances the slot by one; the PC goes on in sequence, or to the jump's target; and
with a loop count n ≠ 0, at the loop's end index the count falls to n − 1 and the stream goes back to the start while it is
not 0, unless the word jumps. -/
def Obligations.IssueAdvances : Prop :=
  ∀ (before s : State) (sid : Nat) (tk : Tok) (a : After),
    let st := streamAt s sid
    let t := streamAt (retire before s sid tk a) sid
    let atEnd := loopCount (isSW sid) st.loop ≠ 0 ∧ loopEnd (isSW sid) st.loop = st.pc.toNat
    t.slot = st.slot + 1 ∧ t.x = st.x ∧ t.v = st.v ∧ t.m = st.m ∧ t.latch = st.latch ∧ t.flying = st.flying ∧
    t.outst = st.outst ∧ t.sstat = st.sstat ∧ t.vtype = st.vtype ∧
    (¬atEnd → t.loop = st.loop ∧ t.pc = a.jump.getD (nextPc s sid)) ∧
    (atEnd → loopCount (isSW sid) t.loop = loopCount (isSW sid) st.loop - 1 ∧
      (∀ j, a.jump = some j → t.pc = j) ∧
      (a.jump = none → loopCount (isSW sid) st.loop = 1 → t.pc = nextPc s sid) ∧
      (a.jump = none → loopCount (isSW sid) st.loop ≠ 1 → t.pc.toNat = loopStart (isSW sid) st.loop))

/-! ### SYS, CSR and the Steward's forms (R64 to R72, R86, R401 to R403) -/

/-- R65, R67 to R69: NOP has no effect. SAFEPT moves the slot to max(s + 1, t), t the latest landing due, and parks the stream
with its index when a pre-emption is pending, at once or once its pushes are made. ENDLEG ends the stream, at its own index,
once nothing is in flight. WAITL holds the stream while more than n writes are outstanding. -/
def Obligations.SysResult : Prop :=
  ∀ (tk : Tok) (n : BitVec 12) (s : State),
    (mayIssue s tk allStreams [] [] = true → exec (.nop tk) s = .next (jumped s tk none)) ∧
    (mayIssue s tk computeStreams [] [] = true →
      ((gangOfCore s (coreOf s.cur)).any (fun g => g.preempt) = false →
        exec (.safept tk n) s =
          .next (retire (landed s) (modStream (popped s tk) s.cur fun st =>
            { st with slot := Nat.max (st.slot + 1) (lastLanding st) - 1 }) s.cur tk { safe := true })) ∧
      ((gangOfCore s (coreOf s.cur)).any (fun g => g.preempt) = true →
        exec (.safept tk n) s =
          .next (retire (landed s) (modStream (popped s tk) s.cur fun st =>
            { landAll { st with slot := Nat.max (st.slot + 1) (lastLanding st) - 1 } with
              phase := if pushQueues (kindOf s.cur) tk = [] then .parked n.toNat else .holding (.park n.toNat) })
            s.cur tk { safe := true })) ∧
      exec (.endleg tk) s =
        .next (finishEnd (retire (landed s) (modStream (popped s tk) s.cur fun st => { st with phase := .ending }) s.cur tk
          { push := .ends, jump := some (me s).pc }) s.cur)) ∧
    (mayIssue s tk allStreams [] [] = true →
      ((me s).outst.length ≤ n.toNat → exec (.waitl tk n) s = .next (jumped s tk none)) ∧
      (n.toNat < (me s).outst.length →
        exec (.waitl tk n) s =
          .next (retire (landed s) (modStream (popped s tk) s.cur fun st => { st with phase := .holding (.waitl n.toNat) })
            s.cur tk { push := .holdEnds })))

/-- R66, R86, R402: TRAP on a compute stream takes its pops, raises Software Trap (0x50) with the code in the VA field, and the
stream stays at it; codes from 0xF00 fire the snapshot trigger, on SW too (log entry 63). On SW it is an exception that returns
to the next word, and counts neither as a slot nor at a loop's end (log entry 77). -/
def Obligations.TrapTakesFault : Prop :=
  ∀ (tk : Tok) (code : BitVec 12) (s : State), mayIssue s tk allStreams [] [] = true →
    let fired := if 0xF00 ≤ code.toNat then snapTrigger (popped s tk) 3 else popped s tk
    let d := dieOf (coreOf s.cur)
    (isSW s.cur = false → canRaise (popped s tk) d = true →
      exec (.trap tk code) s =
        .next (raise (modStream fired s.cur fun st => { st with phase := .trapped (nextEntry (popped s tk) d) tk })
          (coreFault (coreOf s.cur) (kindOf s.cur) ((me s).pc.setWidth 32) 0x50 (code.setWidth 64) (popped s tk)))) ∧
    (isSW s.cur = true →
      exec (.trap tk code) s = .next (stewardException fired s.cur 0x50 (code.setWidth 64) (wrapped s ((me s).pc.toNat + 1))))

/-- What the CSRs of a compute stream hold (R47): number and value, in its gang. -/
def Sys2Proof.Claims.csrHeld (s : State) (x : Gang) : List (Nat × Word) :=
  let c := coreOf s.cur
  [(0x0, (me s).sstat), (0x1, if detOf s c then 1 else 0), (0x2, (me s).vtype), (0x4, x.tick.setWidth 64),
   (0x5, BitVec.ofNat 64 (c % 4 + c % 64 / 4 * 4 + c % 64 * 64 + dieOf c * 4096 + packageId s * 32768)),
   (0x6, BitVec.ofNat 64 (x.origin + x.w.log2 * 64 + x.h.log2 * 512 + x.origin * 65536)),
   (0x7, BitVec.ofNat 64 (bfld x.record 56 4)), (0x8, (coreAt s c).seatVa), (0x9, (coreAt s c).seq.setWidth 64), (0xA, (me s).loop),
   (0xB, x.slip.setWidth 64), (0xC, BitVec.ofNat 64 (ctxOf s c))]
/-- What the CSRs of a Steward's stream hold (R401). -/
def Sys2Proof.Claims.csrSwHeld (s : State) : List (Nat × Word) :=
  let w := stewardAt s (s.cur - 2048)
  [(0x0, (me s).sstat), (0x5, BitVec.ofNat 64 (s.cur - 2048 + packageId s * 32768)), (0xA, (me s).loop), (0x400, w.scause),
   (0x401, w.sepc), (0x402, w.sval), (0x403, w.svec), (0x404, w.sasn), (0x405, w.sstatus), (0x406, w.sevent), (0x407, w.sevmask),
   (0x408, w.stick), (0x409, w.sscr)]
/-- What a CSRW of v makes of a compute stream (R48, R72). -/
def Sys2Proof.Claims.csrWrites (v : Word) : List (Nat × (Stream → Stream)) :=
  [(0x0, fun st => { st with sstat := setFld st.sstat 9 8 (fld v 9 8) }), (0x2, fun st => { st with vtype := v }),
   (0xA, fun st => { st with loop := v })]
/-- What a CSRW of v makes of a Steward (R401): a bit given as 0 stays 0, DBL stays, SEVENT clears the bits written 1. -/
def Sys2Proof.Claims.csrSwWrites (v : Word) : List (Nat × (Steward → Steward)) :=
  [(0x400, fun w => { w with scause := v &&& 0xFF }), (0x401, fun w => { w with sepc := v &&& 0x3FFFF }),
   (0x402, fun w => { w with sval := v }), (0x403, fun w => { w with svec := v &&& 0x3FFFF }),
   (0x404, fun w => { w with sasn := v &&& 0x7F }), (0x405, fun w => { w with sstatus := (w.sstatus &&& 2) ||| (v &&& 1) }),
   (0x406, fun w => { w with sevent := w.sevent &&& ~~~v }), (0x407, fun w => { w with sevmask := v }),
   (0x409, fun w => { w with sscr := v })]

/-- R47, R48, R70 to R72, R36, R401: CSRR reads each assigned CSR of its stream's kind, TICK and STICK as they stand; CSRW
writes the writable ones in their own bits, SEVENT clearing the bits written 1 (reserved bits of a Steward's CSR ignore a write,
log entry 71), and a reserved VTYPE raises Illegal Encoding (0x01) and writes nothing. A reserved number, or a CSRW of a
read-only one, is an illegal encoding. -/
def Obligations.CsrResult : Prop :=
  ∀ (tk : Tok) (d a : Reg) (num : BitVec 11) (s : State),
    let n := num.toNat
    let sw := isSW s.cur
    let legal := if 0x400 ≤ n ∧ n ≤ 0x409 then [4] else allStreams
    (mayIssue s tk legal [] (if d = 0 then [] else [.x d.toNat]) = true →
      (if sw then csrSwAssigned n else csrAssigned n) = true →
      exec (.csrr tk d num) s =
        .next (landing s tk false d (if sw then csrSwValue (popped s tk) s.cur n else csrValue (popped s tk) s.cur n) 1)) ∧
    (canIssue s s.cur = true →
      ((if sw then csrSwAssigned n = false else csrAssigned n = false ∧ (n < 0x400 ∨ 0x409 < n)) →
        exec (.csrr tk d num) s = .next (raiseAt (landed s) s.cur 0x01 0)) ∧
      ((if sw then csrSwWritable n = false else csrWritable n = false ∧ (n < 0x400 ∨ 0x409 < n)) →
        exec (.csrw tk a num) s = .next (raiseAt (landed s) s.cur 0x01 0))) ∧
    (mayIssue s tk legal [.x a.toNat] [] = true →
      (sw = true → csrSwWritable n = true →
        exec (.csrw tk a num) s = .next (retire (landed s) (csrSwWrite (popped s tk) s.cur n (operand s a)) s.cur tk {})) ∧
      (sw = false → csrWritable n = true → (n = 2 → vtypeOk (operand s a) = true) →
        exec (.csrw tk a num) s = .next (retire (landed s) (csrWrite (popped s tk) s.cur n (operand s a)) s.cur tk {})) ∧
      (sw = false → n = 2 → vtypeOk (operand s a) = false →
        exec (.csrw tk a num) s = .next (raiseAt (undoPops (popped s tk) (landed s) s.cur tk) s.cur 0x01 0))) ∧
    (mayIssue s tk legal [] (if d = 0 then [] else [.x d.toNat]) = true →
      (sw = false → ∀ x, gangOfCore (popped s tk) (coreOf s.cur) = some x → ∀ e ∈ csrHeld (popped s tk) x, n = e.1 →
        exec (.csrr tk d num) s = .next (landing s tk false d e.2 1)) ∧
      (sw = true → ∀ e ∈ csrSwHeld (popped s tk), n = e.1 → exec (.csrr tk d num) s = .next (landing s tk false d e.2 1))) ∧
    (mayIssue s tk legal [.x a.toNat] [] = true →
      let v := operand s a
      (sw = false → ∀ e ∈ csrWrites v, n = e.1 → (n = 2 → fld v 63 7 = 0 ∧ fld v 3 0 ≤ 6) →
        exec (.csrw tk a num) s = .next (retire (landed s) (modStream (popped s tk) s.cur e.2) s.cur tk {})) ∧
      (sw = true → ∀ e ∈ csrSwWrites v, n = e.1 →
        exec (.csrw tk a num) s = .next (retire (landed s) (modSteward (popped s tk) (s.cur - 2048) e.2) s.cur tk {})) ∧
      (sw = true → n = 0xA →
        exec (.csrw tk a num) s =
          .next (retire (landed s) (modStream (popped s tk) s.cur fun st => { st with loop := v }) s.cur tk {}))) ∧
    (canIssue s s.cur = true →
      (sw = false → n ∈ [1, 4, 5, 6, 7, 8, 9, 0xB, 0xC] → exec (.csrw tk a num) s = .next (raiseAt (landed s) s.cur 0x01 0)) ∧
      (sw = true → n ∈ [0, 5, 0x408] → exec (.csrw tk a num) s = .next (raiseAt (landed s) s.cur 0x01 0)))

/-- R403: on SW, ERET with EIN = 1 clears EIN and goes on at SEPC, and with EIN = 0 raises Illegal Encoding; WFE waits until
SEVENT AND SEVMASK is not 0; TLBI removes what its kind covers in the whole package, TLBI PAGE the replicas of the page's
frame too (log entry 92); IPI sets SEVENT[0] of Steward n of its I/O die once its release at SYSTEM is complete. -/
def Obligations.StewardForms : Prop :=
  ∀ (kind : BitVec 4) (r : Reg) (n : BitVec 4) (s : State),
    let w := stewardAt s (s.cur - 2048)
    (mayIssue s 0 [4] [] [] = true →
      (bitAt w.sstatus 0 = true →
        exec .eret s =
          .next (retire (landed s) (modSteward (landed s) (s.cur - 2048) fun w => { w with sstatus := w.sstatus &&& ~~~(1 : BitVec 64) })
            s.cur 0 { jump := some (w.sepc.setWidth 18) })) ∧
      (bitAt w.sstatus 0 = false → exec .eret s = .next (raiseAt (landed s) s.cur 0x01 0)) ∧
      (w.sevent &&& w.sevmask ≠ 0 → exec .wfe s = .next (retire (reached s) (reached s) s.cur 0 {})) ∧
      (w.sevent &&& w.sevmask = 0 → exec .wfe s = .next (reached s)) ∧
      (quiet (landed s) s.cur (fixedScope (landed s) 0 7) = true →
        exec (.ipi n) s =
          .next (retire (landed s) (modSteward (endRegion (landed s) s.cur) ((s.cur - 2048) / 16 * 16 + n.toNat)
            fun w => { w with sevent := w.sevent ||| 1 }) s.cur 0 {})) ∧
      exec (.tlbi 0 0) s = .next (retire (landed s) (tlbiOp (landed s) (fun _ => true)) s.cur 0 {})) ∧
    (mayIssue s 0 [4] [.x r.toNat] [] = true →
      let v := operand s r
      (kind = 1 → exec (.tlbi kind r) s =
        .next (retire (landed s) (tlbiOp (landed s) (fun e => e.ctx == fld v 5 0)) s.cur 0 {})) ∧
      (kind = 2 → exec (.tlbi kind r) s =
        .next (retire (landed s) (tlbiPage (landed s) (fld v 63 58) (fld v 55 14)) s.cur 0 {})) ∧
      (let ctx := fld v 63 58
       let page := fld v 55 14
       let t := tlbiPage s ctx page
       (∀ e ∈ t.cores, (∀ x ∈ e.2.tlb, tlbCovers x ctx page = false) ∧ ∀ l ∈ e.2.l1, tlbCovers l.via ctx page = false) ∧
       (∀ e ∈ t.swTlb, ∀ x ∈ e.2, tlbCovers x ctx page = false) ∧
       (∀ e ∈ t.dies, ∀ r ∈ e.2.replicas, tlbCovers r.via ctx page = false ∧
         ∀ x ∈ s.seen, tlbCovers x ctx page = true → inFrame s x.leaf r.pa = false) ∧
       t.mem = s.mem ∧ t.streams = s.streams))

/-- R402: a Steward exception with EIN = 0 writes SCAUSE, SVAL, SEPC and SSTAT[7:0], sets EIN and goes on at SVEC (one that was
halted stays so); with EIN = 1 it sets DBL and halts the Steward. No memory, no core and no other Steward's stream changes. -/
def Obligations.StewardExceptionEntry : Prop :=
  ∀ (s : State) (sid : Nat) (code : BitVec 8) (va : Word) (ret : BitVec 18),
    let w := stewardAt s (sid - 2048)
    let t := stewardException s sid code va ret
    let w' := stewardAt t (sid - 2048)
    (bitAt w.sstatus 0 = false →
      w'.scause = code.setWidth 64 ∧ w'.sval = va ∧ w'.sepc = ret.setWidth 64 ∧ w'.sstatus = w.sstatus ||| 1 ∧
      w'.svec = w.svec ∧ w'.sasn = w.sasn ∧ w'.sevent = w.sevent ∧ w'.sevmask = w.sevmask ∧ w'.stick = w.stick ∧
      w'.sscr = w.sscr ∧
      streamAt t sid = { streamAt s sid with
        phase := if (streamAt s sid).phase = .halted then .halted else .running, sstat := code.setWidth 64, pc := w.svec.setWidth 18 } ∧
      (∀ m, m ≠ sid - 2048 → stewardAt t m = stewardAt s m)) ∧
    (bitAt w.sstatus 0 = true →
      (streamAt t sid).phase = .halted ∧ (streamAt t sid).pc = (streamAt s sid).pc ∧ w'.sstatus = w.sstatus ||| 2 ∧
      w'.sepc = w.sepc ∧ w'.scause = w.scause) ∧
    t.mem = s.mem ∧ t.cores = s.cores ∧ t.dies = s.dies ∧ t.gangs = s.gangs ∧ (∀ m, m ≠ sid → streamAt t m = streamAt s m)

/-! ### Memory (chapters 09, 12 to 14) -/

/-- What the issue makes of a form's outcome (R14 to R16, R40): an effect retires; a fault or a wait leaves the pops untaken. -/
def Sys2Proof.Claims.issued (s : State) (tk : Tok) (r : Res) : Out :=
  match r with
  | .done t a => .next (retire (landed s) t s.cur tk a)
  | .fault t c va => .next (raiseAt (undoPops t (landed s) s.cur tk) s.cur c va)
  | .stall t => .next (undoPops t (landed s) s.cur tk)
  | .raw t => .next t
/-- A precise fault of the word (R16): it takes no pops and has no effect. -/
def Sys2Proof.Claims.faulted (s t : State) (tk : Tok) (c : BitVec 8) (va : Word) : Out :=
  .next (raiseAt (undoPops t (landed s) s.cur tk) s.cur c va)
/-- An M-format address: read(a) plus the offset times the size (R201, R301). -/
def Sys2Proof.Claims.memAddr (s : State) (a : Reg) (off : BitVec 10) (sz : BitVec 2) : Word :=
  operand s a + off.signExtend 64 * BitVec.ofNat 64 (2 ^ sz.toNat)
/-- A load or a store form: the instruction and whether it sign-extends. -/
structure Sys2Proof.Claims.MForm where
  ins : Tok → Reg → Reg → BitVec 10 → BitVec 2 → Instr
  signed : Bool

/-- R201, R90, R51: SPLD and SPLDU complete: an own access lands its bytes, extended, 3 slots later; a peer access is sent, and
writes d when it is accepted. A failed check of R90 raises its code with the address in the VA field. -/
def Obligations.ScratchLoadResult : Prop :=
  ∀ f ∈ [(⟨.spld, true⟩ : MForm), ⟨.spldu, false⟩], ∀ (tk : Tok) (d a : Reg) (off : BitVec 10) (sz : BitVec 2) (s : State),
    let n := 2 ^ sz.toNat
    let p := memAddr s a off sz
    let cid := coreOf s.cur
    let locs : List Loc := if d = 0 then [] else [.x d.toNat]
    mayIssue s tk [0, 2, 3, 4] [.x a.toNat] locs = true →
    (isSW s.cur = false →
      (∀ c, spCheck (popped s tk) cid p n n false = some c → exec (f.ins tk d a off sz) s = faulted s (popped s tk) tk c p) ∧
      (spCheck (popped s tk) cid p n n false = none →
        syncCheck (popped s tk) s.cur [⟨(spTarget cid p).1, spOff p, n⟩] [] = .ok →
        ((spTarget cid p).2 = false →
          exec (f.ins tk d a off sz) s =
            .next (landing s tk false d (loadVal f.signed (mread (coreAt s cid).scratch (spOff p) n)) 3)) ∧
        ((spTarget cid p).2 = true → (me s).outst.length < 32 →
          exec (f.ins tk d a off sz) s =
            issued s tk (sendLoad (popped s tk) s.cur locs
              { mkReq (popped s tk) s.cur (.peer (spTarget cid p).1 (.load f.signed n (spOff p))) with va := p })))) ∧
    (isSW s.cur = true → swSpCheck p n false = none →
      exec (f.ins tk d a off sz) s = .next (landing s tk false d (loadVal f.signed (mread s.mem (swBase s.cur + spOff p) n)) 3))

/-- R201, R202, R90: SPST completes: an own store writes the low 2^sz bytes of read(d) at once, and a peer store is sent. -/
def Obligations.ScratchStoreResult : Prop :=
  ∀ (tk : Tok) (d a : Reg) (off : BitVec 10) (sz : BitVec 2) (s : State),
    let n := 2 ^ sz.toNat
    let p := memAddr s a off sz
    let cid := coreOf s.cur
    let bs := leBytes n (operand s d).toNat
    mayIssue s tk [2, 3, 4] [.x d.toNat, .x a.toNat] [] = true →
    (isSW s.cur = false →
      (∀ c, spCheck (popped s tk) cid p n n true = some c → exec (.spst tk d a off sz) s = faulted s (popped s tk) tk c p) ∧
      (spCheck (popped s tk) cid p n n true = none →
        syncCheck (popped s tk) s.cur [] [⟨(spTarget cid p).1, spOff p, n⟩] = .ok →
        ((spTarget cid p).2 = false →
          exec (.spst tk d a off sz) s =
            .next (retire (landed s) (modCore (popped s tk) cid fun c => { c with scratch := mwrite c.scratch (spOff p) bs })
              s.cur tk {})) ∧
        ((spTarget cid p).2 = true →
          exec (.spst tk d a off sz) s =
            issued s tk (sendStore (popped s tk)
              { mkReq (popped s tk) s.cur (.peer (spTarget cid p).1
                  (.store ((List.range n).map fun i => (spOff p + i, bs.getD i 0)))) with va := p })))) ∧
    (isSW s.cur = true → swSpCheck p n true = none →
      exec (.spst tk d a off sz) s =
        .next (retire (landed s) { popped s tk with mem := mwrite (popped s tk).mem (swBase s.cur + spOff p) bs } s.cur tk {}))

/-- The claim that an access of a CHK page takes before it is sent (R298): it belongs to the open region, and no release of an
earlier push gives it up (log entry 127). Any other access takes none. -/
def Sys2Proof.Claims.Claimed (s : State) (sid : Nat) (x : Xlat) (wr : Bool) (t : State) : Prop :=
  if leafChk x.via.leaf = true ∧ isSW sid = false then
    ∃ u, claimTake s sid (localPa s x.pa / 128) wr = .ok u ∧ t = keepClaim u sid (localPa s x.pa / 128) wr
  else t = s
/-- While an acquire of the stream is in flight (a peer SINCW, SFAB or RSTEAL, or KVMAP), a form that accesses memory waits
(R280; log entry 126). -/
def Sys2Proof.Claims.waitsForAcquire (s : State) (tk : Tok) (i : Instr) : Prop :=
  acqWaits (popped s tk) s.cur = true → exec i s = .next (undoPops (popped s tk) (landed s) s.cur tk)
/-- The claim of an access is refused (R298): Race, or Claim Capacity. -/
def Sys2Proof.Claims.Refused (s : State) (sid : Nat) (x : Xlat) (wr : Bool) (c : BitVec 8) : Prop :=
  leafChk x.via.leaf = true ∧ isSW sid = false ∧ claimTake s sid (localPa s x.pa / 128) wr = .error c
/-- There is room for a tracked access at its destination die (R457). -/
def Sys2Proof.Claims.trackRoom (s : State) (sid pa : Nat) : Bool :=
  !isFabric s (localPa s pa) || decide (trackedOut s (srcGlobal s sid) ((homeGlobal s (localPa s pa)).getD 0) < 256)
/-- A Steward's access to a die of its package that its routers do not reach (R381). -/
def Sys2Proof.Claims.unreached (s : State) (sid : Nat) (x : Xlat) : Bool :=
  isSW sid && !isFabric s (localPa s x.pa) && !homeReached s (tlbId sid) { x with pa := localPa s x.pa }

/-- R301, R302, R304, R298: LD and LDU complete: on a hit of the L1 the value is there (not while an earlier load of the stream
to the line is in flight, R277), else the access is sent to its home or to the core's own slice; d is written as an outstanding
write. Address Form, Misaligned, a translation fault and a refused claim raise their codes, with the VA but where the fault of a
table's own access names a PA; a Steward's access to a die that is not reached raises Uncorrectable Error (0xF0, R381) with the
PA. The word waits for an acquire of its stream in flight (log entry 126). -/
def Obligations.GlobalLoadResult : Prop :=
  ∀ f ∈ [(⟨.ld, true⟩ : MForm), ⟨.ldu, false⟩], ∀ (tk : Tok) (d a : Reg) (off : BitVec 10) (sz : BitVec 2) (s : State),
    let n := 2 ^ sz.toNat
    let va := memAddr s a off sz
    let locs : List Loc := if d = 0 then [] else [.x d.toNat]
    let s0 := popped s tk
    mayIssue s tk [0, 4] [.x a.toNat] locs true = true →
    waitsForAcquire s tk (f.ins tk d a off sz) ∧
    (acqWaits s0 s.cur = false →
    (vaOk va = false → exec (f.ins tk d a off sz) s = faulted s s0 tk 0x23 va) ∧
    (vaOk va = true → va.toNat % n ≠ 0 → exec (f.ins tk d a off sz) s = faulted s s0 tk 0x24 va) ∧
    (vaOk va = true → va.toNat % n = 0 →
      (∀ c v s1, access s0 (tlbId s.cur) (xctx s0 s.cur) va .rd = (.error (c, v), s1) →
        exec (f.ins tk d a off sz) s = faulted s s1 tk c v) ∧
      (∀ x s1 c, access s0 (tlbId s.cur) (xctx s0 s.cur) va .rd = (.ok x, s1) → Refused s1 s.cur x false c →
        exec (f.ins tk d a off sz) s = faulted s s1 tk c va) ∧
      (∀ x s1 s2, access s0 (tlbId s.cur) (xctx s0 s.cur) va .rd = (.ok x, s1) → Claimed s1 s.cur x false s2 →
        let look := if isSW s.cur = true ∨ l1Keeps s2 x = false ∨ loadBefore s2 s.cur (localPa s2 x.pa) = true then none
          else l1Hit s2 (coreOf s.cur) (localPa s2 x.pa) (xctx s2 s.cur)
        (∀ data s3, look = some (data, s3) →
          exec (f.ins tk d a off sz) s =
            .next (retire (landed s) (deliver (addOutst s3 s.cur locs).2 s.cur (addOutst s3 s.cur locs).1
              [wX d.toNat (loadVal f.signed ((data.drop (x.pa % 128)).take n))]) s.cur tk
              { push := .written (addOutst s3 s.cur locs).1 })) ∧
        (look = none → unreached s2 s.cur x = true →
          exec (f.ins tk d a off sz) s = faulted s s2 tk 0xF0 (BitVec.ofNat 64 (localPa s2 x.pa))) ∧
        (look = none → unreached s2 s.cur x = false →
          ∃ t e, sendMem s2 s.cur (.load f.signed n) x va (some locs) = .done t e ∧
            exec (f.ins tk d a off sz) s = .next (retire (landed s) t s.cur tk e)))))

/-- R301, R303, R92, R298: ST completes: the store is sent, and updates the line in the core's own L1 as it is sent. Its checks
raise their codes as those of a load do, and it waits as a load does. -/
def Obligations.GlobalStoreResult : Prop :=
  ∀ (tk : Tok) (d a : Reg) (off : BitVec 10) (sz : BitVec 2) (s : State),
    let n := 2 ^ sz.toNat
    let va := memAddr s a off sz
    let s0 := popped s tk
    mayIssue s tk [3, 4] [.x d.toNat, .x a.toNat] [] = true →
    waitsForAcquire s tk (.st tk d a off sz) ∧
    (acqWaits s0 s.cur = false →
    (vaOk va = false → exec (.st tk d a off sz) s = faulted s s0 tk 0x23 va) ∧
    (vaOk va = true → va.toNat % n ≠ 0 → exec (.st tk d a off sz) s = faulted s s0 tk 0x24 va) ∧
    (vaOk va = true → va.toNat % n = 0 →
      (∀ c v s1, access s0 (tlbId s.cur) (xctx s0 s.cur) va .wr = (.error (c, v), s1) →
        exec (.st tk d a off sz) s = faulted s s1 tk c v) ∧
      (∀ x s1 c, access s0 (tlbId s.cur) (xctx s0 s.cur) va .wr = (.ok x, s1) → Refused s1 s.cur x true c →
        exec (.st tk d a off sz) s = faulted s s1 tk c va) ∧
      (∀ x s1 s2, access s0 (tlbId s.cur) (xctx s0 s.cur) va .wr = (.ok x, s1) → Claimed s1 s.cur x true s2 →
        unreached s2 s.cur x = true → exec (.st tk d a off sz) s = faulted s s2 tk 0xF0 (BitVec.ofNat 64 (localPa s2 x.pa))) ∧
      (∀ x s1 s2, access s0 (tlbId s.cur) (xctx s0 s.cur) va .wr = (.ok x, s1) → Claimed s1 s.cur x true s2 →
        trackRoom s2 s.cur x.pa = true → unreached s2 s.cur x = false →
        ∃ t e, sendMem s2 s.cur (.store n (operand s d)) x va none = .done t e ∧
          exec (.st tk d a off sz) s =
            .next (retire (landed s)
              (if isSW s.cur then t else l1Store t (coreOf s.cur) (localPa t x.pa) (leBytes n (operand s d).toNat)) s.cur tk e))))

/-- An atomic form: the instruction; whether it takes a pair in b; whether it writes the pair. -/
structure Sys2Proof.Claims.AForm where
  ins : Tok → Reg → Reg → BitVec 6 → BitVec 2 → Instr
  two : Bool
  both : Bool

/-- R305, R307. -/
def Sys2Proof.Claims.atomicForms : List AForm :=
  [⟨.aadd, false, false⟩, ⟨.aswp, false, false⟩, ⟨.acas, true, false⟩, ⟨.aand, false, false⟩, ⟨.aor, false, false⟩,
   ⟨.axor, false, false⟩, ⟨.amax, false, false⟩, ⟨.amin, false, false⟩, ⟨.amaxu, false, false⟩, ⟨.aminu, false, false⟩,
   ⟨.aincw, false, false⟩, ⟨.afab, true, true⟩]

/-- The checks of an atomic at issue, in their order, passed (R306): the state after them and the translation. -/
def Sys2Proof.Claims.AtomicReady (s0 : State) (sid : Nat) (va : Word) (scope : BitVec 6) (al : Nat) (x : Xlat) (s2 : State) : Prop :=
  acqWaits s0 sid = false ∧ vaOk va = true ∧ va.toNat % al = 0 ∧ ∃ sc s1, captureScope s0 sid scope.toNat = (.ok sc, s1) ∧
    translate s1 (tlbId sid) (xctx s1 sid) va .wr = (.ok x, s2) ∧ (∀ l o, placeOf x.pa ≠ .host l o) ∧ paFault s2 x.pa = none ∧
    trackRoom s2 sid x.pa = true
/-- An atomic is sent, and the core's L1 drops the line it names (R308). A Steward's raises Claim Capacity where its DACC finds
no room (R315; log entry 80), and Uncorrectable Error where its home is not reached (R381). -/
def Sys2Proof.Claims.AtomicSent (s : State) (tk : Tok) (i : Instr) (x : Xlat) (va v w : Word) (regs : Option (List Loc)) (s2 : State) : Prop :=
  if isSW s.cur && noRoom s2 i (localPa s2 x.pa) then exec i s = faulted s s2 tk 0x29 va
  else if unreached s2 s.cur x then exec i s = faulted s s2 tk 0xF0 (BitVec.ofNat 64 (localPa s2 x.pa))
  else ∃ t e, sendMem s2 s.cur (.atomic i v w) x va regs = .done t e ∧
    exec i s = .next (retire (landed s) (if isSW s.cur then t else l1Drop t (coreOf s.cur) (localPa t x.pa)) s.cur tk e)

/-- R305 to R308: the atomics of functions 0 to 11 complete: the access is sent to its home with its operands, and b (for AFAB
b and b+1) is an outstanding write. It waits for an acquire of its stream in flight (log entry 126). -/
def Sys2Proof.Claims.AtomicIssue : Prop :=
  ∀ f ∈ atomicForms, ∀ (tk : Tok) (a b : Reg) (scope : BitVec 6) (sz : BitVec 2) (s : State) (x : Xlat) (s2 : State),
    let one : List Loc := if b = 0 then [] else [.x b.toNat]
    mayIssue s tk memStreams [.x a.toNat, if f.two then .xs b.toNat 2 else .x b.toNat]
      (if f.both then groupLocs b.toNat 2 else one) true = true →
    waitsForAcquire s tk (f.ins tk a b scope sz) ∧
    (AtomicReady (popped s tk) s.cur (operand s a) scope (if sz = 0 then 8 else 4) x s2 →
      AtomicSent s tk (f.ins tk a b scope sz) x (operand s a) (operand s b)
        (if f.two then readX (me s) (b.toNat + 1) else 0)
        (some (if f.both then [.x b.toNat, .x (b.toNat + 1)] else one)) s2)

/-- R306, R310 to R313: DACC, DRD and DCLR complete: the operand names its format in [33:32]; DACC writes no register, DRD and
DCLR write b. A format that R310 refuses raises Illegal Encoding. A Steward's DACC that would find no room raises Claim Capacity
as it issues (log entry 80). -/
def Sys2Proof.Claims.DatumIssue : Prop :=
  ∀ (tk : Tok) (a b : Reg) (scope : BitVec 6) (s : State) (x : Xlat) (s2 : State),
    let v := operand s b
    let regs : List Loc := if b = 0 then [] else [.x b.toNat]
    let size := if fld v 33 32 = 0 then 4 else 2
    (mayIssue s tk memStreams [.x a.toNat, .x b.toNat] [] = true →
      (fld v 33 32 ≠ 3 ∧ fld v 63 34 = 0 ∧ fld v 31 0 < 2 ^ (8 * size) →
        AtomicReady (popped s tk) s.cur (operand s a) scope size x s2 →
        AtomicSent s tk (.dacc tk a b scope) x (operand s a) v 0 none s2) ∧
      (fld v 33 32 = 3 ∨ fld v 63 34 ≠ 0 → exec (.dacc tk a b scope) s = faulted s (popped s tk) tk 0x01 0)) ∧
    (mayIssue s tk memStreams [.x a.toNat, .x b.toNat] regs true = true → fld v 33 32 ≠ 3 → fld v 63 34 = 0 →
      (AtomicReady (popped s tk) s.cur (operand s a) scope size x s2 →
        AtomicSent s tk (.drd tk a b scope) x (operand s a) v 0 (some regs) s2) ∧
      (AtomicReady (popped s tk) s.cur (operand s a) scope 4 x s2 →
        AtomicSent s tk (.dclr tk a b scope) x (operand s a) v 0 (some regs) s2))

/-- R305 to R308, R310 to R313: the atomics and the datum forms issue. -/
def Obligations.AtomicDatumIssue : Prop := AtomicIssue ∧ DatumIssue

/-- A fence and its kind (R316). -/
def Sys2Proof.Claims.fenceForms : List ((Tok → BitVec 6 → Instr) × Nat) :=
  [(.fenceAcq, 0), (.fenceRel, 1), (.fenceAr, 2), (.fenceSc, 3), (.fenceBw, 4), (.fenceBr, 5)]

/-- R280, R293, R316 to R318: a fence checks its scope; with nothing to wait for it has its effect at once, and else it holds
its stream for the accesses and commands it found. -/
def Obligations.FenceResult : Prop :=
  ∀ f ∈ fenceForms, ∀ (tk : Tok) (scope : BitVec 6) (s s1 : State),
    mayIssue s tk memStreams [] [] = true →
    (∀ c, captureScope (popped s tk) s.cur scope.toNat = (.error c, s1) → exec (f.1 tk scope) s = faulted s s1 tk c 0) ∧
    (∀ sc, captureScope (popped s tk) s.cur scope.toNat = (.ok sc, s1) →
      let reqs := fenceReqs s1 s.cur f.2 sc
      let cmds := fenceCmds s1 s.cur f.2
      (fenceDone s1 s.cur reqs cmds = true →
        exec (f.1 tk scope) s = .next (retire (landed s) (fenceEffect s1 s.cur f.2 sc.cores sc.slices) s.cur tk {})) ∧
      (fenceDone s1 s.cur reqs cmds = false →
        exec (f.1 tk scope) s =
          .next (retire (landed s)
            (modStream s1 s.cur fun st => { st with phase := .holding (.fence f.2 reqs cmds sc.cores sc.slices) }) s.cur tk
            { push := .holdEnds })))

/-- R320 to R323, R289: SCPW writes entry read(a) from the 160-byte image at read(b), with the generation after the old one;
SCPINV clears VALID of it and counts the generation on; both hold the stream until the update has retired. SCPR writes an entry
to the scratchpad and its header to d. Indexes outside their range raise Illegal Encoding. -/
def Obligations.ScopeTableResult : Prop :=
  ∀ (tk : Tok) (d a b : Reg) (s : State),
    let i := operand s a
    let p := operand s b
    let s0 := popped s tk
    let locs : List Loc := if d = 0 then [] else [.x d.toNat]
    let rng : List Range := [⟨coreOf s.cur, spOff p, 160⟩]
    (mayIssue s tk memStreams [.x a.toNat, .x b.toNat] locs = true →
      (i.toNat < 8 ∨ 64 ≤ i.toNat → exec (.scpw tk d a b) s = faulted s s0 tk 0x01 0) ∧
      (8 ≤ i.toNat → i.toNat < 64 → ownCheck s0 s.cur p 160 32 false = none → syncCheck s0 s.cur rng [] = .ok →
        scopeImageOk (ownRead s0 s.cur (spOff p) 160) = true →
        exec (.scpw tk d a b) s =
          issued s tk (scopeUpdate s0 s.cur (64 * scopeCtx s0 s.cur + i.toNat) d
            (scopeOfImage (ownRead s0 s.cur (spOff p) 160) (scopeMem s0 (scopeCtx s0 s.cur) i.toNat)))) ∧
      (64 ≤ i.toNat → exec (.scpr tk d a b) s = faulted s s0 tk 0x01 0) ∧
      (isSW s.cur = false → i.toNat < 64 → ownCheck s0 s.cur p 160 32 true = none → syncCheck s0 s.cur [] rng = .ok →
        let e := if i.toNat < 8 then (fixedScope s0 (coreOf s.cur) i.toNat, s0) else scopeEntry s0 (coreOf s.cur) i.toNat
        exec (.scpr tk d a b) s =
          issued s tk (landX (ownWrite e.2 s.cur (spOff p) (scopeBytes e.1)) s.cur false d.toNat e.1.hdr 1)) ∧
      (isSW s.cur = true → 5 ≤ i.toNat → i.toNat < 64 → ownCheck s0 s.cur p 160 32 true = none →
        let e := if i.toNat < 8 then fixedScope s0 0 i.toNat else scopeMem s0 (scopeCtx s0 s.cur) i.toNat
        exec (.scpr tk d a b) s =
          issued s tk (landX (ownWrite s0 s.cur (spOff p) (scopeBytes e)) s.cur false d.toNat e.hdr 1))) ∧
    (mayIssue s tk memStreams [.x a.toNat] locs = true →
      (i.toNat < 8 ∨ 64 ≤ i.toNat → exec (.scpinv tk d a) s = faulted s s0 tk 0x01 0) ∧
      (8 ≤ i.toNat → i.toNat < 64 →
        let old := scopeMem s0 (scopeCtx s0 s.cur) i.toNat
        exec (.scpinv tk d a) s =
          issued s tk (scopeUpdate s0 s.cur (64 * scopeCtx s0 s.cur + i.toNat) d
            { old with hdr := setFld (setFld old.hdr 0 0 0) 15 8 (fld old.hdr 15 8 + 1) })))


/-! ### Semaphores, rings and waymarks (chapters 05, 09 and 11) -/

/-- The state a waiting form's effect starts from: it was reached, and its pops are taken (R14, R207). -/
def Sys2Proof.Claims.waited (s : State) (tk : Tok) : State := takePops (reached s) s.cur tk
/-- A waiting form that does not issue yet: it is reached, and no pop is taken (R207). -/
def Sys2Proof.Claims.stillHeld (s : State) (tk : Tok) : State := undoPops (waited s tk) (reached s) s.cur tk
/-- A form that releases at a scope issues with its release complete (R280), and ends its stream's region (R299). -/
def Sys2Proof.Claims.releasing (s : State) (tk : Tok) (scope : Nat) : Prop :=
  quiet (popped s tk) s.cur (fixedScope (popped s tk) (coreOf s.cur) scope) = true
def Sys2Proof.Claims.released (s : State) (tk : Tok) : State := endRegion (popped s tk) s.cur
/-- While its release is not complete, the form does not issue: no pop is taken, no region ends (R280). -/
def Sys2Proof.Claims.waitsToRelease (s : State) (tk : Tok) (scope : Nat) (i : Instr) : Prop :=
  quiet (popped s tk) s.cur (fixedScope (popped s tk) (coreOf s.cur) scope) = false →
    exec i s = .next (undoPops (popped s tk) (landed s) s.cur tk)
/-- An access with a register result is sent: the registers are one outstanding write, and the word's pushes follow it. -/
def Sys2Proof.Claims.loadSent (s q : State) (tk : Tok) (regs : List Loc) (r : Req) : State :=
  let (oid, t) := addOutst q s.cur regs
  let (_, t) := sendReq t { r with outst := some oid }
  retire (landed s) t s.cur tk { push := .written oid }
/-- An access without a register result is sent; the word's pushes follow its effect (R303). -/
def Sys2Proof.Claims.storeSent (s q : State) (tk : Tok) (r : Req) : State :=
  let (id, t) := sendReq q r
  retire (landed s) t s.cur tk { push := .performed id }
/-- A pair lands once, at the next slot, and b0 takes the lower register (R29, R206). -/
def Sys2Proof.Claims.pairLands (s q : State) (tk : Tok) (d : Reg) (v w : Word) : State :=
  let (id, t) := landIn q s.cur [wX d.toNat v, wX (d.toNat + 1) w] (v.setWidth 2048) 1
  retire (landed s) t s.cur tk { push := .landed id }
/-- A scalar result lands at the next slot, from a state that the form's own effect has changed (R206). -/
def Sys2Proof.Claims.oneLands (s q : State) (tk : Tok) (d : Reg) (v : Word) : State :=
  let (id, t) := landIn q s.cur [wX d.toNat v] (v.setWidth 2048) 1
  retire (landed s) t s.cur tk { push := .landed id }

/-- R210, R211, R213, R214: the own SINC, SSET, SRD, SINCW and SFAB complete, each as one step on the semaphore, after which its
waiters are tested. SINC, SSET, SINCW and SFAB release: until their release is complete they do not issue and take no pop. A
SINC past 2^32 − 1 raises Semaphore Overflow (0x12). -/
def Obligations.SemaphoreOwnResult : Prop :=
  ∀ (tk : Tok) (sem : BitVec 5) (a : Reg) (s : State),
    let c := coreOf s.cur
    let m := sem.toNat
    let x := semAt (popped s tk) c m
    let q := released s tk
    let set (v : Sem) : State := testWaiters (putSem q c m v) c m
    let locs : List Loc := if a = 0 then [] else [.x a.toNat]
    (mayIssue s tk computeStreams [.x a.toNat, .x 0] [] = true → waitsToRelease s tk 1 (.sinc tk sem a 0)) ∧
    (mayIssue s tk computeStreams [.x a.toNat] [] = true → waitsToRelease s tk 1 (.sset tk sem a)) ∧
    (mayIssue s tk computeStreams [.x a.toNat, .x 0] locs = true → waitsToRelease s tk 1 (.sincw tk sem a 0)) ∧
    (mayIssue s tk computeStreams [.xs a.toNat 2, .x 0] (groupLocs a.toNat 2) = true → waitsToRelease s tk 1 (.sfab tk sem a 0)) ∧
    (mayIssue s tk computeStreams [.x a.toNat, .x 0] [] = true → releasing s tk 1 →
      let inc := (operand s a).toNat
      (x.count.toNat + inc < 2 ^ 32 →
        exec (.sinc tk sem a 0) s =
          .next (retire (landed s) (set { x with count := x.count + BitVec.ofNat 32 inc }) s.cur tk {})) ∧
      (2 ^ 32 ≤ x.count.toNat + inc → exec (.sinc tk sem a 0) s = faulted s (popped s tk) tk 0x12 0)) ∧
    (mayIssue s tk computeStreams [.x a.toNat] [] = true → releasing s tk 1 →
      exec (.sset tk sem a) s =
        .next (retire (landed s) (set { count := (operand s a).setWidth 32, tag := .core, settle := [] }) s.cur tk {})) ∧
    (mayIssue s tk computeStreams [.x 0] locs = true →
      exec (.srd tk sem a 0) s = .next (landing s tk false a (x.count.setWidth 64) 1)) ∧
    (mayIssue s tk computeStreams [.x a.toNat, .x 0] locs = true → releasing s tk 1 →
      let bound := (operand s a).setWidth 32
      exec (.sincw tk sem a 0) s =
        .next (oneLands s (acquire (set (if x.count < bound then { x with count := x.count + 1 } else Sem.zero)) s.cur) tk a
          (x.count.setWidth 64))) ∧
    (a.toNat < 28 → mayIssue s tk computeStreams [.xs a.toNat 2, .x 0] (groupLocs a.toNat 2) = true → releasing s tk 1 →
      let add := (operand s a).setWidth 32
      let bound := (readX (me s) (a.toNat + 1)).setWidth 32
      let ok := decide (x.count.toNat + add.toNat ≤ bound.toNat)
      let v := if ok then x.count + add else x.count
      exec (.sfab tk sem a 0) s =
        .next (pairLands s (acquire (set (if v = 0 then Sem.zero else { x with count := v })) s.cur) tk a
          (x.count.setWidth 64) (if ok then 1 else 0)))

/-- R205, R209, R238: a t that is not x0 names a rank of the cluster, and the operation is sent to that core; a rank above 3
raises Address Form (0x23) in every form. SINC takes no register result; SRD, SINCW, SFAB, RSTEAL and RSTAT write their
registers when the answer comes. -/
def Obligations.PeerFormsIssue : Prop :=
  ∀ (tk : Tok) (sem : BitVec 5) (ring : BitVec 3) (a t : Reg) (s : State), t ≠ 0 →
    let rank := (operand s t).toNat
    let c := coreOf s.cur / 4 * 4 + rank
    let p := popped s tk
    let q := released s tk
    let req (u : State) (op : PeerOp) : Req := { mkReq u s.cur (.peer c op) with va := BitVec.ofNat 64 (c % 4 * 2 ^ 21) }
    let locs : List Loc := if a = 0 then [] else [.x a.toNat]
    let pair : List Loc := [.x a.toNat, .x (a.toNat + 1)]
    let refused (i : Instr) : Prop := exec i s = faulted s p tk 0x23 (operand s t)
    (mayIssue s tk computeStreams [.x a.toNat, .x t.toNat] [] = true →
      (rank ≤ 3 → releasing s tk 2 → exec (.sinc tk sem a t) s = .next (storeSent s q tk (req q (.sinc sem.toNat (operand s a))))) ∧
      (3 < rank → refused (.sinc tk sem a t))) ∧
    (3 < rank →
      (mayIssue s tk computeStreams [.x t.toNat] locs = true → refused (.srd tk sem a t) ∧ refused (.rstat tk ring a t)) ∧
      (mayIssue s tk computeStreams [.x a.toNat, .x t.toNat] locs = true → refused (.sincw tk sem a t)) ∧
      (mayIssue s tk computeStreams [.xs a.toNat 2, .x t.toNat] (groupLocs a.toNat 2) = true → refused (.sfab tk sem a t)) ∧
      (mayIssue s tk computeStreams [.x t.toNat] (groupLocs a.toNat 2) = true → refused (.rsteal tk ring a t))) ∧
    (rank ≤ 3 → (me s).outst.length < 32 →
      (mayIssue s tk computeStreams [.x t.toNat] locs = true →
        exec (.srd tk sem a t) s = .next (loadSent s p tk locs (req p (.srd sem.toNat))) ∧
        exec (.rstat tk ring a t) s = .next (loadSent s p tk locs (req p (.rstat ring.toNat)))) ∧
      (mayIssue s tk computeStreams [.x a.toNat, .x t.toNat] locs = true → releasing s tk 2 →
        exec (.sincw tk sem a t) s = .next (loadSent s q tk locs (req q (.sincw sem.toNat ((operand s a).setWidth 32))))) ∧
      (a.toNat < 28 → mayIssue s tk computeStreams [.xs a.toNat 2, .x t.toNat] (groupLocs a.toNat 2) = true → releasing s tk 2 →
        exec (.sfab tk sem a t) s =
          .next (loadSent s q tk pair
            (req q (.sfab sem.toNat ((operand s a).setWidth 32) ((readX (me s) (a.toNat + 1)).setWidth 32))))) ∧
      (mayIssue s tk computeStreams [.x t.toNat] (groupLocs a.toNat 2) = true →
        syncCheck p s.cur (stealRange p c ring.toNat) [] = .ok →
        exec (.rsteal tk ring a t) s = .next (loadSent s p tk pair (req p (.rsteal ring.toNat)))))

/-- R207, R210, R213, R214: SACQ and SWAIT are held while the count is below n, and take no pop; else they settle the commands
of the semaphore's settle set, SACQ subtracts n (a count of 0 clears the tag and the settle set), and they acquire. -/
def Obligations.SemaphoreWaitResult : Prop :=
  ∀ (tk : Tok) (sem : BitVec 5) (n : BitVec 13) (s : State), mayIssue s tk computeStreams [] [] = true →
    let c := coreOf s.cur
    let w := waited s tk
    let x := semAt w c sem.toNat
    let u := modCore w c fun y => settle y (kindOf s.cur) x.settle
    let v := x.count - BitVec.ofNat 32 n.toNat
    (n.toNat ≤ x.count.toNat →
      exec (.sacq tk sem n) s =
        .next (retire (reached s)
          (acquire (putSem u c sem.toNat (if v = 0 then Sem.zero else { x with count := v })) s.cur) s.cur tk {}) ∧
      exec (.swait tk sem n) s = .next (retire (reached s) (acquire u s.cur) s.cur tk {})) ∧
    (x.count.toNat < n.toNat →
      exec (.sacq tk sem n) s = .next (stillHeld s tk) ∧ exec (.swait tk sem n) s = .next (stillHeld s tk))

/-- R99, R100, R215 to R217: on a ring in a mode the form takes, RCFG, RCLAIM, RPUB, RWAITF, RFREE and RWAITE complete or wait;
in any other mode they raise Ring Bounds (0x05). n = 2^LSLOTS; BASE + i·2^LSIZE is slot i. -/
def Obligations.RingResult : Prop :=
  ∀ (tk : Tok) (ring : BitVec 3) (r : Reg) (s : State),
    let c := coreOf s.cur
    let k := ring.toNat
    let x := ringAt (popped s tk) c k
    let w := waited s tk
    let y := ringAt w c k
    let q := released s tk
    let locs : List Loc := if r = 0 then [] else [.x r.toNat]
    (mayIssue s tk computeStreams [.x r.toNat] [] = true →
      let v := operand s r
      (ringCfgOk v = true →
        exec (.rcfg tk ring r) s =
          .next (retire (landed s) (putRing (popped s tk) c k { RingState.zero with cfg := v &&& 0x7FFFFFFF }) s.cur tk {})) ∧
      (ringCfgOk v = false → exec (.rcfg tk ring r) s = faulted s (popped s tk) tk 0x05 0) ∧
      (ringMode x ≠ 0 → v.toNat < 2 ^ 14 → ringClaimed x v.toNat = true → releasing s tk (if ringMode x = 2 then 2 else 1) →
        exec (.rpub tk ring r) s = .next (retire (landed s) (putRing q c k (ringPublish x v.toNat)) s.cur tk {})) ∧
      (ringMode x = 0 ∨ 2 ^ 14 ≤ v.toNat ∨ ringClaimed x v.toNat = false →
        exec (.rpub tk ring r) s = faulted s (popped s tk) tk 0x05 0)) ∧
    (mayIssue s tk computeStreams [] [] = true →
      (ringMode x = 1 → x.filled ≠ 0 → releasing s tk 1 →
        exec (.rfree tk ring) s =
          .next (retire (landed s) (putRing q c k { x with head := (x.head + 1) % 2 ^ fld x.cfg 28 25, filled := x.filled - 1 })
            s.cur tk {})) ∧
      (ringMode x ≠ 1 ∨ x.filled = 0 → exec (.rfree tk ring) s = faulted s (popped s tk) tk 0x05 0) ∧
      (ringMode y = 1 → y.claimed + y.filled < 2 ^ fld y.cfg 28 25 → exec (.rwaite tk ring) s = .next (retire (reached s) w s.cur tk {})) ∧
      (ringMode y = 1 → 2 ^ fld y.cfg 28 25 ≤ y.claimed + y.filled → exec (.rwaite tk ring) s = .next (stillHeld s tk)) ∧
      (ringMode y ≠ 1 → exec (.rwaite tk ring) s = .next (raiseAt (stillHeld s tk) s.cur 0x05 0))) ∧
    (mayIssue s tk computeStreams [] locs = true →
      (ringMode y = 1 ∨ (ringMode y ≠ 0 ∧ y.claimed = 0) → y.claimed + y.filled < 2 ^ fld y.cfg 28 25 →
        exec (.rclaim tk ring r) s =
          .next (let t := putRing w c k { y with tail := (y.tail + 1) % 2 ^ fld y.cfg 28 25, claimed := y.claimed + 1 }
            let v : Word := BitVec.ofNat 64 y.tail
            let (id, t) := landIn (acquire t s.cur) s.cur [wX r.toNat v] (v.setWidth 2048) 1
            retire (reached s) t s.cur tk { push := .landed id })) ∧
      (ringMode y = 1 ∨ (ringMode y ≠ 0 ∧ y.claimed = 0) → 2 ^ fld y.cfg 28 25 ≤ y.claimed + y.filled →
        exec (.rclaim tk ring r) s = .next (stillHeld s tk)) ∧
      (ringMode y = 0 ∨ (ringMode y = 2 ∧ y.claimed ≠ 0) →
        exec (.rclaim tk ring r) s = .next (raiseAt (stillHeld s tk) s.cur 0x05 0)) ∧
      (ringMode y = 1 → y.filled ≠ 0 →
        exec (.rwaitf tk ring r) s =
          .next (let v : Word := BitVec.ofNat 64 y.head
            let (id, t) := landIn (acquire w s.cur) s.cur [wX r.toNat v] (v.setWidth 2048) 1
            retire (reached s) t s.cur tk { push := .landed id })) ∧
      (ringMode y = 1 → y.filled = 0 → exec (.rwaitf tk ring r) s = .next (stillHeld s tk)) ∧
      (ringMode y ≠ 1 → exec (.rwaitf tk ring r) s = .next (raiseAt (stillHeld s tk) s.cur 0x05 0)))

/-- R101, R102, R215: in deque mode RPOPO takes the slot at TAIL − 1 and the own RSTEAL the one at HEAD, with the slot's first
doubleword; an empty ring answers −1 and leaves d+1. RSTAT gives the status word. Another mode raises Ring Bounds. -/
def Obligations.DequeResult : Prop :=
  ∀ (tk : Tok) (ring : BitVec 3) (d : Reg) (s : State), d.toNat < 28 →
    let c := coreOf s.cur
    let k := ring.toNat
    let p := popped s tk
    let x := ringAt p c k
    let n := 2 ^ fld x.cfg 28 25
    let i := (x.tail + n - 1) % n
    let word (j : Nat) : Word := BitVec.ofNat 64 (mnat (coreAt p c).scratch (fld x.cfg 20 0 + j * 2 ^ fld x.cfg 24 21) 8)
    let slot (j : Nat) : List Range := [⟨c, fld x.cfg 20 0 + j * 2 ^ fld x.cfg 24 21, 8⟩]
    (mayIssue s tk computeStreams [] (groupLocs d.toNat 2) = true →
      (ringMode x = 2 → x.claimed = 0 → x.filled ≠ 0 → syncCheck p s.cur (slot i) [] = .ok →
        exec (.rpopo tk ring d) s =
          .next (pairLands s (acquire (putRing p c k { x with tail := i, filled := x.filled - 1 }) s.cur) tk d
            (BitVec.ofNat 64 i) (word i))) ∧
      (ringMode x = 2 → x.claimed = 0 → x.filled = 0 →
        exec (.rpopo tk ring d) s = .next (oneLands s (acquire p s.cur) tk d (BitVec.allOnes 64))) ∧
      (ringMode x ≠ 2 ∨ x.claimed ≠ 0 → exec (.rpopo tk ring d) s = faulted s p tk 0x05 0)) ∧
    (mayIssue s tk computeStreams [.x 0] (groupLocs d.toNat 2) = true →
      (ringMode x = 2 → x.filled ≠ 0 → syncCheck p s.cur (slot x.head) [] = .ok →
        exec (.rsteal tk ring d 0) s =
          .next (pairLands s (acquire (putRing p c k { x with head := (x.head + 1) % n, filled := x.filled - 1 }) s.cur) tk d
            (BitVec.ofNat 64 x.head) (word x.head))) ∧
      (ringMode x = 2 → x.filled = 0 → syncCheck p s.cur [] [] = .ok →
        exec (.rsteal tk ring d 0) s = .next (oneLands s (acquire p s.cur) tk d (BitVec.allOnes 64))) ∧
      (ringMode x ≠ 2 → exec (.rsteal tk ring d 0) s = faulted s p tk 0x05 0)) ∧
    (mayIssue s tk computeStreams [.x 0] (if d = 0 then [] else [.x d.toNat]) = true →
      exec (.rstat tk ring d 0) s =
        .next (oneLands s p tk d (BitVec.ofNat 64 (x.claimed % 2 ^ 15 * 2 ^ 48 + x.filled % 2 ^ 15 * 2 ^ 32 +
          x.tail % 2 ^ 14 * 2 ^ 16 + x.head % 2 ^ 14))))

/-- R104: one decrement of a waymark, of SPEND for a sector and else of APEND: with a pending count of 0 it sets OVR alone; else
the count falls by 1, and when both counts are then 0 the phase goes on modulo 16 and both counts are reloaded. -/
def Obligations.WaymarkDecrement : Prop :=
  ∀ (w : Way) (sector : Bool),
    let pending := if sector then w.spend else w.apend
    (pending = 0 → wayDec w sector = { w with ovr := true }) ∧
    (pending ≠ 0 →
      let sp := if sector then w.spend - 1 else w.spend
      let ap := if sector then w.apend else w.apend - 1
      (sp = 0 ∧ ap = 0 → wayDec w sector = { w with phase := (w.phase + 1) % 16, spend := w.sexp, apend := w.aexp }) ∧
      (¬(sp = 0 ∧ ap = 0) → wayDec w sector = { w with spend := sp, apend := ap }))

/-- R218, R219, R104, R113: WMINIT writes the waymark; WMARRIVE applies one arrival; WMEXPECT adds to SPEND of the phase; WMTEST
gives its low doubleword, reserved bits 0, 3 slots later; WMWAIT is held while PHASE is read(b)[3:0], and then settles and
acquires. Commands in flight stop none of them but by a footprint that the form's own check meets (R111, R114, R204). Addresses
without SELF are sent to the peer by WMARRIVE and WMEXPECT, and raise Address Form in WMINIT, WMTEST and WMWAIT. -/
def Obligations.WaymarkResult : Prop :=
  ∀ (tk : Tok) (d a b : Reg) (s : State),
    let c := coreOf s.cur
    let p := popped s tk
    let q := released s tk
    let va := operand s a
    let w := waited s tk
    let own := bitAt va 23
    (mayIssue s tk computeStreams [.x d.toNat, .x a.toNat, .x b.toNat] [] = true →
      let arr := (operand s d).toNat
      let sec := (operand s b).toNat
      (2 ^ 20 ≤ arr ∨ 2 ^ 32 ≤ sec → exec (.wminit tk d a b) s = faulted s p tk 0x01 0) ∧
      (arr < 2 ^ 20 → sec < 2 ^ 32 → own = false → fld va 63 24 = 0 → exec (.wminit tk d a b) s = faulted s p tk 0x23 va) ∧
      (arr < 2 ^ 20 → sec < 2 ^ 32 → own = true → spCheck p c va 16 16 true = none →
        syncCheck p s.cur [] [⟨c, spOff va, 16⟩] = .ok →
        exec (.wminit tk d a b) s =
          .next (retire (landed s) (putWay p c (spOff va)
            { sexp := sec, aexp := arr, spend := sec, apend := arr, ovr := false, err := false, phase := 0 }) s.cur tk {}))) ∧
    (mayIssue s tk computeStreams [.x a.toNat] [] = true → spCheck p c va 16 16 true = none →
      waySync p [] [⟨(spTarget c va).1, spOff va, 16⟩] = .ok →
      (own = true → releasing s tk 1 →
        exec (.wmarrive tk a) s =
          .next (retire (landed s) (putWay q c (spOff va) (wayDec (wayAt q c (spOff va)) false)) s.cur tk {})) ∧
      (own = false → releasing s tk 2 →
        exec (.wmarrive tk a) s =
          .next (storeSent s q tk { mkReq q s.cur (.peer (spTarget c va).1 (.wmArrive (spOff va))) with va := va }))) ∧
    (mayIssue s tk computeStreams [.x a.toNat, .x b.toNat] [] = true → spCheck p c va 16 16 true = none →
      waySync p [] [⟨(spTarget c va).1, spOff va, 16⟩] = .ok →
      let n := operand s b
      let y := wayAt p c (spOff va)
      (own = true → y.spend + n.toNat < 2 ^ 32 →
        exec (.wmexpect tk a b) s =
          .next (retire (landed s) (putWay p c (spOff va) { y with spend := y.spend + n.toNat }) s.cur tk {})) ∧
      (own = true → 2 ^ 32 ≤ y.spend + n.toNat → exec (.wmexpect tk a b) s = faulted s p tk 0x12 0) ∧
      (own = false →
        exec (.wmexpect tk a b) s =
          .next (storeSent s p tk { mkReq p s.cur (.peer (spTarget c va).1 (.wmExpect (spOff va) n)) with va := va }))) ∧
    (own = false →
      (mayIssue s tk computeStreams [.x a.toNat] (if d = 0 then [] else [.x d.toNat]) = true →
        exec (.wmtest tk d a) s = faulted s p tk 0x23 va) ∧
      (mayIssue s tk computeStreams [.x a.toNat, .x b.toNat] [] = true →
        exec (.wmwait tk a b) s = .next (raiseAt (stillHeld s tk) s.cur 0x23 va))) ∧
    (mayIssue s tk computeStreams [.x a.toNat] (if d = 0 then [] else [.x d.toNat]) = true →
      own = true → spCheck p c va 16 16 false = none → waySync p [⟨c, spOff va, 16⟩] [] = .ok →
      exec (.wmtest tk d a) s =
        .next (landing s tk false d
          (BitVec.ofNat 64 (leNat (mread (coreAt p c).scratch (spOff va) 8)) &&& 0xFFFFFFFF0FFFFF3F) 3)) ∧
    (mayIssue s tk computeStreams [.x a.toNat, .x b.toNat] [] = true →
      own = true → spCheck w c va 16 16 false = none → waySync w [⟨c, spOff va, 16⟩] [] = .ok →
      let y := wayAt w c (spOff va)
      (y.phase = (operand s b).toNat % 16 → exec (.wmwait tk a b) s = .next (stillHeld s tk)) ∧
      (y.phase ≠ (operand s b).toNat % 16 →
        exec (.wmwait tk a b) s =
          .next (retire (reached s) (acquire (modCore w c fun e => settle e (kindOf s.cur) (drainedBy e (spOff va))) s.cur)
            s.cur tk {})))

/-! ### Vectors (chapter 07) -/

/-- VTYPE as the word issues (R147, R154). -/
def Sys2Proof.Claims.vt (s : State) : VCtl := vctl (me s).vtype
/-- Lane i is active under the mask field (R149). -/
def Sys2Proof.Claims.on (s : State) (m : BitVec 2) (i : Nat) : Bool := bitAt (readM (me s) m.toNat) i
/-- Lane i of a vector field at VTYPE's width. -/
def Sys2Proof.Claims.elem (s : State) (r : Reg) (i : Nat) : Nat := lane (tyBits (vt s).ty) (voperand s r) i
/-- A vector of VTYPE's lanes. -/
def Sys2Proof.Claims.lanes (s : State) (f : Nat → Nat) : VWord :=
  ofLanes (tyBits (vt s).ty) ((List.range (tyLanes (vt s).ty)).map f)
/-- A vector result lands `lat` slots later under a mask of bits, and the word retires (R50, R149). -/
def Sys2Proof.Claims.vlanding (s : State) (tk : Tok) (d : Reg) (v mask : VWord) (lat : Nat) : State :=
  let (id, t) := landIn (popped s tk) s.cur [wV d.toNat v mask] v lat
  retire (landed s) t s.cur tk { push := .landed id }
/-- The result of a lane form: active lanes are written, the others keep their value. -/
def Sys2Proof.Claims.laneResult (s : State) (tk : Tok) (d : Reg) (m : BitVec 2) (lat : Nat) (f : Nat → Nat) : State :=
  vlanding s tk d (lanes s f) (laneMask (tyBits (vt s).ty) (on s m)) lat
/-- The result of a form that writes the whole register. -/
def Sys2Proof.Claims.wholeResult (s : State) (tk : Tok) (d : Reg) (lat : Nat) (v : VWord) : State := vlanding s tk d v fullMask lat

/-- A lane form of two vector sources: its latency (R51) and its value on a pair of lanes. -/
structure Sys2Proof.Claims.Vec2 where
  ins : Tok → Reg → Reg → Reg → BitVec 2 → Instr
  lat : Nat
  val : VCtl → Nat → Nat → Nat

def Sys2Proof.Claims.vec2Forms : List Vec2 :=
  [⟨.vadd, 2, fun c x y => laneOp c .add 0 x y⟩, ⟨.vsub, 2, fun c x y => laneOp c .sub 0 x y⟩,
   ⟨.vmul, 3, fun c x y => laneOp c .mul 0 x y⟩, ⟨.vmin, 2, fun c x y => laneOp c .min 0 x y⟩,
   ⟨.vmax, 2, fun c x y => laneOp c .max 0 x y⟩,
   ⟨.vand, 2, fun _ x y => x &&& y⟩, ⟨.vor, 2, fun _ x y => x ||| y⟩, ⟨.vxor, 2, fun _ x y => x ^^^ y⟩,
   ⟨.vshl, 2, fun c x y => laneLog (tyBits c.ty) .shl x y⟩, ⟨.vshr, 2, fun c x y => laneLog (tyBits c.ty) .shr x y⟩,
   ⟨.vsra, 2, fun c x y => laneLog (tyBits c.ty) .sra x y⟩]

/-- R149, R155, R156, R158, R159, R168: the lane forms of two vector sources, VPERM and VSEL complete; VSEL writes every lane.
-/
def Obligations.VectorTwoSourceResult : Prop :=
  ∀ (tk : Tok) (d a b : Reg) (m : BitVec 2) (s : State), mayIssue s tk [2] [.v a.toNat, .v b.toNat] [.v d.toNat] = true →
    (∀ f ∈ vec2Forms,
      exec (f.ins tk d a b m) s = .next (laneResult s tk d m f.lat fun i => f.val (vt s) (elem s a i) (elem s b i))) ∧
    exec (.vperm tk d a b m) s = .next (laneResult s tk d m 3 fun i => elem s a (elem s b i % tyLanes (vt s).ty)) ∧
    exec (.vsel tk d a b m) s =
      .next (wholeResult s tk d 2 (lanes s fun i => if on s m i then elem s a i else elem s b i))

/-- A math form (R162) and its number. -/
def Sys2Proof.Claims.mathForms : List ((Tok → Reg → Reg → BitVec 2 → Instr) × Nat) :=
  [(.vexp2, 0), (.vlog2, 1), (.vrcp, 2), (.vrsq, 3), (.vsqrt, 4)]

/-- R149, R155, R158, R162, R168: VMAC reads d too; VADDS and VSLIDE take a scalar; VABS and VNEG one source; the math forms
round the exact function once and raise Illegal Encoding (0x01) where VTYPE names no float. -/
def Sys2Proof.Claims.VectorLaneResult : Prop :=
  ∀ (tk : Tok) (d a b : Reg) (m : BitVec 2) (s : State),
    (mayIssue s tk [2] [.v d.toNat, .v a.toNat, .v b.toNat] [.v d.toNat] = true →
      exec (.vmac tk d a b m) s =
        .next (laneResult s tk d m 4 fun i => laneOp (vt s) .mac (elem s d i) (elem s a i) (elem s b i))) ∧
    (mayIssue s tk [2] [.v a.toNat, .x b.toNat] [.v d.toNat] = true →
      exec (.vadds tk d a b m) s =
        .next (laneResult s tk d m 2 fun i =>
          laneOp (vt s) .add 0 (elem s a i) ((operand s b).toNat % 2 ^ tyBits (vt s).ty)) ∧
      exec (.vslide tk d a b m) s =
        .next (laneResult s tk d m 3 fun i =>
          let j : Int := i + (operand s b).toInt
          if 0 ≤ j ∧ j < tyLanes (vt s).ty then elem s a j.toNat else 0)) ∧
    (mayIssue s tk [2] [.v a.toNat] [.v d.toNat] = true →
      exec (.vabs tk d a m) s = .next (laneResult s tk d m 2 fun i => laneOp (vt s) .abs 0 (elem s a i) 0) ∧
      exec (.vneg tk d a m) s = .next (laneResult s tk d m 2 fun i => laneOp (vt s) .neg 0 (elem s a i) 0) ∧
      ∀ f ∈ mathForms,
        (∀ g, (vt s).ty = .flt g →
          exec (f.1 tk d a m) s =
            .next (laneResult s tk d m 8 fun i => (convertF g (vt s).rnd (mathX f.2 (fltVal g (elem s a i)))).1)) ∧
        (isFlt (vt s).ty = false → exec (f.1 tk d a m) s = faulted s (popped s tk) tk 0x01 0))

/-- R145, R155 to R158: a lane of an integer type of n bits: the exact result, wrapped, or clamped to the type when the
saturation bit is set; shifts by n or more give 0, or the sign. -/
def Sys2Proof.Claims.IntegerLane : Prop :=
  ∀ (c : VCtl) (g : Bool) (n d a b : Nat), c.ty = .int g n → n = 8 ∨ n = 16 ∨ n = 32 → a < 2 ^ n → b < 2 ^ n →
    let v (x : Nat) : Int := if g then (BitVec.ofNat n x).toInt else x
    let lo : Int := if g then -2 ^ (n - 1) else 0
    let hi : Int := if g then 2 ^ (n - 1) - 1 else 2 ^ n - 1
    let out (z : Int) : Nat := (BitVec.ofInt n (if c.sat then max lo (min hi z) else z)).toNat
    laneOp c .add d a b = out (v a + v b) ∧ laneOp c .sub d a b = out (v a - v b) ∧ laneOp c .mul d a b = out (v a * v b) ∧
    laneOp c .min d a b = out (min (v a) (v b)) ∧ laneOp c .max d a b = out (max (v a) (v b)) ∧
    laneOp c .abs d a b = out (v a).natAbs ∧ laneOp c .neg d a b = out (-v a) ∧
    (d < 2 ^ n → laneOp c .mac d a b = out (v d + v a * v b)) ∧
    laneLog n .shl a b = (if n ≤ b then 0 else a <<< b % 2 ^ n) ∧ laneLog n .shr a b = (if n ≤ b then 0 else a >>> b) ∧
    laneLog n .sra a b = ((BitVec.ofNat n a).sshiftRight (min b (n - 1))).toNat

/-- The per-lane vector forms and their lane operations. -/
def Obligations.VectorLaneResults : Prop := VectorLaneResult ∧ IntegerLane

/-- A mask result lands 2 slots later and writes every bit of the mask register (R160). -/
def Sys2Proof.Claims.maskResult (s : State) (tk : Tok) (d : Reg) (p : Nat → Bool) : State :=
  let v : VWord := BitVec.ofNat 2048 (packFields ((List.range (tyLanes (vt s).ty)).map fun i => (1, (p i).toNat)))
  let (id, t) := landIn (popped s tk) s.cur [{ loc := .m d.toNat, val := v, mask := fullMask }] v 2
  retire (landed s) t s.cur tk { push := .landed id }

/-- R154, R160, R161: VCFG writes VTYPE; a compare gives one bit for each lane, 0 where the mask is 0; VMSK sets the bits below
min(read(a), lanes). -/
def Obligations.VectorMaskResult : Prop :=
  ∀ (tk : Tok) (d a b : Reg) (m : BitVec 2) (s : State),
    (mayIssue s tk [2] [] [] = true → ∀ (sat : BitVec 1) (rnd : BitVec 2) (ty : BitVec 4),
      exec (.vcfg tk sat rnd ty) s =
        .next (retire (landed s) (modStream (popped s tk) s.cur fun st => { st with vtype := (sat ++ rnd ++ ty).setWidth 64 })
          s.cur tk {})) ∧
    (mayIssue s tk [2] [.v a.toNat, .v b.toNat] [.m d.toNat] = true →
      exec (.vcmpeq tk d a b m) s = .next (maskResult s tk d fun i => on s m i && laneCmp (vt s).ty 0 (elem s a i) (elem s b i)) ∧
      exec (.vcmpne tk d a b m) s = .next (maskResult s tk d fun i => on s m i && laneCmp (vt s).ty 1 (elem s a i) (elem s b i)) ∧
      exec (.vcmplt tk d a b m) s = .next (maskResult s tk d fun i => on s m i && laneCmp (vt s).ty 2 (elem s a i) (elem s b i)) ∧
      exec (.vcmple tk d a b m) s = .next (maskResult s tk d fun i => on s m i && laneCmp (vt s).ty 3 (elem s a i) (elem s b i))) ∧
    (mayIssue s tk [2] [.x a.toNat] [.m d.toNat] = true →
      exec (.vmsk tk d a) s = .next (maskResult s tk d fun i => decide (i < min (operand s a).toNat (tyLanes (vt s).ty))))

/-- A pair of vector registers lands once; b0 takes the lower one (R29). -/
def Sys2Proof.Claims.vpair (s : State) (tk : Tok) (d : Reg) (p : VWord × VWord) (lat : Nat) : State :=
  let (id, t) := landIn (popped s tk) s.cur [wV d.toNat p.1 fullMask, wV (d.toNat + 1) p.2 fullMask] p.1 lat
  retire (landed s) t s.cur tk { push := .landed id }

/-- R140 to R143, R163 to R168: the conversions, the packings, the plane forms, the reductions, VBCAST, VEXT and VINS complete.
VBSUM and VBFIN want VTYPE at FP32, and raise Illegal Encoding otherwise; VCVT a source type that is not 7, and a part below the
ratio of the widths; it sets VCNV in its issue slot (log entry 82). -/
def Obligations.VectorWholeResult : Prop :=
  ∀ (tk : Tok) (d a b : Reg) (m : BitVec 2) (s : State),
    let c := vt s
    let n := tyLanes c.ty
    (mayIssue s tk [2] [.v a.toNat] [.v d.toNat] = true →
      exec (.vplane tk d a b) s = .next (wholeResult s tk d 6 (vplaneVal true b.toNat (voperand s a))) ∧
      exec (.vunpl tk d a b) s = .next (wholeResult s tk d 6 (vplaneVal false b.toNat (voperand s a))) ∧
      exec (.vrsum tk d a m) s = .next (wholeResult s tk d 6 (vrsumVal c (on s m) (voperand s a))) ∧
      exec (.vrmax tk d a m) s = .next (wholeResult s tk d 6 (vrextVal c false (on s m) (voperand s a))) ∧
      exec (.vrmin tk d a m) s = .next (wholeResult s tk d 6 (vrextVal c true (on s m) (voperand s a))) ∧
      (c.ty = .flt fFP32 → exec (.vbfin tk d a) s = .next (wholeResult s tk d 10 (vbfinVal c.rnd (voperand s a)))) ∧
      (c.ty ≠ .flt fFP32 → exec (.vbfin tk d a) s = faulted s (popped s tk) tk 0x01 0) ∧
      (let src := vtyOf (fld b 2 0)
       let part := fld b 4 3
       let rs := ((cvtLanes src c.ty part).filter fun p => on s m p.2).map fun p =>
         (p.2, convElem c src (lane (tyBits src) (voperand s a) p.1))
       (fld b 2 0 = 7 → exec (.vcvt tk d a b m) s = .next (raiseAt (landed s) s.cur 0x01 0)) ∧
       (fld b 2 0 ≠ 7 → part < max (tyBits src) (tyBits c.ty) / min (tyBits src) (tyBits c.ty) →
         exec (.vcvt tk d a b m) s =
           .next (let t := if rs.any (fun r => r.2.2) then
                modStream (popped s tk) s.cur fun st => { st with sstat := st.sstat ||| 0x200 } else popped s tk
              let v := lanes s fun j => ((rs.find? fun r => r.1 == j).map fun r => r.2.1).getD 0
              let (id, t) := landIn t s.cur [wV d.toNat v (laneMask (tyBits c.ty) fun j => rs.any fun r => r.1 == j)] v 4
              retire (landed s) t s.cur tk { push := .landed id })) ∧
       (fld b 2 0 ≠ 7 → max (tyBits src) (tyBits c.ty) / min (tyBits src) (tyBits c.ty) ≤ part →
         exec (.vcvt tk d a b m) s = faulted s (popped s tk) tk 0x01 0))) ∧
    (mayIssue s tk [2] [.v d.toNat, .v a.toNat] [.v d.toNat] = true →
      (c.ty = .flt fFP32 →
        exec (.vbsum tk d a m) s = .next (wholeResult s tk d 6 (vbsumVal (on s m) (voperand s d) (voperand s a)))) ∧
      (c.ty ≠ .flt fFP32 → exec (.vbsum tk d a m) s = faulted s (popped s tk) tk 0x01 0)) ∧
    (mayIssue s tk [2] [.vs a.toNat 2] [.v d.toNat, .v (d.toNat + 1)] = true →
      let hi := readV (me s) (a.toNat + 1)
      exec (.vpack tk d a b) s = .next (vpair s tk d (vpackVal b.toNat c.rnd (voperand s a) hi) 4) ∧
      exec (.vunpk tk d a b) s = .next (vpair s tk d (vunpkVal b.toNat c.rnd (voperand s a) hi) 4)) ∧
    (mayIssue s tk [2] [.x a.toNat] [.v d.toNat] = true →
      exec (.vbcast tk d a) s = .next (wholeResult s tk d 2 (lanes s fun _ => (operand s a).toNat))) ∧
    (mayIssue s tk [2] [.v a.toNat, .x b.toNat] (if d = 0 then [] else [.x d.toNat]) = true →
      let v := elem s a ((operand s b).toNat % n)
      exec (.vext tk d a b) s =
        .next (landing s tk false d (match c.ty with
          | .int true w => (BitVec.ofNat w v).signExtend 64
          | _ => BitVec.ofNat 64 v) 2)) ∧
    (mayIssue s tk [2] [.x a.toNat, .x b.toNat] [.v d.toNat] = true →
      exec (.vins tk d a b) s =
        .next (vlanding s tk d (lanes s fun _ => (operand s a).toNat)
          (laneMask (tyBits c.ty) fun i => i == (operand s b).toNat % n) 2))

/-- A vector load whose checks passed: an own access lands its lanes 6 slots later, a peer access is sent (R171). -/
def Sys2Proof.Claims.vecLoaded (s : State) (tk : Tok) (d : Reg) (base : Word) (g : Nat) (ls : List LaneAt) : State :=
  let p := popped s tk
  let n := tyBits (vt s).ty
  let w := n / 8
  if bitAt base 23 then
    let (id, t) := landIn p s.cur (laneWrites d n g ls fun o => mnat (coreAt p (coreOf s.cur)).scratch o w) 0 6
    retire (landed s) t s.cur tk { push := .landed id }
  else
    loadSent s p tk ((List.range g).map fun k => .v (d.toNat + k))
      { mkReq p s.cur (.peer (coreOf s.cur / 4 * 4 + fld base 22 21)
          (.vload (ls.flatMap fun l => (List.range w).map fun j => (l.2.2.toNat + j, l.1, w * l.2.1 + j)))) with va := base }
/-- A vector store whose checks passed: own bytes are written lane by lane, a peer store is sent (R172), and either counts as
performed in the issue slot (R152). -/
def Sys2Proof.Claims.vecStored (s : State) (tk : Tok) (d : Reg) (base : Word) (ls : List LaneAt) : State :=
  let p := popped s tk
  let n := tyBits (vt s).ty
  let val (l : LaneAt) : List Byte := leBytes (n / 8) (lane n (readV (me s) (if d.toNat < 28 then d.toNat + l.1 else d.toNat)) l.2.1)
  if bitAt base 23 then
    retire (landed s) (modCore p (coreOf s.cur) fun c =>
      { c with scratch := ls.foldl (fun m l => mwrite m l.2.2.toNat (val l)) c.scratch }) s.cur tk {}
  else
    let r : Req :=
      { mkReq p s.cur (.peer (coreOf s.cur / 4 * 4 + fld base 22 21)
          (.store (ls.flatMap fun l => offBytes l.2.2.toNat (val l)))) with va := base }
    retire (landed s) (sendReq p r).2 s.cur tk {}

/-- R169 to R172: VLD and VST move whole groups at read(a) + read(b); VLDS, VSTS, VGTH and VSCT one register, lane by lane, at a
stride or at indexes times the lane's bytes. Inactive lanes are neither read nor written. A failed check raises its code, with
the base in the VA field for a lane too (log entry 83); a group that a peer sends is one outstanding write (log entry 108). -/
def Obligations.VectorMemoryResult : Prop :=
  ∀ (tk : Tok) (d a b : Reg) (w m : BitVec 2) (s : State),
    let p := popped s tk
    let c := coreOf s.cur
    let n := tyBits (vt s).ty / 8
    let g := 2 ^ w.toNat
    let base := operand s a + operand s b
    let run : List LaneAt := (List.range g).flatMap fun k =>
      ((List.range (tyLanes (vt s).ty)).filter (on s m)).map fun i => (k, i, ((spOff base + 256 * k + n * i : Nat) : Int))
    let one (disp : Nat → Int) : List LaneAt :=
      ((List.range (tyLanes (vt s).ty)).filter (on s m)).map fun i => (0, i, (spOff (operand s a) : Int) + disp i)
    let stride := one fun i => i * (operand s b).toInt
    let index := one fun i => ((elem s b i * n : Nat) : Int)
    let rng (x : Word) (ls : List LaneAt) : List Range := laneRanges (spTarget c x).1 n ls
    (mayIssue s tk [2] [.x a.toNat, .x b.toNat] ((List.range g).map fun k => .v (d.toNat + k)) = true →
      (∀ e, spCheck p c base (256 * g) 64 false = some e → exec (.vld tk d a b w m) s = faulted s p tk e base) ∧
      (spCheck p c base (256 * g) 64 false = none → syncCheck p s.cur (rng base run) [] = .ok → (me s).outst.length < 32 →
        exec (.vld tk d a b w m) s = .next (vecLoaded s tk d base g run))) ∧
    (mayIssue s tk [2] [.vs d.toNat g, .x a.toNat, .x b.toNat] [] = true →
      (∀ e, spCheck p c base (256 * g) 64 true = some e → exec (.vst tk d a b w m) s = faulted s p tk e base) ∧
      (spCheck p c base (256 * g) 64 true = none → syncCheck p s.cur [] (rng base run) = .ok →
        exec (.vst tk d a b w m) s = .next (vecStored s tk d base run))) ∧
    (∀ ld ∈ [((.x b.toNat : Src), stride, Instr.vlds tk d a b m), (.v b.toNat, index, .vgth tk d a b m)],
      mayIssue s tk [2] [.x a.toNat, ld.1] [.v d.toNat] = true →
      (∀ e, lanesCheck p (operand s a) n ld.2.1 false = some e → exec ld.2.2 s = faulted s p tk e (operand s a)) ∧
      (lanesCheck p (operand s a) n ld.2.1 false = none → syncCheck p s.cur (rng (operand s a) ld.2.1) [] = .ok →
        (me s).outst.length < 32 → exec ld.2.2 s = .next (vecLoaded s tk d (operand s a) 1 ld.2.1))) ∧
    (∀ st ∈ [((.x b.toNat : Src), stride, Instr.vsts tk d a b m), (.v b.toNat, index, .vsct tk d a b m)],
      mayIssue s tk [2] [.v d.toNat, .x a.toNat, st.1] [] = true →
      (∀ e, lanesCheck p (operand s a) n st.2.1 true = some e → exec st.2.2 s = faulted s p tk e (operand s a)) ∧
      (lanesCheck p (operand s a) n st.2.1 true = none → syncCheck p s.cur [] (rng (operand s a) st.2.1) = .ok →
        exec st.2.2 s = .next (vecStored s tk d (operand s a) st.2.1)))

/-! ### Commands: the Porter and the plane arrays (chapters 08, 09) -/

/-- The window and the checker let stream `sid` issue a command with these footprints (R106, R112 to R114): no acquire of the
stream is in flight (R280; log entry 126), no command 64 before it is, and, in deterministic mode, every record that it
conflicts with is settled or comes before it. -/
def Sys2Proof.Claims.windowPasses (p : State) (sid : Nat) (e : Engine) (rd wr : List Range) : Prop :=
  let c := coreAt p (coreOf sid)
  acqWaits p sid = false ∧ (∀ k ∈ c.cmds, (c.seq - k.seq).toNat < 64) ∧
  (detOf p (coreOf sid) = true → ∀ r ∈ cmdRecs c, conflicts rd wr r.rd r.wr = true →
    kindOf sid ∈ r.settled ∨ r.seq ∈ closure (cmdRecs c) 64 (cmdPreds p sid e))
/-- What a command reads of the scratchpad at its issue may be read (R110 to R114). -/
def Sys2Proof.Claims.imageOpen (p : State) (sid : Nat) (e : Engine) (rd : List Range) : Prop :=
  let c := coreAt p (coreOf sid)
  acqWaits p sid = false ∧ (∀ k ∈ c.cmds, conflicts rd [] k.rd k.wr = false) ∧
  (detOf p (coreOf sid) = false → peerConflicts p (coreOf sid) rd [] none = []) ∧
  (detOf p (coreOf sid) = true → ∀ r ∈ cmdRecs c, conflicts rd [] r.rd r.wr = true →
    kindOf sid ∈ r.settled ∨ r.seq ∈ closure (cmdRecs c) 64 (cmdPreds p sid e))
/-- The state once a command is issued (R106 to R114): SEQ counts on, and the number it had enters b0 at the next slot; the
command follows the predecessors of its stream and, outside deterministic mode, every command in flight that it conflicts with.
-/
def Sys2Proof.Claims.cmdState (p : State) (sid : Nat) (i : Instr) (ops : List Word) (image : List Byte) (rd wr : List Range)
    (e : Engine) (wm : Option Nat) : State :=
  let c := coreOf sid
  let cr := coreAt p c
  let preds := cmdPreds p sid e
  let foot := (cr.cmds.filter fun k => conflicts rd wr k.rd k.wr).map fun k => k.seq
  let k : Cmd :=
    { seq := cr.seq, sid := sid, ins := i, ops := ops, image := image, rd := rd, wr := wr, engine := e,
      after := (if detOf p c then preds else preds ++ foot).eraseDups,
      waitReq := if detOf p c then [] else peerConflicts p c rd wr wm, prior := memAccesses p sid, next := 0, err := false,
      start := false, hold := none, supp := [], swept := false, lost := [] }
  let r : Rec :=
    { seq := cr.seq, sid := sid, rd := rd, wr := wr, engine := e, preds := preds, wm := wm, drained := false, settled := [] }
  let t := modCore p c fun x => { x with seq := cr.seq + 1, cmds := cr.cmds ++ [k], recs := cmdRecs cr ++ [r] }
  let t := modStream t sid fun st => { st with pred := [] }
  (landIn t sid [] (cr.seq.setWidth 2048) 1).2
/-- A command that a word issues from `p`, the state with its pops taken; its pushes follow its retirement. -/
def Sys2Proof.Claims.commanded (s p : State) (tk : Tok) (i : Instr) (ops : List Word) (image : List Byte) (rd wr : List Range)
    (e : Engine) (wm : Option Nat) : State :=
  retire (landed s) (cmdState p s.cur i ops image rd wr e wm) s.cur tk { push := .retired (coreAt p (coreOf s.cur)).seq }

/-- R106 to R114: what issuing a command does. It waits while the command 64 before it is in flight, and while an acquire of its
stream is (log entry 126); in deterministic mode it
raises Footprint Conflict (0x11) where it conflicts with a command that is neither settled nor ordered before it; else, in both
modes, it is in flight, after its predecessors and, outside deterministic mode, after every command it conflicts with. Memory
and scratchpads do not change. -/
def Obligations.CommandIssue : Prop :=
  ∀ (s : State) (sid : Nat) (i : Instr) (ops : List Word) (image : List Byte) (rd wr : List Range) (e : Engine) (wm : Option Nat),
    let c := coreAt s (coreOf sid)
    let full := acqWaits s sid = true ∨ ∃ k ∈ c.cmds, 64 ≤ (c.seq - k.seq).toNat
    (full → issueCmd s sid i ops image rd wr e wm = .stall s) ∧
    (windowPasses s sid e rd wr →
      issueCmd s sid i ops image rd wr e wm = .done (cmdState s sid i ops image rd wr e wm) { push := .retired c.seq } ∧
      ∃ t k, issueCmd s sid i ops image rd wr e wm = .done t { push := .retired c.seq } ∧
        (coreAt t (coreOf sid)).seq = c.seq + 1 ∧ (coreAt t (coreOf sid)).cmds = c.cmds ++ [k] ∧
        k.seq = c.seq ∧ k.ins = i ∧ k.ops = ops ∧ k.rd = rd ∧ k.wr = wr ∧ k.engine = e ∧ k.next = 0 ∧
        (∀ p ∈ predsOf (streamAt s sid) c.seq, p ∈ k.after) ∧ (∀ p ∈ cmdPreds s sid e, p ∈ k.after) ∧
        (detOf s (coreOf sid) = false → ∀ x ∈ c.cmds, conflicts rd wr x.rd x.wr = true → x.seq ∈ k.after) ∧
        (coreAt t (coreOf sid)).scratch = c.scratch ∧ t.mem = s.mem ∧ (streamAt t sid).pred = [] ∧
        (streamAt t sid).x = (streamAt s sid).x ∧ (∀ j, j ≠ coreOf sid → coreAt t j = coreAt s j)) ∧
    (¬full → detOf s (coreOf sid) = true →
      ∀ r ∈ c.recs, (c.seq - r.seq).toNat < 64 → conflicts rd wr r.rd r.wr = true → kindOf sid ∉ r.settled →
        r.seq ∉ closure (cmdRecs c) 64 (cmdPreds s sid e) →
        issueCmd s sid i ops image rd wr e wm = .fault s 0x11 0)

/-- The operands of a copy: read(d), read(a) and the quad at b. -/
def Sys2Proof.Claims.copyOps (s : State) (d a b : Reg) : List Word := [operand s d, operand s a] ++ quadOf (me s) b
/-- A tensor map at read(a) that a command may read and use, with its Plat check passed (R110, R114, R225, R229). -/
def Sys2Proof.Claims.mapReady (s : State) (tk : Tok) (d a b : Reg) (image : List Byte) (q : State) : Prop :=
  let p := popped s tk
  let ops := copyOps s d a b
  let bs := mread (coreAt p (coreOf s.cur)).scratch (spOff (operand s a)) 64
  let seats := if (tmapOf bs).rag then (coreAt p (coreOf s.cur)).seatMap else []
  let box : Box :=
    { m := tmapOf bs, o0 := (ops.getD 2 0).toInt, o1 := (ops.getD 3 0).toInt, o2 := (ops.getD 4 0).toInt,
      seats := seats, supp := [] }
  ownCheck p s.cur (operand s a) 64 64 false = none ∧ imageOpen p s.cur 4 [⟨coreOf s.cur, spOff (operand s a), 64⟩] ∧
  tmapOk bs = true ∧ (tmapOf bs).base < 2 ^ 56 ∧ boxAligned box = true ∧
  boxInSpace box = true ∧ image = bs ++ seats ∧
  (if (tmapOf bs).chk then platCheck p (dieOf (coreOf s.cur)) (ctxOf p (coreOf s.cur)) (tmapOf bs).plat (tmapOf bs).gen = (.ok, q)
    else q = p)

/-- The box that a command's operands and image name. -/
def Sys2Proof.Claims.boxNamed (ops : List Word) (image : List Byte) : Box :=
  { m := tmapOf (image.take 64), o0 := (ops.getD 2 0).toInt, o1 := (ops.getD 3 0).toInt, o2 := (ops.getD 4 0).toInt,
    seats := image.drop 64, supp := [] }

/-- R220 to R229, R242, R331: the copies are commands of the Porter. CPY moves n bytes, a multiple of 32 from 32 to 2 MiB,
between scratchpads and VAs; TLD, TST and TLDM move the box of a tensor map, PFT fetches its lines, MIG moves pages. A size of
CPY or MIG outside its limits raises Illegal Encoding, and no command is issued. A TST whose box has no sector counts as swept
(R113). -/
def Obligations.CopyResult : Prop :=
  ∀ (tk : Tok) (d a b : Reg) (k : BitVec 2) (s : State), b.toNat % 4 = 0 → b.toNat ≤ 24 →
    let p := popped s tk
    let c := coreOf s.cur
    let ops := copyOps s d a b
    let o (i : Nat) : Word := ops.getD i 0
    let way : List Range := if k.toNat % 2 = 1 then [⟨c, spOff (BitVec.ofNat 64 (fld (o 5) 31 0)), 16⟩] else []
    let wm : Option Nat := if k.toNat % 2 = 1 then some (spOff (BitVec.ofNat 64 (fld (o 5) 31 0))) else none
    let at_ (w : Word) : Nat := (spTarget c w).1
    compOk k.toNat (o 5) = true → compCheck p c k.toNat (o 5) = none →
    (mayIssue s tk [0, 3] [.x d.toNat, .x a.toNat, .xs b.toNat 4] [] = true →
      let n := (o 2).toNat
      let good (w : Word) (va wr : Bool) : Bool :=
        if va then decide (w.toNat + n ≤ 2 ^ 56 ∧ w.toNat % 32 = 0) else (spCheck p c w n 32 wr).isNone
      let sva := bitAt (o 3) 0
      let dva := bitAt (o 3) 1
      (n ≠ 0 → n % 32 = 0 → n ≤ 2 ^ 21 → (o 3).toNat < 4 → o 4 = 0 → good (o 1) sva false = true → good (o 0) dva true = true →
        let rd := if sva then [] else [(⟨at_ (o 1), spOff (o 1), n⟩ : Range)]
        let wr := (if dva then [] else [(⟨at_ (o 0), spOff (o 0), n⟩ : Range)]) ++ way
        windowPasses p s.cur 4 rd wr →
        exec (.cpy tk d a b k) s = .next (commanded s p tk (.cpy tk d a b k) ops [] rd wr 4 wm)) ∧
      (n = 0 ∨ n % 32 ≠ 0 ∨ 2 ^ 21 < n → exec (.cpy tk d a b k) s = faulted s p tk 0x01 0)) ∧
    (∀ image q, mapReady s tk d a b image q →
      let m := tmapOf (image.take 64)
      let map : Range := ⟨c, spOff (o 1), 64⟩
      (mayIssue s tk [0] [.x d.toNat, .x a.toNat, .xs b.toNat 4] [] = true →
        (spCheck p c (o 0) (hull m) 32 true = none → windowPasses q s.cur 4 [map] (⟨at_ (o 0), spOff (o 0), hull m⟩ :: way) →
          exec (.tld tk d a b k) s =
            .next (commanded s q tk (.tld tk d a b k) ops image [map] (⟨at_ (o 0), spOff (o 0), hull m⟩ :: way) 4 wm)) ∧
        (bitAt (o 0) 23 = true → spCheck p c (o 0) (hull m) 32 true = none →
          (∀ r, r < 4 → codeHit p (c / 4 * 4 + r) (spOff (o 0)) (hull m) = false) →
          let wr := (List.range 4).map (fun r => (⟨c / 4 * 4 + r, spOff (o 0), hull m⟩ : Range)) ++ way
          windowPasses q s.cur 4 [map] wr →
          exec (.tldm tk d a b k) s = .next (commanded s q tk (.tldm tk d a b k) ops image [map] wr 4 wm))) ∧
      (mayIssue s tk [3] [.x d.toNat, .x a.toNat, .xs b.toNat 4] [] = true →
        spCheck p c (o 0) (hull m) 32 false = none → windowPasses q s.cur 4 [map, ⟨at_ (o 0), spOff (o 0), hull m⟩] way →
        exec (.tst tk d a b k) s =
          .next (let seq := (coreAt q c).seq
            let t := cmdState q s.cur (.tst tk d a b k) ops image [map, ⟨at_ (o 0), spOff (o 0), hull m⟩] way 4 wm
            retire (landed s) (modCmd t c seq fun x => { x with swept := (boxUnits (boxNamed ops image) 32 true).isEmpty }) s.cur tk
              { push := .retired seq })) ∧
      (d = 0 → k.toNat % 2 = 0 → mayIssue s tk [0] [.x a.toNat, .xs b.toNat 4] [] = true →
        windowPasses q s.cur 4 [map] [] →
        exec (.pft tk a b k) s = .next (commanded s q tk (.pft tk a b k) ops image [map] [] 4 none))) ∧
    (d = 0 → k.toNat % 2 = 0 → mayIssue s tk [0] [.x a.toNat, .xs b.toNat 4] [] = true →
      let page := bufPage p c (o 1)
      let n := (o 2).toNat
      (n ≠ 0 → n ≤ 65535 → (o 3).toNat < 8 → (o 4).toNat < 2 ^ 48 → (o 1).toNat + n * page ≤ 2 ^ 56 → (o 1).toNat % page = 0 →
        (o 1).toNat < 2 ^ 56 → windowPasses p s.cur 4 [] [] →
        exec (.mig tk a b k) s = .next (commanded s p tk (.mig tk a b k) ops (leBytes 8 page).reverse [] [] 4 none)) ∧
      (n = 0 ∨ 65535 < n → exec (.mig tk a b k) s = faulted s p tk 0x01 0))

/-- R183 to R195, R197: the MA forms issue as commands of the matrix engine. A region's checks are those of R180; an MCFG
or MDAT whose operands are outside their limits raises Illegal Encoding. -/
def Sys2Proof.Claims.MatrixIssue : Prop :=
  ∀ (tk : Tok) (t : BitVec 5) (a b : Reg) (bit : BitVec 1) (out : BitVec 5) (s : State), t.toNat < 4 →
    let p := popped s tk
    let c := coreOf s.cur
    let va := operand s a
    let vb := operand s b
    let cmd (r : Out) (i : Instr) (ops : List Word) (wr : List Range) : Prop :=
      windowPasses p s.cur 8 [] wr → r = .next (commanded s p tk i ops [] [] wr 8 none)
    (mayIssue s tk [1] [.x a.toNat, .x b.toNat] [] = true →
      (tcfgOk va vb = true → cmd (exec (.mcfg tk t a b) s) (.mcfg tk t a b) [va, vb] []) ∧
      (tcfgOk va vb = false → exec (.mcfg tk t a b) s = faulted s p tk 0x01 0)) ∧
    (mayIssue s tk [1] [.x a.toNat] [] = true →
      (-32768 ≤ va.toInt ∧ va.toInt ≤ 32767 → cmd (exec (.mdat tk t a) s) (.mdat tk t a) [va] []) ∧
      (va.toInt < -32768 ∨ 32767 < va.toInt → exec (.mdat tk t a) s = faulted s p tk 0x01 0) ∧
      (2 ≤ t.toNat → va.toNat < 2 ^ 35 → cmd (exec (.msmx tk t a) s) (.msmx tk t a) [va] []) ∧
      (ownCheck p s.cur va 32 16 true = none →
        cmd (exec (.mstat tk t a) s) (.mstat tk t a) [va] [⟨c, spOff va, 32⟩]) ∧
      (let g := tcfg (cfgView p c t.toNat)
       let n := g.m * g.n * outBytes out.toNat
       out.toNat < 8 → (bit = 1 → 2 ≤ t.toNat ∧ out.toNat ≠ 7) → ownCheck p s.cur va n (outBytes out.toNat) true = none →
        cmd (exec (.mrd tk t a out bit) s) (.mrd tk t a out bit) [va] [⟨c, spOff va, n⟩])) ∧
    (mayIssue s tk [1] [] [] = true →
      cmd (exec (.mclr tk t bit) s) (.mclr tk t bit) [] [] ∧
      (b.toNat < 4 → cmd (exec (.macc tk t b) s) (.macc tk t b) [] []))

/-- R183, R190, R197, R198: MMA, MMAZ, MMAS and MATT issue on operands whose regions pass R180, unscaled or block-scaled as the
configuration in view says; a ragged product takes the seat map with it. -/
def Sys2Proof.Claims.ProductIssue : Prop :=
  ∀ (tk : Tok) (t : BitVec 5) (a b : Reg) (bit : BitVec 1) (s : State), t.toNat < 4 →
    let p := popped s tk
    let c := coreOf s.cur
    let g := tcfg (cfgView s c t.toNat)
    let map := (coreAt p c).seatMap
    let good (rs : List (Word × Nat × Nat × Bool)) : Prop := ∀ r ∈ rs, ownCheck p s.cur r.1 r.2.1 r.2.2.1 r.2.2.2 = none
    let cmd (r : Out) (i : Instr) (ops : List Word) (image : List Byte) (rs : List (Word × Nat × Nat × Bool)) : Prop :=
      let rd := rs.map fun r => (⟨c, spOff r.1, r.2.1⟩ : Range)
      windowPasses p s.cur 8 rd [] → r = .next (commanded s p tk i ops image rd [] 8 none)
    (∀ scl : BitVec 1,
      let blk := isBlock g.a || isBlock g.b
      let src (r : Reg) (f : Nat) : Src := if isBlock f then .xs r.toNat 2 else .x r.toNat
      let sa := if isBlock g.a then readX (me s) (a.toNat + 1) else 0
      let sb := if isBlock g.b then readX (me s) (b.toNat + 1) else 0
      let rs := [(operand s a, g.m * aLine g.a g.k, 16, false)] ++
        (if isBlock g.a then [(sa, g.m * scaleLine g.a g.k, 2, false)] else []) ++
        [(operand s b, g.n * bLine g.b g.k, 16, false)] ++
        (if isBlock g.b then [(sb, g.n * scaleLine g.b g.k, 2, false)] else [])
      let ops := [operand s a, sa, operand s b, sb]
      let im := if bit = 1 then map else []
      ((scl = 1 ↔ blk = true) → (blk = true → a.toNat % 2 = 0 ∧ a.toNat ≤ 26 ∧ b.toNat % 2 = 0 ∧ b.toNat ≤ 26) →
        mayIssue s tk [1] [src a g.a, src b g.b] [] = true → good rs →
        cmd (exec (.mma tk t a b scl bit) s) (.mma tk t a b scl bit) ops im rs ∧
        cmd (exec (.mmaz tk t a b scl bit) s) (.mmaz tk t a b scl bit) ops im rs ∧
        cmd (exec (.mmas tk t a b scl bit) s) (.mmas tk t a b scl bit) ops im rs) ∧
      (¬(scl = 1 ↔ blk = true) → (scl = 1 → a.toNat % 2 = 0 ∧ a.toNat ≤ 26 ∧ b.toNat % 2 = 0 ∧ b.toNat ≤ 26) →
        mayIssue s tk [1] [.x a.toNat, .x b.toNat] [] = true →
        exec (.mma tk t a b scl bit) s = faulted s p tk 0x01 0)) ∧
    (2 ≤ t.toNat → b.toNat % 4 = 0 → b.toNat ≤ 24 → mayIssue s tk [1] [.xs b.toNat 4] [] = true →
      let q := quadOf (me s) b
      let gs := tcfg (cfgView p c (t.toNat - 2))
      let go := tcfg (cfgView p c t.toNat)
      let rs := [(q.getD 0 0, gs.m * aLine gs.a gs.k, 16, false), (q.getD 1 0, gs.n * bLine gs.b gs.k, 16, false),
        (q.getD 2 0, go.n * bLine go.b go.k, 16, false)]
      (q.getD 3 0).toNat < 2 ^ 32 → gs.m = go.m → go.k = gs.n → isBlock gs.a = false → isBlock gs.b = false → isBlock go.b = false →
      good rs → cmd (exec (.matt tk t b bit) s) (.matt tk t b bit) q map rs)

/-- The MA forms issue as commands of the matrix engine. -/
def Obligations.MatrixResult : Prop := MatrixIssue ∧ ProductIssue

/-- The command `k` of a core is next and may retire (R108, R110). -/
def Sys2Proof.Claims.retires (s : State) (c : Nat) (k : Cmd) : Prop := cmdAt s c k.seq = some k ∧ cmdReady s c k = true

/-- R104, R105, R108, R113, R117, R221 to R228, R244: a sector of a copy. Before the first one every peer it names must be live,
or Peer Gone (0x40) holds the command. A sector between scratchpads moves 32 bytes, raises Scratchpad Bounds (0x10) where it
would write a code ring (R44), and moves none once its peer was lost (a CPY too: log entry 24). A sector whose writes went to
another package is done when they are answered (R223). Each sector done counts on; its decrements of the waymark are applied by
the command and take effect with its retirement (log entry 19), and a dropped sector sets ERR. A command that is not ready, or
has no sector left, does nothing. -/
def Obligations.PorterSector : Prop :=
  ∀ (s : State) (c : Nat) (k : Cmd),
    (cmdAt s c k.seq = some k → cmdReady s c k = false ∨ sectorCount k ≤ k.next → exec (.porterSector c k.seq) s = .next s) ∧
    (retires s c k → k.engine = 4 → k.next < sectorCount k →
      let live (p : Word × Nat) : Bool := peerLive s c p.2
      (∀ p, k.stage = 0 → k.start = false → (peersOf c k).find? (fun p => !live p) = some p →
        exec (.porterSector c k.seq) s = .next (engineFail s c k.seq 4 0x40 p.1 0xFFFF)) ∧
      (k.stage ≠ 0 →
        (remoteOut s (.cmd c k.seq 4) = true → exec (.porterSector c k.seq) s = .next s) ∧
        (remoteOut s (.cmd c k.seq 4) = false → exec (.porterSector c k.seq) s = .next (sectorDone s c k 1 false))) ∧
      (k.stage = 0 → (k.start = true ∨ (peersOf c k).all live = true) →
        exec (.porterSector c k.seq) s = .next (copySector s c k) ∧
        ∀ tk d a b kind, k.ins = .cpy tk d a b kind → bitAt (k.ops.getD 3 0) 0 = false → bitAt (k.ops.getD 3 0) 1 = false →
          let src := (spTarget c (k.ops.getD 1 0)).1
          let dst := (spTarget c (k.ops.getD 0 0)).1
          let bs := mread (coreAt s src).scratch (spOff (k.ops.getD 1 0) + 32 * k.next) 32
          let off := spOff (k.ops.getD 0 0) + 32 * k.next
          (codeHit s dst off bs.length = false → lostNow s c k = [] →
            exec (.porterSector c k.seq) s =
              .next (sectorDone (modCore s dst fun x => { x with scratch := mwrite x.scratch off bs }) c k 1 false)) ∧
          (codeHit s dst off bs.length = true → lostNow s c k = [] →
            exec (.porterSector c k.seq) s =
              .next (engineFail s c k.seq 4 0x10 (k.ops.getD 0 0 + BitVec.ofNat 64 (32 * k.next)) 0xFFFF)) ∧
          (lostNow s c k ≠ [] → ∃ t, exec (.porterSector c k.seq) s = .next (sectorDone t c k 1 true) ∧ t.mem = s.mem ∧
            ∀ n, (coreAt t n).scratch = (coreAt s n).scratch))) ∧
    (∀ p ∈ peersOf c k, peerLive s c p.2 = false → p.2 ∈ lostNow s c k) ∧ (∀ p ∈ k.lost, p ∈ lostNow s c k) ∧
    (∀ n e, let t := sectorDone s c k n e
      t.mem = s.mem ∧
      (compKind k.ins % 2 = 0 →
        (coreAt t c).cmds = mapIf (fun q => q.seq == k.seq) (fun q =>
            { q with
              next := k.next + 1, start := q.start || !k.start, saw := if k.start then q.saw else peerLegs s c k
              err := q.err || e, stage := 0 })
          (coreAt s c).cmds ∧ ∀ m, (coreAt t m).scratch = (coreAt s m).scratch)) ∧
    (∀ n e, compKind k.ins % 2 = 1 →
      let v := if k.start then s else modCmd s c k.seq fun q => { q with start := true, saw := peerLegs s c k }
      let u := modCmd v c k.seq fun q => { q with next := k.next + 1, err := q.err || e, stage := 0 }
      let w := if e then putWay u c (cmdWay k) { wayAt u c (cmdWay k) with err := true } else u
      sectorDone s c k n e = modCmd w c k.seq fun q => { q with owed := q.owed + n })

/-- R98, R108, R183 to R195, R197, R198, R223, R325, R326, R438: the retirement of a command of the matrix engine has its effect
on its tiles; of a copy whose sectors are done, its decrements take effect (log entry 19) and it adds INC to its semaphore at
CLUSTER, a TLDM to that of every rank not lost, and an add past 2^32 − 1 leaves that semaphore and raises Semaphore Overflow
(0x12; it holds the command while 64 entries wait to be posted, log entry 14); of a bank command, y is written once every row of
W was read, or a row that faults holds the command; of a KVAPP, once its rows are in the pool its increment takes place, a seat
that was evicted makes it retire with KV Evicted (0x49), and an allocation that failed, here or at a lender, with KV Pool Dry
(0x48). A command that retires is in flight no more and its claims end. That a command reads and writes in the move of its
retirement is the model's choice (log entry 22), and so is the agent 4 of a KVAPP's faults (log entry 48). -/
def Obligations.CommandRetire : Prop :=
  ∀ (s : State) (c : Nat) (k : Cmd), retires s c k → remoteOut s (.cmd c k.seq (cmdAgent k.engine)) = false →
    let tile := tileAt s c
    let gone (t : State) : State := endRegion (modCore t c fun x => { x with cmds := x.cmds.filter fun q => q.seq != k.seq }) (agentOf c k.seq)
    let now (t : State) : Prop := exec (.commandRetire c k.seq) s = .next (gone t)
    let o (i : Nat) : Word := k.ops.getD i 0
    let cleared (t : Tile) (neg : Bool) : Tile :=
      { t with
        elems := [], dflt := { Acc.zero with z := neg }, nan := false, sat := false, touched := true, rowB := [], rowL := [] }
    (k.engine = 8 →
      (∀ tk u a b, k.ins = .mcfg tk u a b → now (putTile s c u.toNat { tile u.toNat with cfg := o 0, tscale := o 1, touched := true })) ∧
      (∀ tk u a, k.ins = .mdat tk u a → now (putTile s c u.toNat (tileDatum (tile u.toNat) (o 0).toInt))) ∧
      (∀ tk u neg, k.ins = .mclr tk u neg → now (putTile s c u.toNat (cleared (tile u.toNat) (neg == 1)))) ∧
      (∀ tk u a, k.ins = .msmx tk u a → now (putTile s c u.toNat { tile u.toNat with att := o 0, touched := true })) ∧
      (∀ tk u src, k.ins = .macc tk u src → now (putTile s c u.toNat (tileMacc (tile u.toNat) (tile src.toNat)))) ∧
      (∀ tk u a, k.ins = .mstat tk u a →
        now (modCore s c fun x => { x with scratch := mwrite x.scratch (spOff (o 0)) (tileStat (tile u.toNat) (decide (2 ≤ u.toNat))) })) ∧
      (∀ tk u a out norm, k.ins = .mrd tk u a out norm →
        let r := tileRead (tile u.toNat) out.toNat (norm == 1)
        now (putTile (modCore s c fun x => { x with scratch := mwrite x.scratch (spOff (o 0)) r.1 }) c u.toNat r.2)) ∧
      (∀ tk u a b scl rag,
        let product (x : Tile) (neg : Bool) : Tile :=
          mmaInto s c x k.image (rag == 1) neg (spOff (o 0)) (spOff (o 2)) (spOff (o 1)) (spOff (o 3))
        (k.ins = .mma tk u a b scl rag → now (putTile s c u.toNat (product (tile u.toNat) false))) ∧
        (k.ins = .mmaz tk u a b scl rag → now (putTile s c u.toNat (product (cleared (tile u.toNat) false) false))) ∧
        (k.ins = .mmas tk u a b scl rag → now (putTile s c u.toNat (product (tile u.toNat) true)))) ∧
      (∀ tk u b first, k.ins = .matt tk u b first →
        let r := mattEffect s c k.image (first == 1) (spOff (o 0)) (spOff (o 1)) (spOff (o 2)) (fld (o 3) 31 0) (tile (u.toNat - 2))
          (tile u.toNat)
        now (putTile (putTile s c (u.toNat - 2) r.1) c u.toNat r.2) ∧
        r.1 = mmaInto s c (cleared (tile (u.toNat - 2)) false) k.image false false (spOff (o 0)) (spOff (o 1)) 0 0)) ∧
    (k.engine = 4 → sectorCount k ≤ k.next → migWaits s c k.seq = false →
      let owed := if k.owed = 0 then s else wayLast s c k k.owed
      (compKind k.ins < 2 → now owed) ∧
      (2 ≤ compKind k.ins → isTldm k.ins = false →
        let w := k.ops.getD 5 0
        let sem := fld w 36 32
        let t := gone owed
        (semAt s c sem).count.toNat + fld w 55 40 < 2 ^ 32 →
        exec (.commandRetire c k.seq) s =
          .next (testWaiters (putSem t c sem
            { count := (semAt t c sem).count + BitVec.ofNat 32 (fld w 55 40), tag := widen (semAt t c sem).tag .cluster,
              settle := (semAt t c sem).settle ++ [k.seq] }) c sem)) ∧
      (2 ≤ compKind k.ins →
        let w := k.ops.getD 5 0
        let sem := fld w 36 32
        let inc := fld w 55 40
        let ranks := if isTldm k.ins then
            ((List.range 4).map fun r => c / 4 * 4 + r).filter fun r => !peerLost s c k r && !k.lost.contains r
          else [c]
        let spills (t : State) (r : Nat) : Bool := decide (2 ^ 32 ≤ (semAt t r sem).count.toNat + inc)
        let add (t : State) (r : Nat) : State :=
          if spills t r then
            (if canRaise t (dieOf c) then raise t (coreFault c 4 k.seq 0x12 0 t) else setExstat t (dieOf c) 8)
          else testWaiters (putSem t r sem
            { count := (semAt t r sem).count + BitVec.ofNat 32 inc, tag := widen (semAt t r sem).tag .cluster,
              settle := (semAt t r sem).settle ++ if r = c then [k.seq] else [] }) r sem
        (canRaise s (dieOf c) = true ∨ (∀ r ∈ ranks, spills s r = false) →
          exec (.commandRetire c k.seq) s = .next (ranks.foldl add (gone owed))) ∧
        (canRaise s (dieOf c) = false → (∃ r ∈ ranks, spills s r = true) →
          exec (.commandRetire c k.seq) s = .next (setExstat s (dieOf c) 8)))) ∧
    (k.engine = 6 → ∀ acc : Bool, ((∃ tk b, k.ins = .bgemva tk b) ↔ acc = true) →
      let y := spOff (o 3)
      let d : BitVec 16 := BitVec.ofNat 16 (fld (o 4) 31 16)
      let fmt := fld (o 4) 4 0
      let g : TCfg := { rowBase := 0, k := bankC k.ops, n := 1, m := 1, rnd := 0, pa := sigWidth fmt, a := fmt, b := 0x0C }
      let m := (coreAt s c).scratch
      (∀ e t, bankRows s c k.ops = (.error e, t) → exec (.commandRetire c k.seq) s = .next (engineFail t c k.seq 6 e.1 e.2 0xFFFF)) ∧
      (∀ rs t, bankRows s c k.ops = (.ok rs, t) →
        let cell (q i : Nat) : Nat :=
          bankCell d g (if acc then some (mnat m (y + (q * bankR k.ops + i) * 4) 4) else none) (rs.getD i ([], [])).1
            (mread m (spOff (o 2) + q * bankXs (bankC k.ops)) (2 * bankC k.ops)) (rs.getD i ([], [])).2
        let out := (List.range (bankSeats k.ops)).flatMap fun q => (List.range (bankR k.ops)).flatMap fun i => leBytes 4 (cell q i)
        exec (.commandRetire c k.seq) s = .next (gone (modCore t c fun x => { x with scratch := mwrite x.scratch y out })))) ∧
    (k.engine = 9 →
      let seat := fld (o 1) 17 9
      (seatEvicted s seat = true → exec (.commandRetire c k.seq) s = .next (kvSeatFault s c k 0x49)) ∧
      let dry (t : State) : State := kvSeatFault (modCmd t c k.seq fun q => { q with err := true }) c k 0x48
      let rows := kvRows (kvBegin s c k) c k (fld (o 1) 6 0 - k.next)
      (seatEvicted s seat = false → k.err = true → exec (.commandRetire c k.seq) s = .next (dry s)) ∧
      (seatEvicted s seat = false → k.err = false → k.supp.contains seat = true →
        exec (.commandRetire c k.seq) s = .next (kvFinish s c k)) ∧
      (seatEvicted s seat = false → k.err = false → k.supp.contains seat = false →
        exec (.commandRetire c k.seq) s =
          .next (match rows.1 with
            | .next => kvFinish rows.2 c k
            | .wait => rows.2
            | .dry => dry rows.2
            | .fault e va => engineFail rows.2 c k.seq 4 e va seat)) ∧
      (∀ code, code = 0x48 ∨ code = 0x49 → canRaise s (dieOf c) = true → remoteOut s (.cmd c k.seq 4) = false → compInc (o 3) = 0 →
        let t := if code = 0x48 then { s with coach := { s.coach with dry := s.coach.dry ++ [(seat, dieOf c)] } } else s
        kvSeatFault s c k code = gone (raise t { coreFault c 4 k.seq code 0 s with seat := seat })) ∧
      (∀ code, canRaise s (dieOf c) = false → kvSeatFault s c k code = setExstat s (dieOf c) 8) ∧
      (∀ t, remoteOut t (.cmd c k.seq 4) = false → fld (o 3) 55 40 = 0 → incHeld t c c (compSem (o 3)) 0 = false →
        kvFinish t c k = gone t))

/-! ### Order, barriers, legs and circuits at issue (chapters 09, 11, 14, 15) -/

/-- R116, R230 to R233: WAITSEQ is held while n lies ahead of SEQ or a command n of the last 64 is in flight, and then settles
it and acquires; PRED names the predecessors of the next command; DRAIN is held while a Porter command older than its reach
still has to write on its path; a path above 4 is an illegal encoding. -/
def Obligations.OrderResult : Prop :=
  ∀ (tk : Tok) (a b : Reg) (bv av : BitVec 1) (path : BitVec 3) (s : State),
    let c := coreOf s.cur
    let w := waited s tk
    (mayIssue s tk computeStreams [.x a.toNat] [] = true →
      let n : BitVec 32 := (operand s a).setWidth 32
      let seq := (coreAt w c).seq
      let waits := (n - seq).toNat < 2 ^ 31 ∨ ((seq - n).toNat ≤ 64 ∧ ∃ k ∈ (coreAt w c).cmds, k.seq = n)
      (waits → exec (.waitseq tk a) s = .next (stillHeld s tk)) ∧
      (¬waits →
        exec (.waitseq tk a) s =
          .next (retire (reached s) (acquire (modCore w c fun x => settle x (kindOf s.cur) [n]) s.cur) s.cur tk {}))) ∧
    (mayIssue s tk computeStreams ((if av = 1 then [.x a.toNat] else []) ++ (if bv = 1 then [.x b.toNat] else [])) [] = true →
      exec (.pred tk a b bv av) s =
        .next (retire (landed s) (modStream (popped s tk) s.cur fun st =>
          { st with pred := (if av = 1 then [(operand s a).setWidth 32] else []) ++
            (if bv = 1 then [(operand s b).setWidth 32] else []) }) s.cur tk {})) ∧
    (mayIssue s tk computeStreams [] [] = true →
      let seq := reachedSeq w s.cur
      let waits := ∃ k ∈ (coreAt w c).cmds, k.engine = 4 ∧ 1 ≤ (seq - k.seq).toNat ∧ (seq - k.seq).toNat ≤ 64 ∧
        (restOf k).any (onPath w c path.toNat) = true
      (4 < path.toNat → exec (.drain tk path) s = .next (raiseAt (landed s) s.cur 0x01 0)) ∧
      (path.toNat ≤ 4 → waits → exec (.drain tk path) s = .next (stillHeld s tk)) ∧
      (path.toNat ≤ 4 → ¬waits → exec (.drain tk path) s = .next (retire (reached s) w s.cur tk {})))

/-- R245 to R247: CBAR: with no other core of the gang in the cluster it issues once its release at CLUSTER is complete; else it
arrives, and takes no pop; it issues, and acquires, once its round is complete. -/
def Sys2Proof.Claims.BarrierResult : Prop :=
  ∀ (tk : Tok) (n : BitVec 2) (s : State), mayIssue s tk computeStreams [] [] = true →
    let c := coreOf s.cur
    let w := waited s tk
    let b := barrierAt w c n.toNat
    let free := quiet w s.cur (fixedScope w c 2)
    (s.cur ∈ b.done →
      exec (.cbar tk n) s =
        .next (retire (reached s) (acquire (putBarrier w c n.toNat { b with done := b.done.filter fun q => q != s.cur }) s.cur)
          s.cur tk {})) ∧
    (s.cur ∉ b.done → b.here = none → free = true → barrierCores w c = [c] →
      exec (.cbar tk n) s = .next (retire (reached s) (acquire w s.cur) s.cur tk {})) ∧
    (s.cur ∉ b.done → b.here = none → free = true → barrierCores w c ≠ [c] →
      exec (.cbar tk n) s =
        .next (endRegion (undoPops (completeRound (putBarrier w c n.toNat { b with here := some s.cur }) c n.toNat) (reached s) s.cur tk)
          s.cur)) ∧
    (s.cur ∉ b.done → b.here.isSome = true ∨ free = false → exec (.cbar tk n) s = .next (stillHeld s tk))

/-- R246: a round of a barrier completes when every core of the gang in the cluster has arrived, and in no other case; then
every stream that arrived may issue, and no arrival is left pending. -/
def Sys2Proof.Claims.BarrierRound : Prop :=
  ∀ (s : State) (c n : Nat), n < 4 →
    let ps := barrierCores s c
    let t := completeRound s c n
    ((∃ m ∈ ps, (barrierAt s m n).here = none) → t = s) ∧
    ((∀ m ∈ ps, (barrierAt s m n).here ≠ none) → ps.Nodup →
      (∀ m ∈ ps, (barrierAt t m n).here = none ∧
        (barrierAt t m n).done = (barrierAt s m n).done ++ (barrierAt s m n).here.toList) ∧
      (∀ m, m ∉ ps → coreAt t m = coreAt s m) ∧ t.mem = s.mem ∧ t.streams = s.streams)

/-- R245 to R247: CBAR, and the round of a barrier. -/
def Obligations.BarrierResults : Prop := BarrierResult ∧ BarrierRound

/-- R333 to R338: GSYNC is held until the gang's tick reaches read(a). SPAWN reads its 64-byte record, waits for room in the
record's queue and for its release at PACKAGE, adds 1 to the join object's count, and puts an entry at the queue's tail: the
record, the context, and DTICK of the queue's die, of die 0 for a caravan (log entry 28). A record outside R335 and R341 raises
Illegal Encoding, and a queue in the window of a link that is not trained Peer Gone (0x40, R462), before the add. JOINW is held
while the count at read(a) is not 0, and then acquires and writes the object's result. A join object in another package is
counted by a tracked request, whose answer the word waits for (R457; log entry 99). Both wait for an acquire of their stream in
flight (log entry 126). -/
def Obligations.SpawnJoinResult : Prop :=
  ∀ (tk : Tok) (d a : Reg) (s : State),
    let c := coreOf s.cur
    let w := waited s tk
    (mayIssue s tk computeStreams [.x a.toNat] [] = true →
      let v := operand s a
      let tick := ((gangOfCore w c).map fun g => g.tick.toNat).getD 0
      (v.toNat < 2 ^ 48 → v.toNat ≤ tick → exec (.gsync tk a) s = .next (retire (reached s) w s.cur tk {})) ∧
      (v.toNat < 2 ^ 48 → tick < v.toNat → exec (.gsync tk a) s = .next (stillHeld s tk)) ∧
      (2 ^ 48 ≤ v.toNat → exec (.gsync tk a) s = .next (raiseAt (stillHeld s tk) s.cur 0x01 0)) ∧
      (ownCheck w s.cur v 64 64 false = none → acqWaits w s.cur = true → exec (.spawn tk a) s = .next (stillHeld s tk)) ∧
      (ownCheck w s.cur v 64 64 false = none → acqWaits w s.cur = false →
        let bs := ownRead w s.cur (spOff v) 64
        let q := recQueue bs
        let u := endRegion w s.cur
        (recordOk bs = false → exec (.spawn tk a) s = .next (raiseAt (stillHeld s tk) s.cur 0x01 0)) ∧
        (recordOk bs = true → ringRoom w (lqRegs q.1 q.2) = false → exec (.spawn tk a) s = .next (stillHeld s tk)) ∧
        (recordOk bs = true → ringRoom w (lqRegs q.1 q.2) = true → quiet w s.cur (fixedScope w c 5) = true →
          let join : Word := BitVec.ofNat 64 (recJoin bs)
          let pa := ringPa u (lqRegs q.1 q.2) 128 (ringTail u (lqRegs q.1 q.2))
          (hostUp u pa = false → exec (.spawn tk a) s = .next (raiseAt (undoPops u (reached s) s.cur tk) s.cur 0x40 (BitVec.ofNat 64 pa))) ∧
          (hostUp u pa = true →
          let put (t : State) : Out :=
            .next (retire (reached s) (ringPush t (lqRegs q.1 q.2)
              (queueEntry bs (ctxOf t c) (fld (areg t (dtickPa q.1)) 47 0))) s.cur tk {})
          (join = 0 → exec (.spawn tk a) s = put u) ∧
          (join ≠ 0 → vaOk join = true → join.toNat % 16 = 0 →
            ∀ x t, access u (tlbId s.cur) (xctx u s.cur) join .wr = (.ok x, t) → (∀ l o, placeOf x.pa ≠ .host l o) → isFabric t x.pa = false →
            let n := leNat (paRead t x.pa 4 (leafKey x.via.leaf))
            n + 1 < 2 ^ 32 →
            exec (.spawn tk a) s =
              put (l1Drop (paWrite t x.pa (leBytes 4 (n + 1)) (leafKey x.via.leaf)) c (localPa t x.pa))) ∧
          (join ≠ 0 → vaOk join = true → join.toNat % 16 = 0 →
            ∀ x t, access u (tlbId s.cur) (xctx u s.cur) join .wr = (.ok x, t) → (∀ l o, placeOf x.pa ≠ .host l o) → isFabric t x.pa = true →
            let o : RemoteOwner := .spawn s.cur (streamAt t s.cur).pc
            (remoteOut t o = true → exec (.spawn tk a) s = .next (undoPops t (reached s) s.cur tk)) ∧
            (∀ v, remoteOut t o = false → workDone (streamAt t s.cur) = false → sendRemote t (srcGlobal t s.cur) x.pa [] o = some v →
              exec (.spawn tk a) s = .next (undoPops (begun v s.cur) (reached s) s.cur tk))))))) ∧
    (mayIssue s tk computeStreams [.x a.toNat] (if d = 0 then [] else [.x d.toNat]) = true →
      let va := operand s a
      (acqWaits w s.cur = true → exec (.joinw tk d a) s = .next (stillHeld s tk)) ∧
      (acqWaits w s.cur = false → vaOk va = true → va.toNat % 16 ≠ 0 →
        exec (.joinw tk d a) s = .next (raiseAt (stillHeld s tk) s.cur 0x24 va)) ∧
      (acqWaits w s.cur = false → vaOk va = true → va.toNat % 16 = 0 → ∀ x u, access w (tlbId s.cur) (xctx w s.cur) va .rd = (.ok x, u) →
        let bs := paRead u x.pa 8 (leafKey x.via.leaf)
        let u := { u with freeCtr := u.freeCtr + 1 }
        (bfld bs 0 4 ≠ 0 → exec (.joinw tk d a) s = .next (undoPops u (reached s) s.cur tk)) ∧
        (bfld bs 0 4 = 0 →
          exec (.joinw tk d a) s =
            .next (let v : Word := BitVec.ofNat 64 (if bfld bs 5 1 % 2 = 1 then bfld bs 4 1 else 0)
              let (id, t) := landIn (acquire u s.cur) s.cur [wX d.toNat v] (v.setWidth 2048) 1
              retire (reached s) t s.cur tk { push := .landed id }))))

/-- R255, R256, R324 to R330: CSND is held until its slot comes and a credit is there, and then sends its value with one credit
less; while it waits it keeps its slot as long as that names q; a core
outside the gang or without a slot raises Peer Gone (0x40) or Schedule Miss (0x41). CRCV is served at once where a value waits.
BCFG writes the configuration of the bank unit; BGEMV and BGEMVA issue commands of it. -/
def Obligations.CircuitBankResult : Prop :=
  ∀ (tk : Tok) (d a b : Reg) (s : State),
    let c := coreOf s.cur
    let p := popped s tk
    let w := waited s tk
    (mayIssue s tk [3] [.x a.toNat, .x b.toNat] [] = true →
      let q := (operand s a).toNat
      (63 < q → exec (.csnd tk a b) s = .next (raiseAt (stillHeld s tk) s.cur 0x23 (BitVec.ofNat 64 q))) ∧
      (q ≤ 63 → slotAssigned w c q = false → exec (.csnd tk a b) s = .next (raiseAt (stillHeld s tk) s.cur 0x41 0)) ∧
      (q ≤ 63 → slotAssigned w c q = true → gangMember w c q = false →
        exec (.csnd tk a b) s = .next (raiseAt (stillHeld s tk) s.cur 0x40 (BitVec.ofNat 64 q))) ∧
      (q ≤ 63 → slotAssigned w c q = true → gangMember w c q = true →
        let slot := csndSlotOf w c q
        let ctr := (dieAt w (dieOf c)).slotCtr.toNat
        let now := creditOf w c q ≠ 0 ∧ slot = ctr
        (¬now →
          exec (.csnd tk a b) s =
            .next (undoPops (modCore w c fun x => { x with csndSlot := if slot = ctr then none else some slot }) (reached s)
              s.cur tk)) ∧
        (now →
          exec (.csnd tk a b) s =
            .next (retire (reached s) (modDie (modCore w c fun x =>
                { x with credits := aput x.credits q (creditOf w c q - 1), csndSlot := none })
              (dieOf c) fun x => { x with circuits := x.circuits ++ [(c % 64, q, operand s b)] }) s.cur tk {}))) ∧
      (let v := operand s a
       let u := operand s b
       let ok := v.toNat < 2 ^ 32 ∧ fld v 15 11 = 0 ∧ fld v 7 5 = 0 ∧ fld v 4 0 ∈ [0x09, 0x0C, 0x11, 0x12, 0x18, 0x19, 0x1A]
       (ok → u.toNat < 2 ^ 56 →
         exec (.bcfg tk a b) s =
           .next (retire (landed s) (modCore p c fun x => { x with bankCfg := v, bankScale := u }) s.cur tk {})) ∧
       (ok → 2 ^ 56 ≤ u.toNat → exec (.bcfg tk a b) s = faulted s p tk 0x23 u) ∧
       (¬ok → exec (.bcfg tk a b) s = faulted s p tk 0x01 0))) ∧
    (mayIssue s tk [0] [.x a.toNat] (if d = 0 then [] else [.x d.toNat]) true = true →
      let q := (operand s a).toNat
      (63 < q → exec (.crcv tk d a) s = faulted s p tk 0x23 (BitVec.ofNat 64 q)) ∧
      (q ≤ 63 → gangMember p c q = false → exec (.crcv tk d a) s = faulted s p tk 0x40 (BitVec.ofNat 64 q)) ∧
      (q ≤ 63 → gangMember p c q = true →
        exec (.crcv tk d a) s =
          .next (let (oid, t) := addOutst p s.cur (if d = 0 then [] else [.x d.toNat])
            let (_, t) := sendReq t { mkReq p s.cur (.crcv q) with outst := some oid }
            retire (landed s) (serveCrcv t c q) s.cur tk { push := .written oid }))) ∧
    (b.toNat % 4 = 0 → b.toNat ≤ 24 → mayIssue s tk [3] [.xs b.toNat 4] [] = true →
      let cfg := (coreAt p c).bankCfg
      let ops := quadOf (me s) b ++ [cfg, (coreAt p c).bankScale]
      let o (i : Nat) : Word := ops.getD i 0
      let nx := bankSeats ops * bankXs (bankC ops)
      let ny := bankSeats ops * bankR ops * 4
      let x : Range := ⟨c, spOff (o 2), nx⟩
      let y : Range := ⟨c, spOff (o 3), ny⟩
      fld cfg 4 0 ∈ [0x09, 0x0C, 0x11, 0x12, 0x18, 0x19, 0x1A] → (o 1).toNat < 2 ^ 36 → (o 0).toNat < 2 ^ 56 →
      (o 0).toNat % 4096 = 0 → ownCheck p s.cur (o 2) nx 16 false = none → ownCheck p s.cur (o 3) ny 16 true = none →
        (windowPasses p s.cur 6 [x] [y] → exec (.bgemv tk b) s = .next (commanded s p tk (.bgemv tk b) ops [] [x] [y] 6 none)) ∧
        (windowPasses p s.cur 6 [x, y] [y] →
          exec (.bgemva tk b) s = .next (commanded s p tk (.bgemva tk b) ops [] [x, y] [y] 6 none)))

/-! ### The package's forms and the request forms (chapters 18, 19) -/

/-- R385 to R387, R229: PLATR gives an entry, as the die's copy holds it, to the scratchpad and its low word to d. PLATW writes
a well-formed entry with the generation after the old one and holds its stream until every die holds it. An index above 15 or a
malformed entry raises Illegal Encoding; an entry that a REPLAT names waits. -/
def Obligations.PlatResult : Prop :=
  ∀ (tk : Tok) (d a b : Reg) (s : State),
    let c := coreOf s.cur
    let p := popped s tk
    let i := (operand s a).toNat
    let va := operand s b
    let ctx := ctxOf p c
    let rng : List Range := [⟨c, spOff va, 64⟩]
    let locs : List Loc := if d = 0 then [] else [.x d.toNat]
    (mayIssue s tk [0] [.x a.toNat, .x b.toNat] locs = true →
      (16 ≤ i → exec (.platr tk d a b) s = faulted s p tk 0x01 0) ∧
      (i < 16 → ownCheck p s.cur va 64 64 true = none → syncCheck p s.cur [] rng = .ok →
        let e := platEntry p (dieOf c) ctx i
        exec (.platr tk d a b) s =
          .next (oneLands s (ownWrite e.2 s.cur (spOff va) (leBytes 64 e.1.toNat)) tk d (e.1.setWidth 64)))) ∧
    (mayIssue s tk [3] [.x a.toNat, .x b.toNat] locs = true →
      (16 ≤ i → exec (.platw tk d a b) s = faulted s p tk 0x01 0) ∧
      (i < 16 → ownCheck p s.cur va 64 64 false = none → syncCheck p s.cur rng [] = .ok →
        let e : BitVec 512 := BitVec.ofNat 512 (leNat (ownRead p s.cur (spOff va) 64))
        let old := platMem p ctx i
        let new := setGen e (platGen old + 1)
        (platOk e = false → exec (.platw tk d a b) s = faulted s p tk 0x01 0) ∧
        (platOk e = true → replatNames p ctx i = false →
          exec (.platw tk d a b) s =
            .next (retire (landed s)
              (modStream
                { p with
                  nextId := p.nextId + 1, plats := aput p.plats (16 * ctx + i) new
                  platUpds := p.platUpds ++ [{ id := p.nextId, key := 16 * ctx + i, old := old, dies := List.range 8 }] }
                s.cur fun st => { st with phase := .holding (.plat p.nextId d (new.setWidth 64)) })
              s.cur tk { push := .holdEnds })) ∧
        (platOk e = true → replatNames p ctx i = true → exec (.platw tk d a b) s = .next (undoPops p (landed s) s.cur tk))))

/-- The checks of the selected faces of a BNDX, in ascending direction: the first that stops the word, else the entries (R397),
of each of which one version is used throughout (R387). -/
def Sys2Proof.Claims.faceChecks (s : State) (sid : Nat) (img : List Byte) (fs : List Nat) :
    Option Res × List (Nat × BitVec 512) × State :=
  fs.foldl (fun acc f =>
    match acc.1 with
    | some _ => acc
    | none =>
      let known := (acc.2.1.find? fun q => facePlat (faceOf img q.1) == facePlat (faceOf img f)).map fun q => q.2
      match faceCheck acc.2.2 sid (faceOf img f) known with
      | (none, _, s) => (some (.stall s), acc.2.1, s)
      | (some (some c), _, s) => (some (.fault s c (faceSrc (faceOf img f))), acc.2.1, s)
      | (some none, e, s) => (none, acc.2.1 ++ [(f, e)], s)) (none, [], s)

/-- R388, R393 to R399: REPLAT of two well-formed, alike entries by the caravan that their die mask names is a command of the
routers, which opens the caravan's REPLAT or joins it; it waits for another caravan's and for a PLATW of one of them in flight,
and else raises Layout Mismatch (0x39). BNDCFG gives the die a face set that no BNDX in flight uses; BNDX is a command of the
Bounds engine over its selected faces, and the first that is not in order stops the word (BNDCFG waits for an acquire of its
stream in flight, log entry 126; a box that fails a check of R90 is out of bounds, log entry 122). GMC sends its 32 bytes to
every member of a group whose generation and context match, and else raises Peer Gone (0x40): as one packet for each member from
its issue on, which is the model's choice (log entry 49). -/
def Obligations.PackageIssue : Prop :=
  ∀ (tk : Tok) (a b : Reg) (s : State),
    let c := coreOf s.cur
    let p := popped s tk
    let va := operand s b
    let n := (operand s a).toNat
    (mayIssue s tk [3] [.x a.toNat, .x b.toNat] [] = true →
      (∀ x, gangOfCore p c = some x → n < 16 → va.toNat < 16 →
        let ctx := ctxOf p c
        let e := platMem p ctx n
        let f := platMem p ctx va.toNat
        let busy := (∃ r ∈ p.replats, some r.caravan ≠ x.caravan ∧ r.ctx = ctx ∧
            (r.src = n ∨ r.src = va.toNat ∨ r.dst = n ∨ r.dst = va.toNat)) ∨
          ∃ u ∈ p.platUpds, u.key = 16 * ctx + n ∨ u.key = 16 * ctx + va.toNat
        let mine := p.replats.find? fun r => some r.caravan == x.caravan && r.ctx == ctx
        let alike := operand s a ≠ va ∧ platValid e = true ∧ platValid f = true ∧ platMask e = platMask f ∧ platFmt e = platFmt f ∧
          platTensor e = platTensor f ∧ (∀ i < 5, platD e i = platD f i) ∧ x.caravan ≠ none ∧ recMask x.record = platMask e
        let part : Part := (dieOf c, c, (coreAt p c).seq, BitVec.ofNat 8 (platGen e), BitVec.ofNat 8 (platGen f))
        let t := cmdState p s.cur (.replat tk a b) [operand s a, va, (me s).pc.setWidth 64] [] [] [] 10 none
        let after : After := { push := .retired (coreAt p c).seq }
        (busy → exec (.replat tk a b) s = .next (undoPops p (landed s) s.cur tk)) ∧
        (¬busy → ¬alike → exec (.replat tk a b) s = faulted s p tk 0x39 0) ∧
        (¬busy → alike → windowPasses p s.cur 10 [] [] → mine = none →
          exec (.replat tk a b) s =
            .next (let r : Replat :=
                { id := t.nextId, ctx := ctx, caravan := x.caravan.getD 0, src := n, dst := va.toNat, parts := [part]
                  stepping := false, missed := false, done := [] }
              retire (landed s) { t with nextId := t.nextId + 1, replats := p.replats ++ [r] } s.cur tk after)) ∧
        (∀ r, ¬busy → alike → mine = some r →
          ((∃ q ∈ r.parts, q.1 = dieOf c) → exec (.replat tk a b) s = faulted s p tk 0x39 0) ∧
          ((∀ q ∈ r.parts, q.1 ≠ dieOf c) → windowPasses p s.cur 10 [] [] →
            exec (.replat tk a b) s =
              .next (retire (landed s) { t with
                replats := mapIf (fun q => q.id == r.id) (fun q => { q with parts := q.parts ++ [part] }) p.replats } s.cur tk after)))) ∧
      (16 ≤ n ∨ 16 ≤ va.toNat → exec (.replat tk a b) s = faulted s p tk 0x01 0) ∧
      (3 < n → exec (.bndcfg tk a b) s = faulted s p tk 0x01 0) ∧
      (n ≤ 3 → ownCheck p s.cur va 128 128 false = none → waitsForAcquire s tk (.bndcfg tk a b)) ∧
      (n ≤ 3 → ownCheck p s.cur va 128 128 false = none → acqWaits p s.cur = false →
        let bs := ownRead p s.cur (spOff va) 128
        (faceImageOk bs = false → exec (.bndcfg tk a b) s = faulted s p tk 0x01 0) ∧
        (faceImageOk bs = true → setInUse p (dieOf c) n = false →
          exec (.bndcfg tk a b) s =
            .next (retire (landed s) (modDie p (dieOf c) fun x =>
              { x with faces := aput x.faces n (BitVec.ofNat 1024 (leNat bs)), faceTag := aput x.faceTag n (((coreAt p c).gang).getD 0) })
              s.cur tk {}))) ∧
      (3 < n ∨ 64 ≤ va.toNat → exec (.bndx tk a b) s = faulted s p tk 0x01 0) ∧
      (n ≤ 3 → va.toNat < 64 →
        let img := faceSet p (dieOf c) (((coreAt p c).gang).getD 0) n
        let checks := faceChecks p s.cur img (selected img va.toNat)
        (∀ u code w, checks.1 = some (.fault u code w) → exec (.bndx tk a b) s = faulted s u tk code w) ∧
        (∀ u, checks.1 = some (.stall u) → exec (.bndx tk a b) s = .next (undoPops u (landed s) s.cur tk)) ∧
        (∀ es t, checks = (none, es, t) →
          let rd := es.map fun q => (⟨c, spOff (faceSrc (faceOf img q.1)), faceBytes q.2 (faceDir (faceOf img q.1))⟩ : Range)
          windowPasses t s.cur 5 rd [] →
          exec (.bndx tk a b) s =
            .next (commanded s t tk (.bndx tk a b) [operand s a, va]
              (img ++ es.flatMap fun q => BitVec.ofNat 8 q.1 :: platBytes q.2) rd [] 5 none)))) ∧
    (b.toNat % 4 = 0 → b.toNat ≤ 24 → mayIssue s tk [3] [.x a.toNat, .xs b.toNat 4] [] = true →
      let h := operand s a
      let g := fld h 11 0
      let w := areg p (groupPa g 0)
      let known := bitAt w 0 = true ∧ fld w 7 4 = fld h 15 12 ∧ fld w 13 8 = ctxOf p c
      (2 ^ 16 ≤ h.toNat → exec (.gmc tk a b) s = faulted s p tk 0x01 0) ∧
      (h.toNat < 2 ^ 16 → ¬known → exec (.gmc tk a b) s = faulted s p tk 0x40 h) ∧
      (h.toNat < 2 ^ 16 → known → gmcsOut p s.cur < 16 →
        let bytes := (quadOf (me s) b).flatMap fun v => leBytes 8 v.toNat
        let leg := (coreFault c 3 0 0 0 p).leg
        exec (.gmc tk a b) s =
          .next (retire (landed s) ((groupMembers p g).foldl (fun t m =>
            sendPacket t (globalDie t (dieOf c)) (globalDie t (dieOf m)) (.gmc p.nextId s.cur m g (fld h 15 12) bytes leg
              (legSerial p c) (me s).pc))
            { p with nextId := p.nextId + 1 }) s.cur tk {})))

/-- R433 to R439: SEATMAP loads the seat map of its core, or clears it at VA 0; TRLD copies the seat's request record as
committed at the last boundary, or zeros for a free seat; TRSET stages a value for the seat's request, with no effect for a free
one; DIGEST appends its bytes, once; KVMAP is sent with its pair outstanding; KVAPP is a command of the pool. Operands of TRLD,
TRSET, DIGEST and KVMAP outside their limits raise Illegal Encoding. SEATMAP and KVMAP wait for an acquire of their stream in
flight (log entry 126). That the Coach takes a TRSET in the move in which it is
made is the model's choice (log entry 50), and so is that a TRLD waits while the Coach cannot reach a TR (log entry 105). -/
def Sys2Proof.Claims.RequestResult : Prop :=
  ∀ (tk : Tok) (d a b : Reg) (s : State),
    let c := coreOf s.cur
    let p := popped s tk
    let w := waited s tk
    let v := operand s b
    let seat := (operand s a).toNat
    (mayIssue s tk [0] [.x a.toNat] [] = true →
      let va := operand s a
      (acqWaits w s.cur = true → exec (.seatmap tk a) s = .next (stillHeld s tk)) ∧
      (acqWaits w s.cur = false →
      (va = 0 → exec (.seatmap tk a) s =
        .next (retire (reached s) (modCore w c fun x => { x with seatVa := 0, seatMap := [] }) s.cur tk {})) ∧
      (vaOk va = true → va.toNat % 64 = 0 → va ≠ 0 → ∀ bs t, vaRead w c (ctxOf w c) va 8256 .rd = (.ok bs, t) →
        exec (.seatmap tk a) s =
          .next (retire (reached s) (modCore { t with freeCtr := t.freeCtr + 1 } c fun x => { x with seatVa := va, seatMap := bs })
            s.cur tk {})) ∧
      (vaOk va = true → va.toNat % 64 ≠ 0 → exec (.seatmap tk a) s = .next (raiseAt (stillHeld s tk) s.cur 0x24 va)))) ∧
    (mayIssue s tk [0] [.x a.toNat, .x b.toNat] (if d = 0 then [] else [.x d.toNat]) = true →
      (512 ≤ seat → exec (.trld tk d a b) s = .next (raiseAt (stillHeld s tk) s.cur 0x01 0)) ∧
      (seat < 512 → ownCheck w s.cur v 256 32 true = none → syncCheck w s.cur [] [⟨c, spOff v, 256⟩] = .ok →
        seatEvicted w seat = false →
        let gives (bs : List Byte) : Prop :=
          let t := ownWrite w s.cur (spOff v) bs
          exec (.trld tk d a b) s =
            .next (let u := { t with freeCtr := t.freeCtr + 1 }
              let (id, u) := landIn u s.cur [wX d.toNat (dword bs 0)] ((dword bs 0).setWidth 2048) 1
              retire (reached s) u s.cur tk { push := .landed id })
        (seatSlot w seat = none → gives (List.replicate 256 0)) ∧
        (∀ q bs, seatSlot w seat = some q → aget w.coach.committed q = some bs → gives bs) ∧
        (∀ q, seatSlot w seat = some q → aget w.coach.committed q = none →
          let pas := touched w (trMem w [q])
          (coachReach w pas = true → gives (trRead w q)) ∧
          (coachReach w pas = false → exec (.trld tk d a b) s = .next (undoPops (coachAsk w pas) (reached s) s.cur tk))))) ∧
    (mayIssue s tk [3] [.x a.toNat, .x b.toNat] [] = true →
      let bad := 512 ≤ seat ∨ 2 ^ 51 ≤ v.toNat ∨ (bitAt v 50 = true ∧ (fld v 47 32 = 0 ∨ 4096 < fld v 47 32))
      (bad → exec (.trset tk a b) s = faulted s p tk 0x01 0) ∧
      (¬bad → seatEvicted p seat = false → seatSlot p seat = none → exec (.trset tk a b) s = .next (jumped s tk none)) ∧
      (¬bad → seatEvicted p seat = false → seatSlot p seat ≠ none →
        exec (.trset tk a b) s =
          .next (retire (landed s)
            { p with coach := { p.coach with staged := p.coach.staged ++ [{ seat := seat, order := s.cur, val := v }] } }
            s.cur tk {})) ∧
      (let n := v.toNat
       (workDone (streamAt w s.cur) = true → exec (.digest tk a b) s = .next (retire (reached s) w s.cur tk {})) ∧
       (workDone (streamAt w s.cur) = false →
       (n = 0 ∨ n % 32 ≠ 0 ∨ 2 ^ 21 < n → exec (.digest tk a b) s = .next (raiseAt (stillHeld s tk) s.cur 0x01 0)) ∧
       (n ≠ 0 → n % 32 = 0 → n ≤ 2 ^ 21 → ownCheck w s.cur (operand s a) n 32 false = none →
         syncCheck w s.cur [⟨c, spOff (operand s a), n⟩] [] = .ok →
         exec (.digest tk a b) s =
           .next (retire (reached s) (modCore w c fun x =>
             { x with digest := x.digest ++ ownRead w s.cur (spOff (operand s a)) n }) s.cur tk {}))))) ∧
    (d.toNat % 2 = 0 → d.toNat ≤ 26 → mayIssue s tk [0] [.x a.toNat] (groupLocs d.toNat 2) true = true →
      ((operand s a).toNat < 2 ^ 52 → waitsForAcquire s tk (.kvmap tk d a)) ∧
      ((operand s a).toNat < 2 ^ 52 → acqWaits p s.cur = false →
        exec (.kvmap tk d a) s = .next (loadSent s p tk [.x d.toNat, .x (d.toNat + 1)] (mkReq p s.cur (.kvmap (operand s a))))) ∧
      (2 ^ 52 ≤ (operand s a).toNat → exec (.kvmap tk d a) s = faulted s p tk 0x01 0)) ∧
    (b.toNat % 4 = 0 → b.toNat ≤ 24 → mayIssue s tk [3] [.xs b.toNat 4] [] = true →
      let o := quadOf (me s) b
      let rows := fld (o.getD 1 0) 6 0
      let sp := o.getD 2 0
      (o.getD 0 0).toNat < 2 ^ 32 → rows ≠ 0 → rows ≤ 64 → fld (o.getD 1 0) 31 18 = 0 → kvCompOk (o.getD 3 0) = true →
      ownCheck p s.cur sp (rows * 2048) 32 false = none → windowPasses p s.cur 9 [⟨c, spOff sp, rows * 2048⟩] [] →
      exec (.kvapp tk b) s = .next (commanded s p tk (.kvapp tk b) o [] [⟨c, spOff sp, rows * 2048⟩] [] 9 none))

/-- R436: STEPEND is held while a command or a store of its stream is in flight and until its release at SYSTEM is complete;
then the Coach takes it, with the digest of the bytes absorbed if there are any, when it names the running step, and counts it
as discarded when it does not; the bytes are gone. That it does so in the same move is the model's choice (log entry 50). -/
def Sys2Proof.Claims.StepEndResult : Prop :=
  ∀ (tk : Tok) (a : Reg) (s : State), mayIssue s tk [3] [.x a.toNat] [] = true →
    let c := coreOf s.cur
    let w := waited s tk
    let busy := (coreAt w c).cmds ≠ [] ∨ storesOut w s.cur = true ∨ quiet w s.cur (fixedScope w c 7) = false
    let u := endRegion w s.cur
    let bytes := (coreAt w c).digest
    let t := modCore u c fun x => { x with digest := [] }
    (busy → exec (.stepend tk a) s = .next (stillHeld s tk)) ∧
    (¬busy → operand s a = stepNo w →
      exec (.stepend tk a) s =
        .next (retire (reached s)
          { t with coach := { w.coach with ends := w.coach.ends ++ [(c, if bytes = [] then none else some (shake256 32 bytes))] } }
          s.cur tk {})) ∧
    (¬busy → operand s a ≠ stepNo w →
      exec (.stepend tk a) s =
        .next (retire (reached s) { t with coach := { w.coach with discarded := w.coach.discarded + 1 } } s.cur tk {}))

/-- R433 to R439: the request forms and STEPEND. -/
def Obligations.RequestResults : Prop := RequestResult ∧ StepEndResult

/-! ### Words, steps, legality (chapters 02, 03, 04) -/

/-- R20, R34, R35: words that the spec assembles, with the instruction each stands for, and words that it calls illegal. -/
def Obligations.WordsDecode : Prop :=
  decode 0x00861100 = .ok (.add 0 3 1 2 0 0) ∧ decode 0x808BD001 = .ok (.sub 8 5 29 0 0 0) ∧
  decode 0x110C6001 = .ok (.addi 1 6 6 1) ∧ decode 0x00D27404 = .ok (.div 0 9 7 8 0) ∧
  decode 0x038941FD = .ok (.bne 0 5 0 (-3)) ∧ decode 0x04CA0004 = .ok (.csrr 0 5 4) ∧
  decode 0x0516A003 = .ok (.ld 0 11 10 0 3) ∧ decode 0x0680A610 = .ok (.aadd 0 5 6 4 0) ∧
  decode 0x06C42000 = .ok (.fenceRel 0 2) ∧ decode 0x00408530 = .ok (.sinc 0 4 5 6) ∧
  decode 0x071C9807 = .ok (.rsteal 0 1 6 7) ∧ decode 0x076F6C00 = .ok (.wminit 0 23 22 24) ∧
  decode 0x07A95414 = .ok (.tld 0 20 21 8 1) ∧ decode 0x09406383 = .ok (.mma 0 0 6 7 0 0) ∧
  decode 0x0A0BCE02 = .ok (.vmul 0 5 28 28 0) ∧ decode 0x08C06382 = .ok (.replat 0 6 7) ∧
  decode 0x00102205 = .ok (.tlbi 2 5) ∧ decode 0x090A6381 = .ok (.trld 0 5 6 7) ∧
  decode 0x00B08860 = .error .badGroup ∧ decode 0x06C01004 = .error .nonzeroField ∧ decode 0x09C00000 = .error .reservedMajor

/-- R20 to R38: for every well-formed instruction that a word encodes, the decoding of its word is the instruction, with every
operand at every value that the encoding admits; and what the decoder gives is well formed. -/
def Obligations.DecodeEncode : Prop :=
  (∀ (i : Instr) (w : IWord), WellFormed i → encode i = some w → decode w = .ok i) ∧
  (∀ (i : Instr) (w : IWord), decode w = .ok i → WellFormed i)

/-- The state of a turn that takes the head of the agenda. -/
def Sys2Proof.Claims.turned (s : State) (rest : List Turn) : State := { s with agenda := rest, moves := s.moves + 1 }

/-- R39, R42, R44; the agenda is the model's own (log entry 1). A step at a stream's turn runs the instruction that the word at
its PC in its code ring decodes to, or raises Illegal Encoding (0x01) where it decodes to none (on a compute stream Stream
Legality, 0x02, for a form of SW whose token bits are not 0); a stream that may not issue stands still, and one that holds goes
on if its hold is over; after the trip of R471, or while its gang is frozen (R59, R352), it does not. A step at an event's turn
runs the event. With an empty agenda the turn is the schedule's. A step ends with `swept`, which stops the legs that an
uncorrectable error ended in it (R367), and changes nothing where there is none. -/
def Obligations.StepRunsDecoded : Prop :=
  ∀ (s : State) (rest : List Turn),
    (∀ sid, s.agenda = .issue sid :: rest →
      let u := { turned s rest with cur := sid }
      let st := streamAt s sid
      ((∀ h, st.phase ≠ .holding h) → sid < 2080 → canIssue u sid = true → ringSize u sid ≠ 0 →
        (∀ i, decode (fetchWord u sid) = .ok i → step s = swept (exec i u)) ∧
        (∀ r, decode (fetchWord u sid) = .error r →
          step s = .next (ueSweep (raiseAt (modStream u sid landDue) sid (if r = .swTokens ∧ isSW sid = false then 0x02 else 0x01) 0)))) ∧
      ((∀ h, st.phase ≠ .holding h) → canIssue u sid = false → step s = .next (ueSweep u)) ∧
      (∀ h, st.phase = .holding h →
        step s = .next (ueSweep (if s.tripped then u else holdTurn u sid)) ∧ (frozen u sid = true → holdTurn u sid = u))) ∧
    (∀ e, s.agenda = .event e :: rest → encode e = none →
      (s.tripped = false → step s = swept (exec e (turned s rest))) ∧
      (s.tripped = true → step s = .next (ueSweep (turned s rest)))) ∧
    (s.agenda = [] → step s = step { s with agenda := [Config.schedule s.moves] }) ∧
    ((∀ e ∈ s.gangs, e.2.killed.isSome = true → e.2.phase = .dying) → ueSweep s = s ∧ swept (.next s) = .next s)

/-- The reset values the spec gives: Steward 0 of IO0 alone may run, and every other one is halted (R402, R468); no
core has a gang; SASN is 0x40 and the other CSRs of every Steward, SSTAT and LOOPSTATE of its stream too, are 0 (R401), but for
IDS, which names it; the dies are absent (R404); no
semaphore has an owner (R465); no circuit credit is out (R330). The memory that nothing has written is in its canonical form.
The model's choices are that it reads as 0 (log entry 4), that Steward 0 starts at index 0 (log entry 2), and that the links are
DOWN (log entry 30). -/
def Obligations.ResetState : Prop :=
  let s := State.reset
  Canonical s ∧ s.boot = .off ∧ (streamAt s 2048).phase = .idle ∧ (streamAt s 2048).pc = 0 ∧
  (∀ n < 32, 0 < n → (streamAt s (2048 + n)).phase = .halted) ∧ (∀ i < 2048, (streamAt s i).phase = .idle) ∧
  (∀ n < 32, let w := stewardAt s n
    w.sasn = 0x40 ∧ w.scause = 0 ∧ w.sepc = 0 ∧ w.sval = 0 ∧ w.svec = 0 ∧ w.sstatus = 0 ∧ w.sevent = 0 ∧ w.sevmask = 0 ∧
    w.stick = 0 ∧ w.sscr = 0 ∧ (streamAt s (2048 + n)).sstat = 0 ∧ (streamAt s (2048 + n)).loop = 0 ∧
    (∀ v, csrSwValue s (2048 + n) v =
      if v = 0x404 then 0x40 else if v = 5 then BitVec.ofNat 64 (n + packageId s * 32768) else 0)) ∧
  (∀ c < 512, gangOfCore s c = none) ∧ (∀ d < 8, dieState s d = 0 ∧ ∀ l < 7, linkUp s d l = false) ∧
  (∀ d < 8, nextEntry s d = 0 ∧ canRaise s d = true) ∧ (∀ n < 16, csemOwner s n = none) ∧ (∀ c q, creditOf s c q = 4) ∧
  (∀ a, mget s.mem a = 0)

/-- Every step keeps memory in its canonical form, from every state that has it; the form is the model's (log entry 4). -/
def Obligations.CanonicalKept : Prop := ∀ s t : State, Canonical s → step s = .next t → Canonical t

/-- The streams that R37 allows an instruction (0 LD, 1 MA, 2 VX, 3 ST, 4 SW). -/
def Sys2Proof.Claims.legalOn (i : Instr) : List Nat :=
  match i with
  | .eret | .wfe | .tlbi .. | .ipi .. => [4]
  | .csrr _ _ n | .csrw _ _ n => if n.toNat < 0x400 then [0, 1, 2, 3, 4] else [4]
  | .safept .. | .endleg .. | .sinc .. | .sacq .. | .swait .. | .sset .. | .srd .. | .sincw .. | .sfab .. | .rcfg .. | .rclaim ..
  | .rpub .. | .rwaitf .. | .rwaite .. | .rfree .. | .rpopo .. | .rsteal .. | .rstat .. | .wminit .. | .wmarrive ..
  | .wmexpect .. | .wmwait .. | .wmtest .. | .waitseq .. | .pred .. | .drain .. | .spawn .. | .joinw .. | .gsync .. | .cbar .. =>
    [0, 1, 2, 3]
  | .ld .. | .ldu .. => [0, 4]
  | .st .. => [3, 4]
  | .spld .. | .spldu .. => [0, 2, 3, 4]
  | .spst .. => [2, 3, 4]
  | .aadd .. | .aswp .. | .acas .. | .aand .. | .aor .. | .axor .. | .amax .. | .amin .. | .amaxu .. | .aminu .. | .aincw ..
  | .afab .. | .dacc .. | .drd .. | .dclr .. | .fenceAcq .. | .fenceRel .. | .fenceAr .. | .fenceSc .. | .fenceBw .. | .fenceBr ..
  | .scpw .. | .scpr .. | .scpinv .. => [0, 3, 4]
  | .cpy .. => [0, 3]
  | .tld .. | .tldm .. | .pft .. | .mig .. | .crcv .. | .platr .. | .seatmap .. | .trld .. | .kvmap .. => [0]
  | .tst .. | .bcfg .. | .bgemv .. | .bgemva .. | .csnd .. | .platw .. | .replat .. | .bndcfg .. | .bndx .. | .gmc .. | .trset ..
  | .stepend .. | .kvapp .. | .digest .. => [3]
  | .mcfg .. | .mdat .. | .mclr .. | .mma .. | .mmaz .. | .mmas .. | .matt .. | .msmx .. | .mrd .. | .macc .. | .mstat .. => [1]
  | .vcfg .. | .vadd .. | .vsub .. | .vmul .. | .vmac .. | .vmin .. | .vmax .. | .vadds .. | .vabs .. | .vand .. | .vor .. | .vxor ..
  | .vshl .. | .vshr .. | .vsra .. | .vneg .. | .vsel .. | .vcmpeq .. | .vcmpne .. | .vcmplt .. | .vcmple .. | .vmsk .. | .vexp2 ..
  | .vlog2 .. | .vrcp .. | .vrsq .. | .vsqrt .. | .vcvt .. | .vpack .. | .vunpk .. | .vplane .. | .vunpl .. | .vrsum .. | .vrmax ..
  | .vrmin .. | .vbsum .. | .vbfin .. | .vbcast .. | .vext .. | .vins .. | .vslide .. | .vperm .. | .vld .. | .vst .. | .vlds ..
  | .vsts .. | .vgth .. | .vsct .. => [2]
  | _ => [0, 1, 2, 3, 4]

/-- R37 to R40: a stream that may issue and meets an instruction outside its groups raises a precise fault at it, Illegal
Encoding (0x01) if the word is that as well, as on SW with token bits, else, where the word is a legal encoding of another
stream, Stream Legality (0x02): no pop is taken and nothing else happens. Of the
checks of one word, Illegal Encoding comes first, then Stream Legality, then the operand faults in the order of the fields. -/
def Obligations.LegalityFaults : Prop :=
  (∀ (i : Instr) (w : IWord) (s : State), encode i = some w → canIssue s s.cur = true → kindOf s.cur ∉ legalOn i →
    (exec i s = .next (raiseAt (landed s) s.cur 0x01 0) ∨ exec i s = .next (raiseAt (landed s) s.cur 0x02 0)) ∧
    (WellFormed i → exec i s =
      .next (raiseAt (landed s) s.cur (if isSW s.cur = true ∧ w.extractLsb' 28 4 ≠ 0 then 0x01 else 0x02) 0))) ∧
  (∀ (f : Form) (tk : Tok) (body : State → Res) (s : State), canIssue s s.cur = true →
    (f.illegal = true ∨ (isSW s.cur = true ∧ tk ≠ 0) → issue f tk body s = .next (raiseAt (landed s) s.cur 0x01 0)) ∧
    (f.illegal = false → ¬(isSW s.cur = true ∧ tk ≠ 0) →
      (kindOf s.cur ∉ f.legal → issue f tk body s = .next (raiseAt (landed s) s.cur 0x02 0)) ∧
      (kindOf s.cur ∈ f.legal → f.waits = true ∨ tokensReady (landed s) s.cur tk = true →
        ∀ c, srcsFault (me s) f.srcs = some c → issue f tk body s = .next (raiseAt (landed s) s.cur c 0)))) ∧
  (∀ (st : Stream) (r : Nat), 1 ≤ r → r < 28 → srcFault st (.x r) = if st.outst.any (fun o => o.regs.contains (.x r)) then some 0x04 else none) ∧
  (∀ (st : Stream) (j : Nat), j < 4 → srcFault st (.x (28 + j)) = if vget st.latch j none = none then some 0x03 else none)

/-- R352, R363, R364: a fault on a die with fewer than 64 entries waiting to be posted adds one entry, with the die's next
sequence number, the fault's fields and its class by R362. Class 1 leaves the entry unresolved and stalls the gang, whose
streams then may not issue; class 2 kills the gang's leg, and class 4 ends it with its code (R367). DUP is set as the entry is
posted, where an earlier translation fault of the context and page is unresolved (R359). With 64 waiting, EXSTAT[8] is
set and nothing else changes. No memory, scratchpad or register changes. -/
def Obligations.FaultRaised : Prop :=
  ∀ (s : State) (f : FaultInfo),
    let d := dieAt s f.die
    let t := raise s f
    (64 ≤ d.unposted.length → t = setExstat s f.die 8) ∧
    (d.unposted.length < 64 →
      ∃ e : Entry, (dieAt t f.die).unposted = d.unposted ++ [e] ∧ e.seq = d.entrySeq ∧ e.code = f.code ∧ e.cls = classOf f.code ∧
        e.die = f.die ∧ e.core = f.core ∧ e.agent = f.agent ∧ e.gang = f.gang ∧ e.seat = f.seat ∧ e.va = f.va ∧ e.pc = f.pc ∧
        e.leg = f.leg ∧ e.tick = f.tick ∧ (dieAt t f.die).entrySeq = (d.entrySeq + 1) % 2 ^ 15 ∧
        e.dup = false ∧
        (classOf f.code = 4 → f.gang < 64 → ∀ x, gangAt s (64 * f.die + f.gang) = some x →
          gangAt t (64 * f.die + f.gang) = some { x with killed := some (x.killed.getD f.code) }) ∧
        (classOf f.code = 1 → (dieAt t f.die).unresolved = d.unresolved ++ [e] ∧
          (f.gang < 64 → ∀ x, gangAt s (64 * f.die + f.gang) = some x →
            gangAt t (64 * f.die + f.gang) = some { x with stalled := true } ∧
            ∀ sid, isSW sid = false → gangKey t (coreOf sid) = some (64 * f.die + f.gang) → canIssue t sid = false)) ∧
        (classOf f.code = 2 → f.gang < 64 → ∀ x, gangAt s (64 * f.die + f.gang) = some x → x.caravan = none →
          ∃ y, gangAt t (64 * f.die + f.gang) = some y ∧ y.phase = .dying ∧ y.killed = some (x.killed.getD f.code) ∧
            ∀ m ∈ membersOf (64 * f.die + f.gang) x, ∀ k < 4, (streamAt t (4 * m + k)).phase = .ended)) ∧
    (∀ (y : Die) (e : Entry) (a b : List Entry), y.unresolved = a ++ b → (∀ x ∈ a, x.seq ≠ e.seq) → (∀ x, b.head? = some x → x.seq = e.seq) →
      ((withDup y e).dup = true ↔ isTranslation e.code = true ∧ ∃ x ∈ a, isTranslation x.code = true ∧ x.ctx = e.ctx ∧
        fld x.va 55 14 = fld e.va 55 14)) ∧
    t.mem = s.mem ∧ t.stewards = s.stewards ∧ (∀ c, (coreAt t c).scratch = (coreAt s c).scratch) ∧
    (∀ i, (streamAt t i).x = (streamAt s i).x ∧ (streamAt t i).v = (streamAt s i).v ∧ (streamAt t i).m = (streamAt s i).m)

/-- What the issue of a word without a memory effect leaves unchanged. A scalar result that lands later (`landing`), a jump, an
outstanding load and a scratchpad store leave memory, every other stream and core, the dies, the gangs, the Atlas registers,
the Stewards and the issuing core's scratchpad, tiles, semaphores, rings and commands as they were; and of the issuing
stream's registers none changes before the result lands. An outstanding load adds its access and its outstanding write besides;
one sent to another die takes the next number of its die's packets. A scratchpad store changes its own bytes only. -/
def Obligations.IssueFrames : Prop :=
  ∀ (s : State) (tk : Tok) (nw : Bool) (d : Reg) (v : Word) (lat : Nat) (j : Option (BitVec 18)),
    (∀ t, t = landing s tk nw d v lat ∨ t = jumped s tk j →
      LocalFrame s t ∧ (streamAt t s.cur).x = (me s).x ∧ (streamAt t s.cur).v = (me s).v ∧ (streamAt t s.cur).m = (me s).m ∧
      (streamAt t s.cur).latch = (me s).latch ∧ (streamAt t s.cur).outst = (me s).outst ∧
      (streamAt t s.cur).sstat = (me s).sstat ∧ (streamAt t s.cur).vtype = (me s).vtype) ∧
    (∀ (regs : List Loc) (r : Req),
      let t := loadSent s (popped s tk) tk regs r
      LocalFrame { s with requests := t.requests } t ∧ (streamAt t s.cur).x = (me s).x ∧ (streamAt t s.cur).v = (me s).v ∧
      (streamAt t s.cur).m = (me s).m ∧ (streamAt t s.cur).latch = (me s).latch ∧
      ∃ o q, (streamAt t s.cur).outst = (me s).outst ++ [o] ∧ o.regs = regs ∧ o.val = none ∧ t.requests = s.requests ++ [q] ∧
        q.op = r.op ∧ q.sid = r.sid ∧ q.outst = some o.id) ∧
    (∀ (op : ReqOp) (x : Xlat) (va : Word) (regs : Option (List Loc)) (u : State) (e : After),
      sendMem (popped s tk) s.cur op x va regs = .done u e →
      let t := retire (landed s) u s.cur tk e
      t.mem = s.mem ∧ t.dram = s.dram ∧ t.atlas = s.atlas ∧ t.gangs = s.gangs ∧ t.stewards = s.stewards ∧ t.coach = s.coach ∧
      (∀ i, i ≠ s.cur → streamAt t i = streamAt s i) ∧ (∀ c, c ≠ coreOf s.cur → coreAt t c = coreAt s c) ∧
      (coreAt t (coreOf s.cur)).scratch = (coreAt s (coreOf s.cur)).scratch ∧
      (∀ d, dieAt t d = { dieAt s d with txSeq := (dieAt t d).txSeq }) ∧
      (streamAt t s.cur).x = (me s).x ∧ (streamAt t s.cur).v = (me s).v ∧ (streamAt t s.cur).m = (me s).m ∧
      ∃ q, t.requests = s.requests ++ [q] ∧ q.op = op ∧ q.sid = s.cur) ∧
    (∀ (c off : Nat) (bs : List Byte),
      let t := modCore s c fun x => { x with scratch := mwrite x.scratch off bs }
      (∀ a, a < off ∨ off + bs.length ≤ a → mget (coreAt t c).scratch a = mget (coreAt s c).scratch a) ∧
      (∀ k, k < bs.length → mget (coreAt t c).scratch (off + k) = bs.getD k 0) ∧
      (∀ m, m ≠ c → coreAt t m = coreAt s m) ∧ t.mem = s.mem ∧ t.streams = s.streams) ∧
    (∀ (pa : Nat) (bs : List Byte) (key : Nat) (dd v : Nat), placeOf pa = .hbm dd v → bs ≠ [] → pa % 32 + bs.length ≤ 32 →
      planeFmt s (pa / 128 * 128) = none →
      let t := paWrite s pa bs key
      (∀ k, k < bs.length → mget t.mem (pa + k) = bs.getD k 0) ∧
      (∀ a, a / 32 ≠ pa / 32 → mget t.mem a = mget s.mem a) ∧
      t.streams = s.streams ∧ t.cores = s.cores ∧ t.dies = s.dies ∧ t.gangs = s.gangs ∧ t.stewards = s.stewards)

/-- R15, R25, R28, R29, R50, R52, R57, R68: RESULT_LANDING of a running stream applies the landings due at its slot, oldest
first, and stops it, with all of them landed, once a pre-emption is pending more than 4,096 slots after its last safe point, in
no freeze (R58), and lands all of a stream that waits or holds then, or that ends, but in a freeze (R59): the registers of each
are written (x0 discards), and its value enters b0 while b0 to b2 move on. VARIABLE_LATENCY_WRITE writes a result that arrived
and ends its outstanding write, in whatever phase the stream is, and leaves the latches; without a result it does nothing.
TOKEN_PUSH of a reserved push whose condition and release are met adds its tokens to their queues at one moment, frees their
places and gives up the claims of the region that ended at the word that pushes (log entry 127). -/
def Obligations.LandingEvents : Prop :=
  ∀ (s : State) (sid id c i : Nat), sid < 2080 →
    let st := streamAt s sid
    (st.phase = .running → mustStop s sid st = false → exec (.resultLanding sid) s = .next (putStream s sid (landDue st))) ∧
    (st.phase = .running → mustStop s sid st = true →
      exec (.resultLanding sid) s = .next (putStream s sid { landAll st with phase := .stopped })) ∧
    (st.phase = .ending → exec (.resultLanding sid) s =
      .next (if frozen s sid then putStream s sid (landDue st) else finishEnd (putStream s sid (landAll st)) sid)) ∧
    (st.phase = .stopped → exec (.resultLanding sid) s = .next (putStream s sid (landAll st))) ∧
    ((∃ q b, st.phase = .held q b) ∨ (∃ h, st.phase = .holding h) →
      exec (.resultLanding sid) s = .next (putStream s sid (if mustStop s sid st then landAll st else landDue st))) ∧
    (mustStop s sid st = true ↔ isSW sid = false ∧ 4096 < st.sinceSafe ∧
      ∃ x, gangOfCore s (coreOf sid) = some x ∧ x.phase = .running ∧ x.preempt = true ∧ x.stalled = false) ∧
    (∀ o ws, st.outst.find? (fun o => o.id == id) = some o → o.val = some ws →
      let t := putStream s sid { applyWrites st ws with outst := st.outst.filter fun o => o.id != id }
      (st.phase ≠ .ending → exec (.variableLatencyWrite sid id) s = .next t) ∧
      (st.phase = .ending → exec (.variableLatencyWrite sid id) s = .next (finishEnd t sid))) ∧
    ((∀ o ∈ st.outst, o.id = id → o.val = none) → exec (.variableLatencyWrite sid id) s = .next s) ∧
    (∀ p, (coreAt s c).pushes[i]? = some p → pushReady s c p = true →
      exec (.tokenPush c i) s =
        .next (modCore (dropClaims s p.stream fun line wr => p.closing.contains (line, wr)) c fun x =>
          { x with
            pushes := x.pushes.eraseIdx i
            reserved := p.queues.foldl (fun v q => vset v q (vget v q 0 - 1)) x.reserved
            queues := p.queues.foldl (fun v q => vset v q (vget v q [] ++ [p.settle])) x.queues })) ∧
    (∀ (x : Stream) (r : Nat) (v : Word) (latch : VWord) (due fid : Nat),
      let y := landFlight x { id := fid, due := due, writes := [wX r v], latch := latch }
      (1 ≤ r → r < 28 → readX y r = v) ∧ readX y 0 = 0 ∧ (∀ q, q < 28 → q ≠ r → readX y q = readX x q) ∧
      vget y.latch 0 none = some latch ∧ (∀ k, k < 3 → vget y.latch (k + 1) none = vget x.latch k none) ∧ y.v = x.v ∧ y.m = x.m)

/-! ### Accesses as they are performed (chapters 05, 11, 13, 14) -/

/-- An atomic of functions 0 to 11: its constructor, the new value at n bits from old, v and the second operand, and ok (R307).
-/
structure Sys2Proof.Claims.AtomFn where
  ins : Tok → Reg → Reg → BitVec 6 → BitVec 2 → Instr
  new : (n : Nat) → BitVec n → BitVec n → BitVec n → BitVec n
  ok : (n : Nat) → BitVec n → BitVec n → BitVec n → Bool

/-- R307, with no ok for the functions that write b alone. -/
def Sys2Proof.Claims.atomFns : List AtomFn :=
  [⟨.aadd, fun _ o v _ => o + v, fun _ _ _ _ => false⟩, ⟨.aswp, fun _ _ v _ => v, fun _ _ _ _ => false⟩,
   ⟨.acas, fun _ o v b => if o = v then b else o, fun _ _ _ _ => false⟩, ⟨.aand, fun _ o v _ => o &&& v, fun _ _ _ _ => false⟩,
   ⟨.aor, fun _ o v _ => o ||| v, fun _ _ _ _ => false⟩, ⟨.axor, fun _ o v _ => o ^^^ v, fun _ _ _ _ => false⟩,
   ⟨.amax, fun _ o v _ => if o.toInt < v.toInt then v else o, fun _ _ _ _ => false⟩,
   ⟨.amin, fun _ o v _ => if v.toInt < o.toInt then v else o, fun _ _ _ _ => false⟩,
   ⟨.amaxu, fun _ o v _ => if o.toNat < v.toNat then v else o, fun _ _ _ _ => false⟩,
   ⟨.aminu, fun _ o v _ => if v.toNat < o.toNat then v else o, fun _ _ _ _ => false⟩,
   ⟨.aincw, fun _ o v _ => if v.toNat ≤ o.toNat then 0 else o + 1, fun _ _ _ _ => false⟩,
   ⟨.afab, fun _ o v b => if o.toNat + v.toNat ≤ b.toNat then o + v else o, fun _ o v b => decide (o.toNat + v.toNat ≤ b.toNat)⟩]

/-- An access that is next on its route, at its home, and holds for no fault. -/
def Sys2Proof.Claims.performs (s : State) (r : Req) : Prop := reqAt s r.id = some r ∧ reqReady s r = true

/-- R92, R239, R264, R277, R302, R303, R307, R311 to R313, R462: what an access does when it is performed. A load gives its n
bytes at the home, or at a REPL page in its own slice, sign- or zero-extended: a line the slice holds (whether it was evicted is
a free bit, log entry 69), or the home's, which the slice then keeps and for which the load goes on over the routers where the
home is on another die (R264, R487); the core's L1 takes the line if it may keep it, and loses it if a store or an atomic of the
core to it was sent since. A store writes its bytes at the home, and either raises Peer Gone (0x40) at a host link that is not
trained. A Steward's load and store reach the Atlas. An atomic reads and writes its word in one step, and writes b with the old
value, AFAB b+1 with ok. DACC adds to the open entry, DRD writes it and frees it, DCLR frees it. An access that is not next does
nothing. -/
def Sys2Proof.Claims.AccessPerforms : Prop :=
  ∀ (s : State) (r : Req),
    (reqAt s r.id = some r → reqReady s r = false →
      exec (.l1Fill r.id) s = .next s ∧ exec (.storePerform r.id) s = .next s ∧ exec (.atomicPerform r.id) s = .next s) ∧
    (performs s r →
      let key := leafKey r.leaf
      (placeOf r.pa = .atlas →
        (∀ sg n, r.op = .load sg n → let q := atlasBytes s .steward r.pa n
          exec (.l1Fill r.id) s = .next (answer q.2 r [loadVal sg q.1])) ∧
        (∀ n w, r.op = .store n w → atlasHeld s r.pa (leBytes n w.toNat) = false →
          exec (.storePerform r.id) s = .next (dropReq (atlasPut s .steward r.pa (leBytes n w.toNat)) r.id))) ∧
      (placeOf r.pa ≠ .atlas → isFabric s r.pa = false → hostUp s r.pa = false →
        ((∃ sg n, r.op = .load sg n) → exec (.l1Fill r.id) s = .next (reqFail s r 0x40 (BitVec.ofNat 64 r.pa))) ∧
        ((∃ n w, r.op = .store n w) → exec (.storePerform r.id) s = .next (reqFail s r 0x40 (BitVec.ofNat 64 r.pa)))) ∧
      (placeOf r.pa ≠ .atlas → hostUp s r.pa = true →
        let u := { s with freeCtr := s.freeCtr + 1 }
        (∀ sg n, r.op = .load sg n →
          (isSW r.sid = true → exec (.l1Fill r.id) s = .next (answer u r [loadVal sg (paRead u r.pa n key)])) ∧
          (isSW r.sid = false →
            let c := coreOf r.sid
            let x := reqXlat u r
            let got (v : State) (line : List Byte) : Prop :=
              let t := if legRuns v c = false then v
                else if r.stale then modCore v c fun y => l1Evict y r.pa
                else if l1Keeps v (reqXlat v r) then
                  modCore v c fun y => l1Install y { pa := lineOf r.pa, via := (reqXlat v r).via, data := line }
                else v
              exec (.l1Fill r.id) s = .next (answer t r [loadVal sg ((line.drop (r.pa % 128)).take n)])
            (isRepl r.leaf r.pa = false → got u (paRead u (lineOf r.pa) 128 key)) ∧
            (isRepl r.leaf r.pa = true →
              let fill (v : State) : Prop := got (replFill v c (reqXlat v r)).2 (replFill v c (reqXlat v r)).1
              let look := replHit u c r.pa
              (r.fetched = true → fill u) ∧
              (r.fetched = false → lineComing u r = true → exec (.l1Fill r.id) s = .next u) ∧
              (r.fetched = false → lineComing u r = false →
                (∀ line, look.1 = some line → got look.2 line) ∧
                (look.1 = none →
                  ((∀ d, homeGlobal look.2 r.pa = some d → d = srcGlobal look.2 r.sid) → fill look.2) ∧
                  (∀ d, homeGlobal look.2 r.pa = some d → d ≠ srcGlobal look.2 r.sid →
                    ∃ v, exec (.l1Fill r.id) s = .next v ∧ v.mem = s.mem ∧ v.cores = s.cores ∧ v.streams = s.streams ∧
                      ∃ q ∈ v.requests, q.id = r.id ∧ q.op = r.op ∧ q.pa = r.pa ∧ q.outst = r.outst ∧ q.fetched = true ∧
                        q.arrived = false)))) ∧
            (∀ v, let f := replFill v c x
              f.1 = paRead v (lineOf (localPa v r.pa)) 128 key ∧ f.2.mem = v.mem ∧
              (ownHome v c r.pa = false → ∃ p ∈ (dieAt f.2 (dieOf c)).replicas,
                p.slice = c % 64 ∧ p.pa = lineOf (localPa v r.pa) ∧ p.data = f.1))))) ∧
      (placeOf r.pa ≠ .atlas → hostUp s r.pa = true → isFabric s r.pa = false →
        (∀ n w, r.op = .store n w → exec (.storePerform r.id) s = .next (dropReq (paWrite s r.pa (leBytes n w.toNat) key) r.id)) ∧
        (∀ f ∈ atomFns, ∀ tk a b sc (sz : BitVec 2) x y, sz.toNat < 2 → r.op = .atomic (f.ins tk a b sc sz) x y →
          let n := if sz = 0 then 8 else 4
          let old := paRead s r.pa n key
          let o : BitVec (8 * n) := BitVec.ofNat _ (leNat old)
          let v : BitVec (8 * n) := x.setWidth _
          let w : BitVec (8 * n) := y.setWidth _
          exec (.atomicPerform r.id) s =
            .next (answer (paWrite s r.pa (leBytes n (f.new _ o v w).toNat) key) r
              [BitVec.ofNat 64 (leNat old), if f.ok _ o v w then 1 else 0]))) ∧
      (∀ d v, placeOf r.pa = .hbm d v →
        (∀ tk a b sc x y, ∀ e, aget (dieAt s d).datum r.pa = some e →
          (r.op = .atomic (.dacc tk a b sc) x y →
            exec (.atomicPerform r.id) s = .next (answer (putDatum s d r.pa (datumAdd e (fltVal (datumFmt x) (fld x 31 0)))) r [])) ∧
          (r.op = .atomic (.drd tk a b sc) x y →
            let out := datumOut (datumFmt x) e
            exec (.atomicPerform r.id) s =
              .next (answer (paWrite (modDie s d fun q => { q with datum := adel q.datum r.pa }) r.pa (leBytes (datumSize x) out) key) r
                [BitVec.ofNat 64 out])) ∧
          (r.op = .atomic (.dclr tk a b sc) x y →
            exec (.atomicPerform r.id) s = .next (answer (modDie s d fun q => { q with datum := adel q.datum r.pa }) r [1]))) ∧
        (∀ tk a b sc x y, aget (dieAt s d).datum r.pa = none →
          (r.op = .atomic (.drd tk a b sc) x y →
            exec (.atomicPerform r.id) s = .next (answer s r [BitVec.ofNat 64 (leNat (paRead s r.pa (datumSize x) key))])) ∧
          (r.op = .atomic (.dclr tk a b sc) x y → exec (.atomicPerform r.id) s = .next (answer s r [0])) ∧
          (r.op = .atomic (.dacc tk a b sc) x y → datumRoom s d v = some false →
            let w := fltVal (datumFmt x) (leNat (paRead s r.pa (datumSize x) key))
            exec (.atomicPerform r.id) s =
              .next (answer (putDatum s d r.pa (datumAdd (datumOpen w false) (fltVal (datumFmt x) (fld x 31 0)))) r [])) ∧
          (r.op = .atomic (.dacc tk a b sc) x y → datumRoom s d v = none →
            exec (.atomicPerform r.id) s = .next (if isSW r.sid then s else reqFail s r 0x29 r.va)))))

/-- R238 to R240: a peer operation is accepted at a live target of the stream's context, in issue order, and has its effect on
the target's scratchpad (a store of any size, a vector's too), semaphores, rings or waymarks, and the target is noted in what it
will write (R248); one that reaches a target that is not live raises Peer Gone (0x40). The own rank is live while its leg runs
(R89), and a write of a code ring's bytes raises Scratchpad Bounds (0x10, R44). SINCW, SFAB and RSTEAL acquire. R437: KVMAP
returns the die's pair for its key. R356, R295, R332: a walk installs its translation; a scope update that retires leaves no
core with an earlier version; a page later than its deadline adds 1 to its gang's SLIP. -/
def Sys2Proof.Claims.PeerAndUpdateEvents : Prop :=
  ∀ (s : State) (r : Req),
    (∀ c op, reqAt s r.id = some r → r.op = .peer c op →
      (reaches s r = false → exec (.peerAccept r.id) s = .next s) ∧
      (reaches s r = true → liveTo s (coreOf r.sid) c = false → exec (.peerAccept r.id) s = .next (reqFail s r 0x40 r.va)) ∧
      (reaches s r = true → liveTo s (coreOf r.sid) c = true → inOrder s r = false → exec (.peerAccept r.id) s = .next s)) ∧
    (performs s r →
      (∀ key, r.op = .kvmap key →
        exec (.l1Fill r.id) s =
          .next (acquire (answer s r [(kvmapValue s (dieOf (coreOf r.sid)) key).1, (kvmapValue s (dieOf (coreOf r.sid)) key).2]) r.sid)) ∧
      let live (c : Nat) : Bool := if c = coreOf r.sid then legRuns s c else liveFor s c (ctxOf s (coreOf r.sid))
      (∀ c op, r.op = .peer c op → live c = false → exec (.peerAccept r.id) s = .next (reqFail s r 0x40 r.va)) ∧
      (∀ c op, r.op = .peer c op → live c = true →
        let now (t : State) : Prop := exec (.peerAccept r.id) s = .next t
        let p := fromPeer s r c
        p = (match r.outst with
          | none => s
          | some o => modStream s r.sid fun st =>
            { st with outst := mapIf (fun w => w.id == o) (fun w => { w with peer := some c }) st.outst }) ∧
        (∀ sg n off, op = .load sg n off → now (answer p r [loadVal sg (mread (coreAt s c).scratch off n)])) ∧
        (∀ bs, op = .vload bs → now (vecAnswer p r (coreAt s c).scratch bs)) ∧
        (∀ bs, op = .store bs →
          ((∃ b ∈ bs, codeHit s c b.1 1 = true) → now (reqFail p r 0x10 r.va)) ∧
          ((∀ b ∈ bs, codeHit s c b.1 1 = false) →
            now (dropReq (modCore p c fun x => { x with scratch := bs.foldl (fun m b => mwrite m b.1 [b.2]) x.scratch }) r.id))) ∧
        (∀ sem, op = .srd sem → now (answer p r [(semAt s c sem).count.setWidth 64])) ∧
        (∀ sem v, op = .sinc sem v → (semAt s c sem).count.toNat + v.toNat < 2 ^ 32 →
          now (dropReq (testWaiters (putSem p c sem
            { count := (semAt s c sem).count + BitVec.ofNat 32 v.toNat, tag := widen (semAt s c sem).tag .cluster,
              settle := (semAt s c sem).settle }) c sem) r.id)) ∧
        (∀ sem v, op = .sinc sem v → 2 ^ 32 ≤ (semAt s c sem).count.toNat + v.toNat → now (reqFail p r 0x12 r.va)) ∧
        (∀ sem b, op = .sincw sem b →
          let o := (semAt s c sem).count
          now (acquire (answer (semSet p c sem (if b.toNat ≤ o.toNat then 0 else o + 1) (decide (o.toNat < b.toNat)) true) r
            [o.setWidth 64]) r.sid)) ∧
        (∀ sem v b, op = .sfab sem v b →
          let o := (semAt s c sem).count
          let ok := decide (o.toNat + v.toNat ≤ b.toNat)
          now (acquire (answer (semSet p c sem (if ok then o + v else o) ok true) r [o.setWidth 64, if ok then 1 else 0]) r.sid)) ∧
        (∀ ring, op = .rstat ring → now (answer p r [ringStatus (ringAt s c ring)])) ∧
        (∀ ring, op = .rsteal ring → ringMode (ringAt s c ring) = 2 →
          let q := ringSteal p c ring
          now (acquire (answer q.2.2 r (q.1 :: q.2.1.toList)) r.sid)) ∧
        (∀ off, op = .wmArrive off → codeHit s c off 16 = false → now (dropReq (wayApply p c off false) r.id)) ∧
        (∀ off n t, op = .wmExpect off n → codeHit s c off 16 = false → wayExpect p c off n.toNat = some t → now (dropReq t r.id)))) ∧
    (∀ sid ctx va, sid < 2080 → xctx s sid = ctx → va.toNat < 2 ^ 56 →
      exec (.translationWalk sid ctx va) s = .next (translate s (tlbId sid) ctx va .rd).2) ∧
    (∀ i u, s.scopeUpds[i]? = some u →
      ∃ t, exec (.scopeUpdateRetire i) s = .next t ∧ t.scopeUpds = s.scopeUpds.eraseIdx i ∧ t.scopes = s.scopes ∧ t.mem = s.mem ∧
        ∀ c x, x ∈ (coreAt t c).scopeCache ↔ x ∈ (coreAt s c).scopeCache ∧ scopeKey x.1 x.2.1 ≠ u.key) ∧
    (∀ d i tick q, d < 8 → (dieAt s d).mig[i]? = some q →
      let t := modDie s d fun x => { x with mig := x.mig.eraseIdx i }
      (tick ≤ q.deadline → exec (.migPageComplete d i tick) s = .next t) ∧
      (q.deadline < tick → ∀ g, gangKey s q.core = some g →
        exec (.migPageComplete d i tick) s =
          .next (modGang t g fun x => { x with slip := if x.slip = BitVec.allOnes 32 then x.slip else x.slip + 1 })))

/-- R92, R238 to R240, R264, R295, R302, R303, R307, R311 to R313, R332, R356, R437, R462: accesses, peer operations and updates
as they are performed. -/
def Obligations.AccessEvents : Prop := AccessPerforms ∧ PeerAndUpdateEvents

/-! ### Faults posted, resolved and uncorrectable (chapters 05, 15) -/

/-- An entry whose fields fit the places that R364 gives them. -/
def Sys2Proof.Claims.entryFits (e : Entry) : Prop :=
  e.cls < 256 ∧ e.die < 256 ∧ e.core < 256 ∧ e.agent < 256 ∧ e.gang < 256 ∧ e.seat < 65536 ∧ e.seq < 2 ^ 15

/-- R363 to R366, R401, R421, R463: FAULT_ENTRY_POST writes the oldest waiting entry at the queue's tail, once the queue is
enabled and has room (in the window of a link that is not trained it waits for the training: log entry 105), with the bytes of
R364 and DUP as R359 says, and raises SEVENT[8 + d] and the die's vector; join updates that a full queue held back are then
made. RETRY of a translation fault resolves the later entries of its page with DUP too, of another entry that one alone; KILL
kills its leg with the entry's code; SEAT of a translation fault of a seat suppresses the seat's part and replays; a write that
names no unresolved entry is ignored, EXSTAT[16] says so, and ERRSTAT counts it (R261; log entry 75). GANG_RESUME releases the
stall wire of the first resumable gang if no entry of it is unresolved, and a pre-emption asked for during the freeze is pending
from then on (R58). -/
def Sys2Proof.Claims.FaultQueueEvents : Prop :=
  ∀ (s : State) (d : Nat), d < 8 →
    (∀ e r, (dieAt s d).unposted = e :: r →
      let up := hostUp s (ringPa s (fqRegs d) 32 (ringTail s (fqRegs d)))
      (ringEn s (fqRegs d) = false ∨ ringRoom s (fqRegs d) = false ∨ up = false → exec (.faultEntryPost d) s = .next s) ∧
      (ringEn s (fqRegs d) = true → ringRoom s (fqRegs d) = true → up = true →
        let q := withDup (dieAt s d) e
        let t := msixAll (eventAll (modDie (ringPush s (fqRegs d) (entryBytes q)) d fun x =>
          { x with unposted := r, unresolved := mapIf (fun y => y.seq == e.seq) (fun _ => q) x.unresolved }) (8 + d)) d
        exec (.faultEntryPost d) s = .next (heldOrphans (if e.code = 0x3A then eventAll t 5 else t) d))) ∧
    (∀ e, entryFits e →
      let b := entryBytes e
      b.length = 32 ∧ bfld b 0 1 = e.code.toNat ∧ bfld b 1 1 = e.cls ∧ bfld b 2 1 = e.die ∧ bfld b 3 1 = e.core ∧ bfld b 4 1 = e.agent ∧
      bfld b 5 1 = e.gang ∧ bfld b 6 2 = e.seat ∧ bfld b 8 8 = e.va.toNat ∧ bfld b 16 4 = e.pc.toNat ∧ bfld b 20 4 = e.leg.toNat ∧
      bfld b 24 6 = e.tick.toNat ∧ bfld b 30 2 = e.seq + if e.dup then 32768 else 0) ∧
    (∀ q : BitVec 15, findEntry s d q.toNat = none →
      let t := countIgnored (setExstat s d 16) d
      exec (.resolveRetry d q) s = .next t ∧ exec (.resolveKill d q) s = .next t ∧ exec (.resolveSeat d q) s = .next t) ∧
    (∀ (q : BitVec 15) e, findEntry s d q.toNat = some e →
      (isTranslation e.code = false →
        exec (.resolveRetry d q) s = .next (wake (settleOrphans (retryOne s d e) d true [e.seq]) d [e.gang])) ∧
      (isTranslation e.code = true →
        let later := ((postedOpen s d).dropWhile fun x => x.seq != e.seq).drop 1
        let all := e :: later.filter fun x => x.dup && isTranslation x.code && x.ctx == e.ctx && fld x.va 55 14 == fld e.va 55 14
        exec (.resolveRetry d q) s =
          .next (wake (settleOrphans (all.foldl (fun t x => retryOne t d x) s) d true (all.map fun x => x.seq)) d
            (all.map fun x => x.gang))) ∧
      (∀ x, e.gang < 64 → gangAt s (64 * d + e.gang) = some x → x.phase ≠ .dying →
        exec (.resolveKill d q) s = .next (killLeg (dropEntry s d e.seq) (64 * d + e.gang) e.code) ∧
        (isTranslation e.code = false ∨ e.seat = 0xFFFF →
          exec (.resolveSeat d q) s = .next (killLeg (dropEntry s d e.seq) (64 * d + e.gang) e.code))) ∧
      (isTranslation e.code = true → e.seat ≠ 0xFFFF →
        ∃ t, exec (.resolveSeat d q) s = .next t ∧ t.coach.seatFaults = s.coach.seatFaults ++ [(e.seat, e.code)] ∧ t.mem = s.mem ∧
          (dieAt t d).unresolved = (dieAt s d).unresolved.filter (fun x => x.seq != e.seq) ∧
          ∀ c, dieOf c = d → (coreAt t c).cmds = (coreAt s c).cmds.map fun k =>
            if k.hold = some e.seq then { k with supp := k.supp ++ [e.seat], hold := none } else k)) ∧
    (∀ g r, (dieAt s d).resumable = g :: r →
      let t := modDie s d fun x => { x with resumable := r }
      ((∃ e ∈ (dieAt s d).unresolved, e.gang = g) → exec (.gangResume d g) s = .next t) ∧
      ((∀ e ∈ (dieAt s d).unresolved, e.gang ≠ g) →
        exec (.gangResume d g) s =
          .next (modGang t (64 * d + g) fun x => { x with stalled := false, preempt := x.preempt || x.asked, asked := false })))

/-- R367, R368: an uncorrectable error posts 0xF0, class 4, with the PA where the error lies in data. A core in which it is
found goes offline; the gang's leg, if there is one, ends with 0xF0. A core that is only held for a caravan is in no gang: the
rectangle is released (log entry 100). Outside a gang only the failing unit of the PA goes offline: its slice, its vault or its
bank unit (log entry 87). A soft error is counted and changes no value. -/
def Sys2Proof.Claims.ErrorEvents : Prop :=
  ∀ (s : State) (c d pa : Nat), c < 512 → d < 8 →
    (canRaise s (dieOf c) = true →
      ∃ t e, exec (.uncorrectableError c pa) s = .next t ∧ (dieAt t (dieOf c)).unposted = (dieAt s (dieOf c)).unposted ++ [e] ∧
        e.code = 0xF0 ∧ e.cls = 4 ∧ e.core = c % 64 ∧ e.va = BitVec.ofNat 64 pa ∧
        (pa = 0 → (coreAt t c).offline = true) ∧
        (gangKey s c = none → pa = 0 → coreAt t c = { coreAt s c with offline := true } ∧ t.mem = s.mem) ∧
        (∀ g x, gangKey s c = some g → gangAt s g = some x → x.phase = .heldFor → x.caravan = none →
          e.gang = 0xFF ∧ t.mem = s.mem ∧
          (pa = 0 → gangAt t g = none ∧ ∀ m ∈ membersOf g x, (coreAt t m).gang = none ∧ (coreAt t m).scratch = (coreAt s m).scratch)) ∧
        (∀ g x, gangKey s c = some g → gangAt s g = some x → x.phase ≠ .heldFor → x.caravan = none →
          ∃ y, gangAt t g = some y ∧ y.phase = .dying ∧ y.killed = some (x.killed.getD 0xF0) ∧
            ∀ m ∈ membersOf g x, ∀ k < 4, (streamAt t (4 * m + k)).phase = .ended)) ∧
    (canRaise s d = true →
      ∃ t e, exec (.ueOutsideGang d pa) s = .next t ∧ (dieAt t d).unposted = (dieAt s d).unposted ++ [e] ∧ e.code = 0xF0 ∧
        e.core = 0xFF ∧ e.gang = 0xFF ∧ e.va = BitVec.ofNat 64 pa ∧ t.mem = s.mem ∧ t.cores = s.cores ∧ t.gangs = s.gangs ∧
        ∀ k v, placeOf (localPa s pa) = .hbm k v → pa ≠ 0 →
          v ∈ (dieAt t k).offSlices ∨ v ∈ (dieAt t k).offVaults ∨ v ∈ (dieAt t k).offBanks) ∧
    exec (.softErrorCorrected d) s = .next (modDie s d fun x => { x with softErrors := x.softErrors + 1 })

/-- R363 to R368, R421: entries posted and resolved, and uncorrectable errors. -/
def Obligations.FaultEvents : Prop := FaultQueueEvents ∧ ErrorEvents

/-! ### Legs (chapter 15) -/

/-- What the members of a gang load, in rank order: the first fault, or the state with every member and its streams as at leg
start (R43, R45, R349, R414). -/
def Sys2Proof.Claims.memberLoads (s : State) (g : Nat) (x : Gang) : Option (Nat × BitVec 8 × Word) × State :=
  (membersOf g x).foldl (fun (a : Option (Nat × BitVec 8 × Word) × State) m =>
    match a with
    | (some e, s) => (some e, s)
    | (none, s) =>
      match readImage s m x.ctx x.record with
      | (.error (c, va), s) => (some (m, c, va), s)
      | (.ok im, s) =>
        match readSeats s m x.ctx (BitVec.ofNat 64 (bfld x.record 40 8)) with
        | (.error (c, va), s) => (some (m, c, va), s)
        | (.ok seats, s) =>
          (none, forN 4 (fun k s => putStream s (4 * m + k) (startStream x (rankIn x m)))
            (modCore s m fun c => loadedCore c im (BitVec.ofNat 64 (bfld x.record 40 8)) seats))) (none, s)

/-- The members of a RESUME gang, restored from its save in rank order: the first fault, or the state after the last. -/
def Sys2Proof.Claims.memberResumes (s : State) (g : Nat) (x : Gang) (sv : Save) (n : Nat) : Except (Nat × BitVec 8 × Word) State :=
  (membersOf g x).foldl (fun a m =>
    match a with
    | .error e => .error e
    | .ok s => match restoreMember s x sv n m with
      | .error (c, va) => .error (m, c, va)
      | .ok s => .ok s) (.ok s)

/-- R45, R349, R354: LEG_START of a placed gang that no fault holds: once every member has loaded, every stream starts at index
0 with the rank in x1, the shape in x2, the die index and count in x3 and x4, the seat map, the argument and the frame in x24,
x25 and x27, and 0 elsewhere; of a RESUME leg (R59, R354) every member is restored from the save area, whose leg State.saves
keeps (log entry 20), and the gang goes on at the tick saved; a member that faults posts its entry. R336, R350, R68: LEG_END
once every stream of the leg has ended and nothing of it is in flight: the join object counts the child, and records the first
abnormal one; the cores become idle and the tokens in their queues go (R18), once the answer came where the object lies in
another package (log entry 99). -/
def Sys2Proof.Claims.LegStartAndEnd : Prop :=
  ∀ (s : State) (d o : Nat) (x : Gang), o < 64 → gangAt s (64 * d + o) = some x →
    let g := 64 * d + o
    (x.phase = .placed → x.hold = none → x.stalled = false →
      (∀ m c va t, memberLoads s g x = (some (m, c, va), t) → exec (.legStart d o) s = .next (memberFault t g m c va)) ∧
      (∀ t, memberLoads s g x = (none, t) → x.resume = false →
        exec (.legStart d o) s = .next (putGang t g { x with phase := .running, tick := 0, slip := 0 })) ∧
      (∀ t, memberLoads s g x = (none, t) → x.resume = true →
        let m0 := (membersOf g x).headD 0
        let head := vaRead t m0 x.ctx (BitVec.ofNat 64 (bfld x.record 48 8)) 16 .wr
        (∀ c va u, head = (.error (c, va), u) → exec (.legStart d o) s = .next (memberFault u g m0 c va)) ∧
        (∀ bs u sv, head = (.ok bs, u) → aget u.saves (saveKey u g x) = some sv →
          let n := u.nextId
          let v := { u with nextId := 2 * n + 1, freeCtr := u.freeCtr + 1 }
          (∀ m c va, memberResumes v g x sv n = .error (m, c, va) → exec (.legStart d o) s = .next (memberFault v g m c va)) ∧
          (∀ w, memberResumes v g x sv n = .ok w →
            let y : Gang := { x with phase := .running, tick := BitVec.ofNat 48 (leNat (bs.drop 8)), slip := sv.slip }
            exec (.legStart d o) s =
              .next { retag (putGang w g y) d (64 + saveKey w g x) x.origin with
                requests := w.requests ++ sv.receives.map (movedReq d n) })))) ∧
    (∀ full live ctr st, let t := restoredStream full live ctr st
      t.pc = st.pc ∧ t.slot = st.slot ∧ t.loop = st.loop ∧ t.latch = st.latch ∧ t.vtype = st.vtype ∧ t.outst = st.outst ∧
      (∀ i, st.phase = .parked i → t.phase = .running) ∧ (st.phase = .ended → t.phase = .ended) ∧
      (full = true → t.x = st.x ∧ t.v = st.v ∧ t.m = st.m) ∧
      (full = false → ∀ e, live = some e →
        (∀ r, 1 ≤ r → r < 28 → bitAt e r = true → readX t r = readX st r) ∧
        (∀ r, r < 28 → bitAt e (32 + r) = true → readV t r = readV st r))) ∧
    (∀ rank, let st := startStream x rank
      st.phase = .running ∧ st.pc = 0 ∧ st.slot = 0 ∧ st.loop = 0 ∧ (∀ k, k < 4 → vget st.latch k none = none) ∧
      readX st 1 = BitVec.ofNat 64 rank ∧ readX st 2 = BitVec.ofNat 64 (x.w + 256 * x.h) ∧ readX st 3 = BitVec.ofNat 64 x.dieIndex ∧
      readX st 4 = BitVec.ofNat 64 x.dieCount ∧ readX st 24 = BitVec.ofNat 64 (bfld x.record 40 8) ∧
      readX st 25 = BitVec.ofNat 64 (bfld x.record 24 8) ∧ readX st 27 = BitVec.ofNat 64 (bfld x.record 8 8) ∧
      (∀ r, r < 28 → r ∉ [1, 2, 3, 4, 24, 25, 27] → readX st r = 0) ∧ (∀ r, r < 28 → readV st r = 0)) ∧
    (x.caravan = none → gangDone s g x = false → exec (.legEnd d o) s = .next s) ∧
    (x.caravan = none → gangDone s g x = true →
      (x.dropJoin = true → exec (.legEnd d o) s = .next (if joinOut s [(g, x)] then s else freeGang s g x)) ∧
      (x.dropJoin = false →
        let r := joinUpdate s d x.origin x.ctx (BitVec.ofNat 64 (recJoin x.record)) x.killed (recLeg x.record)
        (∀ t, r = .ok (some t) → joinOut t [(g, x)] = false → exec (.legEnd d o) s = .next (freeGang t g x)) ∧
        (∀ t, r = .ok (some t) → joinOut t [(g, x)] = true →
          exec (.legEnd d o) s = .next (modGang t g fun y => { y with phase := .dying, dropJoin := true })) ∧
        (r = .ok none → exec (.legEnd d o) s = .next s))) ∧
    (let t := freeGang s g x
     gangAt t g = none ∧ t.mem = s.mem ∧
       (∀ m ∈ membersOf g x, (coreAt t m).gang = none ∧ (coreAt t m).scratch = (coreAt s m).scratch ∧ (coreAt t m).pushes = [] ∧
         ∀ q < 8, vget (coreAt t m).queues q [] = [] ∧ vget (coreAt t m).reserved q 0 = 0) ∧
       ∀ m, m ∉ membersOf g x → coreAt t m = coreAt s m) ∧
    (∀ (bs : List Byte) (code : Option (BitVec 8)) (leg : BitVec 32), bs.length = 16 →
      let n := bfld bs 0 4
      let abn := bfld bs 5 1 % 2
      let t := joinBytes bs code leg
      t.length = 16 ∧ bfld t 0 4 = n - 1 ∧ bfld t 5 1 / 2 % 2 = (if n = 0 then 1 else bfld bs 5 1 / 2 % 2) ∧
      (code = none ∨ abn = 1 → bfld t 5 1 % 2 = abn ∧ bfld t 4 1 = bfld bs 4 1 ∧ bfld t 8 4 = bfld bs 8 4) ∧
      (∀ c, code = some c → abn = 0 → bfld t 5 1 % 2 = 1 ∧ bfld t 4 1 = c.toNat ∧ bfld t 8 4 = leg.toNat))

/-- The state of a die once bad records have left the heads of its queues (R341); a head in the window of a host link that is
not trained raises Peer Gone and stays (R462; log entry 105). -/
def Sys2Proof.Claims.cleaned (s : State) (d : Nat) : State :=
  forN 9 (fun q s => cleanHead (askHead s (lqRegs d q)) (lqRegs d q) 65536) s
/-- The aligned rectangles of a candidate whose cores are idle and online (R342, R346). -/
def Sys2Proof.Claims.freeRects (s : State) (d : Nat) (c : Cand) : List Nat :=
  (rectsOf c).filter fun o => (candCores c o).all fun i => coreIdle s d i

/-- R341 to R348: the dispatcher orders the candidates, places the head at its first free rectangle in ascending origin, or
keeps or chooses its target, which it keeps while some rectangle of its shape has no offline core; another candidate is placed
only clear of the target. Only an ONLINE die takes legs. CARAVAN_START starts the gangs of a caravan once every named die holds
its rectangle, and its entry leaves the caravan queue. R353, R56 to R59: PREEMPT clears DONE and marks a running gang that has a
save area, one that is frozen for when its freeze ends; of any other gang it is counted as ignored (log entry 75). PREEMPT_SAVE
saves a gang that is at safe points; FORCED_FULL_SAVE stops one that cannot reach them, lands its results, and saves it once
nothing is left to push. A save whose writes were all made and answered leaves the gang gone, its cores idle and its leg kept in
State.saves under the place of its save area (log entry 20; the pushes of a receive that waits with it, log entry 128), and sets
DONE if it is the one requested last; one that faults holds the gang or kills it. -/
def Sys2Proof.Claims.DispatchAndPreempt : Prop :=
  ∀ (s : State) (d : Nat), d < 8 →
    let u := cleaned s d
    (dieState u d ≠ 2 → exec (.dispatcherRun d) s = .next u) ∧
    (dieState u d = 2 → candidates u d = [] → exec (.dispatcherRun d) s = .next u) ∧
    (∀ c, dieState u d = 2 → candidates u d = [c] →
      (∀ o r, freeRects u d c = o :: r →
        exec (.dispatcherRun d) s = .next (noTarget (modDie (placeAt u d c o) d fun x => { x with target := none }) d none)) ∧
      (freeRects u d c = [] → (dieAt u d).target = none →
        let t := targetFor u d c
        exec (.dispatcherRun d) s =
          .next (noTarget (modDie u d fun x => { x with target := t.map fun o => (c.q, o) }) d (if t.isNone then some c.num else none))) ∧
      (∀ o, freeRects u d c = [] → (dieAt u d).target = some (c.q, o) →
        (∀ p, targetFor u d c = some p → exec (.dispatcherRun d) s = .next u) ∧
        (targetFor u d c = none →
          exec (.dispatcherRun d) s = .next (noTarget (modDie u d fun x => { x with target := none }) d (some c.num))))) ∧
    ((candidates u d).Pairwise fun c e => candBefore u d e c = false) ∧
    (∀ h c o, (dieAt u d).target = some (h.q, o) → c ≠ h → placeCand u d h c ≠ u →
      ∃ p ∈ freeRects u d c, placeCand u d h c = placeAt u d c p ∧ ∀ i ∈ candCores c p, i ∉ candCores h o) ∧
    (∀ bs, headOf s (lqRegs 0 8) = some bs → headOk (lqRegs 0 8) bs = true →
      (maskDies (recMask bs)).all (fun e => s.gangs.any fun q => q.1 / 64 == e && q.2.phase == .heldFor) = true →
      exec .caravanStart s =
        .next (ringPop { s with gangs := s.gangs.map fun e => if e.2.phase == .heldFor then
          (e.1, { e.2 with phase := .placed, caravan := some (ringHead s (lqRegs 0 8)) }) else e } (lqRegs 0 8))) ∧
    (∀ v : BitVec 64,
      let t := setAreg s (dieBlock d + 0x02000108) 0
      let g := 64 * d + fld v 7 0
      (∀ x, fld v 7 0 < 64 → gangAt s g = some x → x.phase = .running → saveVa x ≠ 0 →
        exec (.preemptWrite d v) s =
          .next (modDie (putGang t g (if x.stalled = true ∧ x.preempt = false then { x with asked := true } else { x with preempt := true })) d
            fun x => { x with lastPre := some (fld v 7 0) })) ∧
      (∀ x, fld v 7 0 < 64 → gangAt s g = some x → x.phase ≠ .running ∨ saveVa x = 0 →
        exec (.preemptWrite d v) s = .next (countIgnored t d)) ∧
      (64 ≤ fld v 7 0 ∨ gangAt s g = none → exec (.preemptWrite d v) s = .next (countIgnored t d))) ∧
    (∀ o x, o < 64 → gangAt s (64 * d + o) = some x →
      let g := 64 * d + o
      let ms := membersOf g x
      (x.phase ≠ .running ∨ x.preempt = false ∨ x.stalled = true ∨ x.hold ≠ none →
        exec (.preemptSave d o) s = .next s ∧ exec (.forcedFullSave d o) s = .next s) ∧
      (x.phase = .running → x.preempt = true → x.stalled = false → x.hold = none →
        (ms.all (fun m => safePoint s m && saveIdle s m) = true → x.stopping = false → allEnded s g x = false →
          exec (.preemptSave d o) s = .next (saveGang s g x false)) ∧
        (x.stopping = false → comeToRest s g x = true → ms.all (safePoint s) = false →
          let u := stopForSave s g x
          exec (.forcedFullSave d o) s = .next (if ms.all (saveIdle u) then saveGang u g x true else u)) ∧
        (x.stopping = false → comeToRest s g x = false → exec (.forcedFullSave d o) s = .next s) ∧
        (x.stopping = true → exec (.forcedFullSave d o) s = .next (if ms.all (saveIdle s) then saveGang s g x true else s))) ∧
      (let u := stopForSave s g x
       gangAt u g = some { x with stopping := true } ∧ u.mem = s.mem ∧
         ∀ m ∈ ms, ∀ k < 4, streamAt u (4 * m + k) = landAll (streamAt s (4 * m + k)) ∧
           (isSW (4 * m + k) = false → gangKey u (coreOf (4 * m + k)) = some g → canIssue u (4 * m + k) = false)) ∧
      (∀ full u,
        (∀ m c va, saveRun s g x full = (some (m, c, va), u) → c ≠ notYet → saveGang s g x full = memberFault u g m c va) ∧
        (∀ m va, saveRun s g x full = (some (m, notYet, va), u) → saveGang s g x full = u) ∧
        (saveRun s g x full = (none, u) → saveOut u g = true → saveGang s g x full = u) ∧
        (saveRun s g x full = (none, u) → saveOut u g = false →
          let t := saveGang s g x full
          gangAt t g = none ∧ (∀ m ∈ ms, (coreAt t m).gang = none ∧ (coreAt t m).scratch = (coreAt u m).scratch) ∧ t.mem = u.mem ∧
          ((dieAt u d).lastPre = some x.origin → bitAt (areg t (dieBlock d + 0x02000108)) 8 = true) ∧
          ((dieAt u d).lastPre ≠ some x.origin → areg t (dieBlock d + 0x02000108) = areg u (dieBlock d + 0x02000108)) ∧
          ∃ sv, aget t.saves (saveKey u g x) = some sv ∧ sv.full = full ∧ sv.slip = x.slip ∧
            ∀ m ∈ ms, (∃ e ∈ sv.cores, e.1 = m % 64 ∧ e.2 = { coreAt u m with
                reserved := Vector.replicate 8 0, pushes := (coreAt u m).pushes.map fun p => { p with closing := [] } }) ∧
              ∀ k < 4, ((4 * m + k) % 256, savedStream full (streamAt u (4 * m + k))) ∈ sv.streams)))

/-- R45, R336, R341 to R354: legs from their queues to their ends. -/
def Obligations.LegEvents : Prop := LegStartAndEnd ∧ DispatchAndPreempt

/-! ### Clocks, snapshots, power (chapters 12, 15, 18, 19) -/

/-- R254, R344, R351, R401, R466: the ticks: a gang's counter advances by 1 while the gang runs and is not frozen, and stays at
2^48 − 1; DTICK, PTICK and every STICK count modulo 2^48, PTICK not before a snapshot of its tick is latched; the slot counter
counts modulo 256, and a CSND that waited for the slot that passes takes the next to come. R471: throttling is marked and
changes no value; at the trip every die stops and no turn changes anything. -/
def Sys2Proof.Claims.ClockAndPowerEvents : Prop :=
  ∀ (s : State) (d o : Nat), d < 8 → o < 64 →
    (∀ x, gangAt s (64 * d + o) = some x →
      exec (.scheduleCounterTick d o) s =
        .next (putGang s (64 * d + o) (if x.phase = .running ∧ x.stalled = false ∧ x.tick.toNat < 2 ^ 48 - 1
          then { x with tick := x.tick + 1 } else x))) ∧
    exec (.dtickTick d) s = .next (setAreg s (dtickPa d) (BitVec.ofNat 64 ((fld (areg s (dtickPa d)) 47 0 + 1) % 2 ^ 48))) ∧
    (s.snapPend = none → ∃ m n,
      exec .ptickTick s =
        .next (setAreg { s with coach := { s.coach with subTicks := m, recTicks := n } } ptickPa
          (BitVec.ofNat 64 ((fld (areg s ptickPa) 47 0 + 1) % 2 ^ 48)))) ∧
    (∀ p, s.snapPend = some p → exec .ptickTick s = .next s) ∧
    (∃ t, exec .stickTick s = .next t ∧ t.mem = s.mem ∧ t.streams = s.streams ∧
      ∀ n, n < 32 → stewardAt t n = { stewardAt s n with stick := BitVec.ofNat 64 (((stewardAt s n).stick.toNat + 1) % 2 ^ 48) }) ∧
    (∃ t, exec (.slotCounterAdvance d) s = .next t ∧ (∀ e, dieAt t e = if e = d then { dieAt s d with slotCtr := (dieAt s d).slotCtr + 1 } else dieAt s e) ∧
      (∀ c, coreAt t c = { coreAt s c with
        csndSlot := if dieOf c = d ∧ (coreAt s c).csndSlot = some (dieAt s d).slotCtr.toNat then none else (coreAt s c).csndSlot }) ∧
      t.streams = s.streams ∧ t.mem = s.mem ∧ t.gangs = s.gangs) ∧
    (exec (.thermalThrottle d) s = .next (if d ∈ s.throttled then s else { s with throttled := d :: s.throttled })) ∧
    (exec (.throttlingEnd d) s = .next { s with throttled := s.throttled.filter fun e => e != d }) ∧
    (∃ t, exec .thermalTrip s = .next t ∧ t.tripped = true ∧ t.mem = s.mem ∧
      (∀ l, l < 4 → (vget t.hostLinks l { trained := false, cxl := false }).trained = false) ∧
      (∀ n m, n < 16 → m < 2 → csemOwner t n ≠ some m) ∧
      ∀ i, canIssue t i = false)

/-- R466: a trigger is taken unless a snapshot is held, when it adds 1 to MISS, at most 255; triggers of one tick give one
snapshot. The latch copies the state, sets VALID, SRC and SNAPTICK, and raises vector 11. REL frees it and clears VALID and
MISS. A tick match triggers with SRC 4 where MATCH is not 0. -/
def Sys2Proof.Claims.SnapshotEvents : Prop :=
  ∀ (s : State) (src : BitVec 3),
    let v := areg s snapctl
    (bitAt v 7 = true → exec (.snapshotTrigger src) s = .next (setAreg s snapctl (setFld v 63 56 (min 255 (fld v 63 56 + 1))))) ∧
    (bitAt v 7 = false → s.snapPend = none → exec (.snapshotTrigger src) s = .next { s with snapPend := some src }) ∧
    (bitAt v 7 = false → s.snapPend ≠ none → exec (.snapshotTrigger src) s = .next s) ∧
    (fld v 55 8 ≠ 0 → fld (areg s ptickPa) 47 0 = fld v 55 8 → exec .snapshotTickMatch s = exec (.snapshotTrigger 4) s) ∧
    (fld v 55 8 = 0 ∨ fld (areg s ptickPa) 47 0 ≠ fld v 55 8 → exec .snapshotTickMatch s = .next s) ∧
    (s.snapPend = some src →
      let ctl := setFld (setFld v 7 7 1) 6 4 src.toNat
      let u := setAreg (setAreg s snapctl ctl) (snapctl + 8) (areg s ptickPa)
      ∃ t c, exec .snapshotLatch s = .next t ∧ t = msixAll { u with snap := some c, snapPend := none } 11 ∧ t.snapPend = none ∧ t.snap = some c ∧ c.src = src ∧
        c.tick = (areg s ptickPa).setWidth 48 ∧ c.streams = s.streams ∧ c.cores = s.cores ∧ c.stewards = s.stewards ∧ c.gangs = s.gangs ∧
        c.dies = s.dies ∧ c.swTlb = s.swTlb ∧ c.requests = s.requests ∧ c.scopes = s.scopes ∧ c.claims = s.claims ∧
        c.plats = s.plats ∧ c.packets = s.packets ∧ c.coach = s.coach ∧ c.trunks = s.trunks ∧ c.tracked = s.tracked ∧ c.csem = s.csem ∧
        bitAt (areg t snapctl) 7 = true ∧ fld (areg t snapctl) 6 4 = src.toNat ∧ areg t (snapctl + 8) = areg s ptickPa ∧
        t.mem = s.mem ∧ t.streams = s.streams ∧ t.cores = s.cores) ∧
    (∃ t, exec .snapshotRelease s = .next t ∧ t.snap = none ∧ bitAt (areg t snapctl) 7 = false ∧ fld (areg t snapctl) 63 56 = 0 ∧
      fld (areg t snapctl) 55 8 = fld v 55 8 ∧ t.mem = s.mem)

/-- R254, R344, R351, R401, R466, R471: ticks, snapshots and power. -/
def Obligations.ClockAndSnapshotEvents : Prop := ClockAndPowerEvents ∧ SnapshotEvents

/-! ### Circuits, the package's units, the pool (chapters 12, 14, 18, 19) -/

/-- R254, R255, R329, R330: a send-table write that uses no segment twice in a cycle is accepted, another is ignored, noted in
ERRSTAT; accepted writes take effect at slot 0. A value enters its receiver's FIFO, where the oldest CRCV takes it; a credit
returns to its sender, at most 4. R428: the pool's neighbour lends 64 pages if it keeps 128, and else refuses; lent pages
become free at the borrower, and the KVAPP that asked takes one for its row; after a refusal the next direction is asked,
after the last 0x48 is owed. -/
def Sys2Proof.Claims.CircuitAndPoolEvents : Prop :=
  ∀ (s : State) (d : Nat), d < 8 →
    let x := dieAt s d
    (∀ core slot (v : BitVec 8), core < 64 → slot < 256 →
      let t := aput x.sendNext (256 * core + slot) (v &&& 0xBF)
      (tableOk t = true → exec (.sendTableWrite d core slot v) s = .next (modDie s d fun x => { x with sendNext := t })) ∧
      (tableOk t = false →
        ∃ u, exec (.sendTableWrite d core slot v) s = .next u ∧ u.dies = s.dies ∧ bitAt (areg u (errstatPa d)) 8 = true ∧
          fld (areg u (errstatPa d)) 5 0 = core ∧ fld (areg u (errstatPa d)) 63 32 = (fld (areg s (errstatPa d)) 63 32 + 1) % 2 ^ 32)) ∧
    (x.slotCtr ≠ 0 → exec (.sendTableActivate d) s = .next s) ∧
    (x.slotCtr = 0 → (∀ c < 64, ∀ q b, (streamAt s (4 * (64 * d + c) + 3)).phase ≠ .held q b) →
      exec (.sendTableActivate d) s = .next (modDie s d fun x => { x with send := x.sendNext })) ∧
    (∀ i p q v, x.circuits[i]? = some (p, q, v) → (∀ c ∈ x.circuits.take i, ¬(c.1 = p ∧ c.2.1 = q)) →
      let t := modDie s d fun x => { x with circuits := x.circuits.eraseIdx i }
      exec (.circuitArrival d i) s =
        .next (serveCrcv (modCore t (64 * d + q) fun c => { c with fifos := aput c.fifos p ((aget c.fifos p).getD [] ++ [v]) })
          (64 * d + q) p)) ∧
    (∀ i p q, x.returns[i]? = some (p, q) →
      exec (.creditReturn d i) s =
        .next (modCore (modDie s d fun x => { x with returns := x.returns.eraseIdx i }) (64 * d + p) fun c =>
          { c with credits := aput c.credits q (min 4 ((aget c.credits q).getD 4 + 1)) })) ∧
    (∀ dir, x.pool.ask = some dir → x.pool.reply = none →
      let n := d ^^^ 2 ^ dir
      let free := (dieAt s n).pool.free
      (free.length < 192 → exec (.kvLendRequest d) s = .next (modPool s d fun q => { q with reply := some [] })) ∧
      (192 ≤ free.length →
        let pages := (((free.filter fun e => e.2.isNone) ++ free.filter fun e => e.2.isSome).take 64).map fun e => e.1
        exec (.kvLendRequest d) s =
          .next (modPool (modPool s n fun q =>
            { q with
              free := q.free.filter fun e => !pages.contains e.1
              lent := q.lent ++ pages.map fun w => (w, d) }) d fun q => { q with reply := some pages }))) ∧
    (∀ dir, x.pool.ask = some dir →
      (x.pool.reply = some [] → dir < 2 → exec (.kvLendReply d) s = .next (modPool s d fun q => { q with ask := some (dir + 1), reply := none })) ∧
      (let t := modPool s d fun q => { q with ask := none, reply := none, waiter := none }
       x.pool.reply = some [] → 2 ≤ dir →
        (x.pool.waiter = none → exec (.kvLendReply d) s = .next t) ∧
        (∀ c q k, x.pool.waiter = some (c, q) → cmdAt t c q = some k →
          exec (.kvLendReply d) s = .next (kvSeatFault (modCmd t c k.seq fun z => { z with err := true }) c k 0x48))) ∧
      (∀ w r, x.pool.reply = some (w :: r) →
        let t := modPool s d fun q =>
          { q with
            ask := none, reply := none, waiter := none, free := q.free ++ (w :: r).map fun p => (p, some (d ^^^ 2 ^ dir)) }
        (x.pool.waiter = none → exec (.kvLendReply d) s = .next t) ∧
        (∀ c q k, x.pool.waiter = some (c, q) → cmdAt t c q = some k →
          (seatEvicted t (fld (k.ops.getD 1 0) 17 9) = true → exec (.kvLendReply d) s = .next t) ∧
          (seatEvicted t (fld (k.ops.getD 1 0) 17 9) = false →
            let row := kvRows t c k 1
            exec (.kvLendReply d) s =
              .next (match row.1 with
                | .next | .wait => row.2
                | .dry => kvSeatFault (modCmd row.2 c k.seq fun z => { z with err := true }) c k 0x48
                | .fault e va => engineFail row.2 c k.seq 4 e va (fld (k.ops.getD 1 0) 17 9))))))

/-- The line of the die's engine once this BNDX has reached it. -/
def Sys2Proof.Claims.lineWith (s : State) (c : Nat) (k : Cmd) : List (Nat × BitVec 32) :=
  if (boundsLine s (dieOf c)).contains (c, k.seq) then boundsLine s (dieOf c) else boundsLine s (dieOf c) ++ [(c, k.seq)]
/-- A BNDX with faces to send that the engine has not begun. -/
def Sys2Proof.Claims.boundsNew (s : State) (c : Nat) (k : Cmd) : Prop :=
  cmdAt s c k.seq = some k ∧ cmdReady s c k = true ∧ k.engine = 5 ∧ k.next = 0 ∧ k.start = false ∧ bndFaces k ≠ []
/-- The commands of the die that reached the engine before this one are done. -/
def Sys2Proof.Claims.boundsNext (s : State) (c : Nat) (k : Cmd) : Prop :=
  ∃ a b, lineWith s c k = a ++ (c, k.seq) :: b ∧ ∀ e ∈ a, ∀ j, cmdAt s e.1 e.2 = some j → boundsDone j = true
/-- A die that a router of die d does not reach (R381). -/
def Sys2Proof.Claims.beyond (s : State) (d pa : Nat) : Prop := ∃ h, homeGlobal s pa = some h ∧ reachable s (globalDie s d) h = false

/-- R383: a die owns the elements that a row of its block holds, and theirs is that row, in every mode: SPACE-TIME with its
halo, HEAD, REPLICA and ROWS. -/
def Sys2Proof.Claims.ElementOwners : Prop :=
  ∀ (e : BitVec 512) (die r : Nat) (i : Nat × Nat × Nat × Nat), die ∈ maskDies (platMask e) → r < blockRows e →
    platElem e die r = some i → die ∈ (rowHome e i).1 ∧ (rowHome e i).2 = r

/-- R387, R389 to R392, R397 to R399: a PLATW retires behind the earlier ones of its entry. A REPLAT that every die issued
alike (it holds back what R387 says from the first issue on: log entry 26) steps if every die's slot holds its schedule, and
else posts Schedule Miss (0x3A) on each; where they differ, or the caravan ends first, each raises 0x39. A fault not yet
raisable on one die holds them all (log entry 14). A step moves its bytes from source block to destination block, one
destination sector a move (log entry 97 for odd lengths, length 0 or a peer not in DIEMASK), and one outside its block is
skipped and counted (the count: log entry 26); the compiled schedule gives every element its owner's value (log entry 98);
then both generations count on and every command retires. BNDXs of a die are served in the order they reach its engine (log
entry 85); each tests every receiver, then sends its faces in ascending direction, all that it can in one move (log entry 27).
A multicast sector is written at a live member and counted in its semaphore, else the skip count rises; an overflow faults the
issuing leg, or, where that is over, no gang (log entry 84, the code ring's part too). A group's new generation waits for old
packets; a write with a reserved bit set is ignored, recorded (its OFFSET: log entry 115). -/
def Sys2Proof.Claims.PackageEvents : Prop :=
  ∀ (s : State) (i : Nat),
    (∀ u, s.platUpds[i]? = some u → (∀ v ∈ s.platUpds.take i, v.key ≠ u.key) →
      exec (.platwRetire i) s = .next { s with platUpds := s.platUpds.eraseIdx i }) ∧
    (∀ r, s.replats[i]? = some r →
      let e := platMem s r.ctx r.src
      let f := platMem s r.ctx r.dst
      let dies := maskDies (platMask e)
      let free := r.parts.all fun p => canRaise s p.1
      let held := r.parts.foldl (fun s p => if canRaise s p.1 then s else setExstat s p.1 8) s
      (r.stepping = false → (∃ d ∈ dies, ∀ p ∈ r.parts, p.1 ≠ d) →
        (∃ e ∈ s.gangs, e.2.caravan = some r.caravan ∧ e.2.phase = .dying) ∨ (∀ e ∈ s.gangs, e.2.caravan ≠ some r.caravan) →
        let live := liveParts s r
        exec (.replatRendezvous i) s =
          .next (if live.all fun p => canRaise s p.1 then dropReplat (live.foldl (fun s p => partFault s r p 0x39 0) s) r
            else live.foldl (fun s p => if canRaise s p.1 then s else setExstat s p.1 8) s)) ∧
      (r.stepping = false → (∀ d ∈ dies, ∃ p ∈ r.parts, p.1 = d) → partsLive s r = true →
        (partsAgree s r = false →
          exec (.replatRendezvous i) s =
            .next (if free then dropReplat (r.parts.foldl (fun s p => partFault s r p 0x39 0) s) r else held)) ∧
        (partsAgree s r = true → (∀ p ∈ r.parts, ∀ k, partCmd s r p = some k → cmdReady s p.2.1 k = true) →
          (dies.all (fun d => slotHolds s d r) = true →
            exec (.replatRendezvous i) s = .next (putReplat s { r with stepping := true, missed := false })) ∧
          (dies.all (fun d => slotHolds s d r) = false →
            exec (.replatRendezvous i) s =
              .next (if free then putReplat (r.parts.foldl (fun s p => partFault s r p 0x3A 0) s) { r with missed := true } else held)))) ∧
      (∀ d p k, r.stepping = true → partsLive s r = true → r.parts.find? (fun p => p.1 == d) = some p →
        partCmd s r p = some k → k.hold = none →
        let n := (aget r.done d).getD (0, 0)
        (remoteOut s (.replat r.id d) = true → exec (.replatStep i d) s = .next s) ∧
        (∀ t, remoteOut s (.replat r.id d) = false → dormosSlots s r = false → stepAt s r d = some t →
          (∀ q ∈ replatDies s r, ∀ w, stepAt s r q = some w → bfld t 0 1 ≤ bfld w 0 1) →
          let len := bfld t 2 4
          (len = 0 ∨ blockBytes e < bfld t 6 8 + len ∨ blockBytes f < bfld t 14 8 + len →
            exec (.replatStep i d) s =
              .next (modDie (putReplat s { r with done := aput r.done d (n.1 + 1, 0) }) d fun x => { x with skips := x.skips + 1 })) ∧
          (len ≠ 0 → bfld t 6 8 + len ≤ blockBytes e → bfld t 14 8 + len ≤ blockBytes f →
          let into := platBase f + bfld t 1 1 * platStride f + bfld t 14 8
          let lo := max into ((into / 32 + n.2) * 32)
          let hi := min (into + len) ((into / 32 + n.2 + 1) * 32)
          let from_ := platBase e + d * platStride e + bfld t 6 8 + (lo - into)
          lo < hi → from_ / 128 = (from_ + (hi - lo) - 1) / 128 →
          ∀ x y, walkAccess s d r.ctx (BitVec.ofNat 64 from_) .rd = .ok x →
            walkAccess s d r.ctx (BitVec.ofNat 64 lo) .wr = .ok y →
            ¬beyond s d x.pa → ¬beyond s d y.pa →
            let bs := paRead s x.pa (hi - lo) (leafKey x.via.leaf)
            let on : Replat := { r with done := aput r.done d (if into + len ≤ hi then (n.1 + 1, 0) else (n.1, n.2 + 1)) }
            (isFabric s y.pa = false → exec (.replatStep i d) s = .next (putReplat (paWrite s y.pa bs (leafKey y.via.leaf)) on)) ∧
            (isFabric s y.pa = true →
              (∀ u, sendRemote s (globalDie s d) y.pa bs (.replat r.id d) = some u → exec (.replatStep i d) s = .next (putReplat u on)) ∧
              (sendRemote s (globalDie s d) y.pa bs (.replat r.id d) = none → exec (.replatStep i d) s = .next s)))) ∧
        (remoteOut s (.replat r.id d) = false → dormosSlots s r = true →
          ∀ o q bs, (shardSectors s r d)[n.1]? = some (o, q) → shardBytes s r d o q = .ok bs →
          (∀ u, routerWrite s r.id d r.ctx (32 * q) bs = .ok (some u) →
            exec (.replatStep i d) s = .next (putReplat u { r with done := aput r.done d (n.1 + 1, 0) })) ∧
          (∀ c va, routerWrite s r.id d r.ctx (32 * q) bs = .error (c, va) → exec (.replatStep i d) s = .next (partFault s r p c va)))) ∧
      (r.stepping = true → partsLive s r = true → (∀ d ∈ replatDies s r, routerIdle s r d = true) → r.src ≠ r.dst → r.src < 16 → r.dst < 16 →
        ∃ t, exec (.replatRetire i) s = .next t ∧ platMem t r.ctx r.src = setGen e (platGen e + 1) ∧
          platMem t r.ctx r.dst = setGen f (platGen f + 1) ∧ t.replats = s.replats.filter (fun q => q.id != r.id) ∧ t.mem = s.mem ∧
          ∀ p ∈ r.parts, cmdAt t p.2.1 p.2.2.1 = none)) ∧
    (∀ c k, boundsNew s c k →
      let t := modDie s (dieOf c) fun x => { x with boundsQ := lineWith s c k }
      (¬boundsNext s c k → exec (.boundsCommandStart c k.seq) s = .next t) ∧
      (boundsNext s c k →
        (∀ f u, deadFace t c (bndFaces k) = (some f, u) →
          exec (.boundsCommandStart c k.seq) s = .next (engineFail u c k.seq 5 0x40 (faceSrc f) 0xFFFF)) ∧
        (∀ u, deadFace t c (bndFaces k) = (none, u) →
          exec (.boundsCommandStart c k.seq) s =
            .next (sendFaces (modCmd u c k.seq fun q => { q with start := true }) c k.seq (bndFaces k)))) ∧
      (∀ f ∈ bndFaces k, (neighbour s (dieOf c) (faceDir f.1)).2 = false →
        (receiverRuns s c f.1).2 = s ∧ ((receiverRuns s c f.1).1 = true ↔
          ∃ x, gangOfCore s (64 * (neighbour s (dieOf c) (faceDir f.1)).1 + bfld f.1 5 1 % 64) = some x ∧ x.phase = .running ∧
            x.ctx = ctxOf s c))) ∧
    (∀ p num sid m g gen bytes leg serial pc, s.packets[i]? = some p → p.payload = .gmc num sid m g gen bytes leg serial pc →
      p.at_ = p.dst → (∀ q ∈ s.packets.take i, ∀ a b c e l n r, q.payload ≠ Payload.gmc a sid m b c e l n r) →
      let t := { s with packets := s.packets.eraseIdx i }
      let w := areg s (groupPa g 9)
      let fail (code : BitVec 8) (t : State) : State :=
        if canRaise s (dieOf (coreOf sid)) then raise t (gmcFault sid leg serial pc code 0 t) else heldByQueue s (coreOf sid)
      (∀ code,
        let f := coreFault (coreOf sid) 3 (pc.setWidth 32) code 0 s
        let now := f.gang ≠ 0xFF ∧ legSerial s (coreOf sid) = serial
        let e := gmcFault sid leg serial pc code 0 s
        e.code = code ∧ e.agent = 3 ∧ e.pc = pc.setWidth 32 ∧ (now → e = f) ∧
        (¬now → e.gang = 0xFF ∧ e.leg = leg ∧ e.tick = (areg s (dtickPa (dieOf (coreOf sid)))).setWidth 48)) ∧
      (liveFor s m (fld (areg s (groupPa g 0)) 13 8) = false →
        exec (.gmcDelivery i) s = .next (setAreg t (groupPa g 10) (areg s (groupPa g 10) + 1))) ∧
      (liveFor s m (fld (areg s (groupPa g 0)) 13 8) = true →
        (codeHit s m (fld w 31 0) bytes.length = true → exec (.gmcDelivery i) s = .next (fail 0x10 t)) ∧
        (codeHit s m (fld w 31 0) bytes.length = false →
          let u := modCore t m fun c => { c with scratch := mwrite c.scratch (fld w 31 0) bytes }
          exec (.gmcDelivery i) s =
            .next (if fld w 63 48 = 0 then u
              else match semAdd u m (fld w 36 32) (fld w 63 48) .package [] with
                | some u => u
                | none => fail 0x12 u)))) ∧
    (∀ g (v : BitVec 64), g < 4096 →
      let old := areg s (groupPa g 0)
      (∀ r, 0 < r → r < 9 → exec (.mcastGroupWrite g r v) s = .next (setAreg s (groupPa g r) v)) ∧
      (fld v 47 37 = 0 → fld v 31 0 % 32 = 0 → fld v 31 0 < 0x200000 →
        exec (.mcastGroupWrite g 9 v) s = .next (setAreg s (groupPa g 9) v)) ∧
      (fld v 47 37 ≠ 0 ∨ fld v 31 0 % 32 ≠ 0 ∨ 0x200000 ≤ fld v 31 0 → exec (.mcastGroupWrite g 9 v) s = .next (countIoIgnored s 0)) ∧
      (fld v 63 14 ≠ 0 ∨ fld v 3 1 ≠ 0 → fld v 7 4 = fld old 7 4 → exec (.mcastGroupWrite g 0 v) s = .next (countIoIgnored s 0)) ∧
      (fld v 63 14 = 0 → fld v 3 1 = 0 →
        (fld v 7 4 = fld old 7 4 → exec (.mcastGroupWrite g 0 v) s = .next (setAreg s (groupPa g 0) v)) ∧
        (fld v 7 4 ≠ fld old 7 4 →
          ((∀ p ∈ s.packets, ∀ a b c e l n r, p.payload ≠ .gmc a b c g (fld old 7 4) e l n r) →
            exec (.mcastGroupWrite g 0 v) s = .next (setAreg (setAreg s (groupPa g 0) v) (groupPa g 10) 0)) ∧
          ((∃ p ∈ s.packets, ∃ a b c e l n r, p.payload = .gmc a b c g (fld old 7 4) e l n r) → exec (.mcastGroupWrite g 0 v) s = .next s))))

/-- R254, R255, R329, R330, R383, R390 to R399, R428: circuits, the pool, and the units of the package. -/
def Obligations.CircuitAndPackageEvents : Prop := CircuitAndPoolEvents ∧ ElementOwners ∧ PackageEvents

/-! ### Atlas space (chapter 8) -/

/-- R255, R261, R265, R267, R268, R273, R343, R347, R392, R448, R464, R465: writes of Atlas registers. A carve write of 13 to 15
is ignored and counted; another sets WAYS, and storage carved or released reads as 0. A window write that R267 does not allow is
ignored and counted; another takes effect, changes bytes of the die's own HBM only, and leaves no slice a replica of a line that
the old window covered or whose form changes. A key slot takes its 64 bytes and drops the die's dirty sectors under the old key.
ERRSTAT and EXSTAT clear. A scratchpad window write is performed on an idle or stalled core, and else counted. A leg queue's
TAIL needs a size, its LOG2N lies in 6 to 16. FABCFG keeps its old value while an outward link is not DOWN or where a coordinate
is at or above its P, and the write is recorded. A register that no rule names ignores a write, which a die counts, and a
control region ignores a host that does not hold its semaphore. -/
def Obligations.AtlasWrites : Prop :=
  ∀ (s : State) (d : Nat) (v : Word), d < 8 →
    (∀ sl, sl < 64 →
      (12 < fld v 3 0 → exec (.carveWrite d sl v) s = .next (countIgnored s d)) ∧
      (fld v 3 0 ≤ 12 →
        let a := 0x8000000000 + d * 0x40000000 + sl * 0x1000000
        ∃ t, exec (.carveWrite d sl v) s = .next t ∧ waysOf t d sl = fld v 3 0 ∧ t.streams = s.streams ∧ t.cores = s.cores ∧
          t.dies = s.dies ∧ (∀ pa, pa / 8 ≠ (dieBlock d + 0x01004000 + 8 * sl) / 8 → areg t pa = areg s pa) ∧
          ∀ p, mget t.mem p =
            if a + min (waysOf s d sl) (fld v 3 0) * 0x100000 ≤ p ∧ p < a + max (waysOf s d sl) (fld v 3 0) * 0x100000 then 0
            else mget s.mem p)) ∧
    (∀ n r, n < 32 → r < 4 →
      let reg (i : Nat) : Word := if i = r then v else areg s (winPa d n i)
      let ok := windowOk d (reg 0) (reg 1) (reg 2) (reg 3)
      (ok = false → exec (.formatWindowWrite d n r v) s = .next (countIgnored s d)) ∧
      (ok = true →
        ∃ t, exec (.formatWindowWrite d n r v) s = .next t ∧ t.atlas = (setAreg s (winPa d n r) v).atlas ∧ t.streams = s.streams ∧
          t.cores = s.cores ∧ (∀ p, p / 2 ^ 36 ≠ d → mget t.mem p = mget s.mem p) ∧
          ∀ e ∈ t.dies, ∀ q ∈ e.2.replicas, q.pa / 2 ^ 36 = d → planeFmt t q.pa = planeFmt s q.pa ∧
            ¬(bitAt (areg s (winPa d n 3)) 5 = true ∧
              fld (areg s (winPa d n 0)) 51 7 ≤ q.pa / 128 ∧ q.pa / 128 < fld (areg s (winPa d n 1)) 51 7))) ∧
    (∀ k (x : BitVec 512), k < 64 →
      ∃ t, exec (.keySlotWrite d k x) s = .next t ∧ slotKey t d k = x ∧ t.mem = s.mem ∧ t.streams = s.streams ∧
        (∀ j, j < 64 → j ≠ k → slotKey t d j = slotKey s d j) ∧
        ∀ e, e ∈ t.dram ↔ e ∈ s.dram ∧ ¬(e.1 * 32 / 2 ^ 36 = d ∧ keyTag s e.1 = slotKey s d k)) ∧
    exec (.errstatWrite d v) s = .next (setAreg s (errstatPa d) 0) ∧
    exec (.exstatWrite d v) s = .next (setAreg s (exstatPa d) 0) ∧
    (∀ c off, c < 64 → off + 8 ≤ scratchSize →
      let cid := 64 * d + c
      (windowOpen s cid = true → exec (.scratchpadWindowWrite cid off v) s =
        .next (modCore s cid fun x => { x with scratch := mwrite x.scratch off (leBytes 8 v.toNat) })) ∧
      (windowOpen s cid = false → exec (.scratchpadWindowWrite cid off v) s = .next (countIgnored s d))) ∧
    (∀ q, q < 8 →
      (fld (areg s (lqRegs d q + 8)) 4 0 ≠ 0 →
        exec (.lqtailWrite d q v) s = .next (setAreg s (lqRegs d q + 24) (BitVec.ofNat 64 (fld v 31 0)))) ∧
      (fld (areg s (lqRegs d q + 8)) 4 0 = 0 → exec (.lqtailWrite d q v) s = .next (countIgnored s d)) ∧
      (6 ≤ fld v 4 0 → fld v 4 0 ≤ 16 → exec (.lqctlWrite d q v) s = .next (setAreg s (lqRegs d q + 8) (v &&& 0x11F))) ∧
      (fld v 4 0 < 6 ∨ 16 < fld v 4 0 → exec (.lqctlWrite d q v) s = .next (countIgnored s d))) ∧
    ((∃ k < 24, linkState s (trunkDie k) (2 * trunkDim k + 1) ≠ 0) ∨
        (∃ i < 3, fld v (9 + 2 * i) (8 + 2 * i) < fld v (1 + 2 * i) (2 * i)) → exec (.fabcfgWrite v) s = .next (countIoIgnored s 0)) ∧
    ((∀ k < 24, linkState s (trunkDie k) (2 * trunkDim k + 1) = 0) →
        (∀ i < 3, fld v (1 + 2 * i) (2 * i) ≤ fld v (9 + 2 * i) (8 + 2 * i)) →
      exec (.fabcfgWrite v) s = .next (setAreg s (ioBlock 0 + 0x04000100) (v &&& 0x3F3F))) ∧
    (∀ who (o : Nat), o < 0x01000000 → exec (.registerWrite who (dieBlock d + o) v) s = .next (countIgnored s d)) ∧
    (∀ sl, sl < 64 →
      exec (.registerWrite .steward (dieBlock d + 0x01004000 + 8 * sl) v) s = exec (.carveWrite d sl v) s ∧
      ∀ m, csemOwner s 1 ≠ some m →
        exec (.registerWrite (.host m) (dieBlock d + 0x01004000 + 8 * sl) v) s = .next (countIgnored s d)) ∧
    (∀ m, csemOwner s 6 ≠ some m →
      exec (.registerWrite (.host m) (ioBlock 0 + 0x04000100) v) s = .next (countIoIgnored s 0)) ∧
    exec (.registerWrite .steward (dieBlock d + 0x02000110) v) s = exec (.exstatWrite d v) s ∧
    exec (.registerWrite .steward (ioBlock 0 + 0x04000100) v) s = exec (.fabcfgWrite v) s

/-! ### Links, packets and tracked requests (chapters 15, 20) -/

/-- R379, R380, R450, R456: a link UP goes DOWN, at both ends in the package; what waits for it is taken back, RESENT; an
outward one completes its rollover (with no SWITCH: log entry 101). A DOWN link takes TRAIN, if outward with its partner's
word; it comes UP, if outward on R449's word; after 1 ms it goes DOWN and both ends count it. -/
def Sys2Proof.Claims.LinkStates : Prop :=
  ∀ (s : State) (d L : Nat), d < 8 → L < 7 →
    (linkState s d L ≠ 2 → exec (.linkDown d L) s = .next s) ∧
    (linkState s d L = 2 →
      ∃ t, exec (.linkDown d L) s = .next t ∧ linkState t d L = 0 ∧ (∀ e, linkPeer d L = some e → linkState t e L = 0) ∧
        t.mem = s.mem ∧ t.streams = s.streams ∧ t.requests = s.requests ∧ t.packets.length = s.packets.length ∧
        (∀ (i : Nat) (p : Packet), s.packets[i]? = some p →
          let waits := (p.at_ = globalDie s d ∧ queuedLink s p = some L) ∨
            (∃ e, linkPeer d L = some e ∧ p.at_ = globalDie s e ∧ queuedLink s p = some L)
          (waits → t.packets[i]? = some { p with queued := none, resent := true, detour := [], flits := 0 }) ∧
          (¬waits → t.packets[i]? = some p)) ∧
        (L < 6 → L % 2 = 1 →
          let u := trunkAt s (trunkKey d (L / 2))
          trunkAt t (trunkKey d (L / 2)) = finishRollover u)) ∧
    (linkState s d L = 0 →
      (L % 2 = 0 → exec (.linkTrain d L) s = .next (setLink s d L 1)) ∧
      (L % 2 = 1 →
        let k := trunkKey d (L / 2)
        ∃ n w, exec (.linkTrain d L) s =
          .next (setLink (putTrunk { s with freeCtr := n } k { trunkAt s k with partner := w }) d L 1))) ∧
    (linkState s d L ≠ 0 → exec (.linkTrain d L) s = .next s) ∧
    (linkState s d L ≠ 1 → exec (.linkUp d L) s = .next s ∧ exec (.linkTrainTimeout d L) s = .next s) ∧
    (linkState s d L = 1 →
      (L % 2 = 0 → exec (.linkUp d L) s = .next (setLink s d L 2)) ∧
      (L % 2 = 1 →
        let k := trunkKey d (L / 2)
        (partnerOk s k = false → exec (.linkUp d L) s = .next s) ∧
        (partnerOk s k = true → exec (.linkUp d L) s = .next (setLink (putTrunk s k { trunkAt s k with
          txCount := 0, rxCount := 0, ackSeen := 0, epoch := false, rxEpoch := false, keyStart := 0 }) d L 2))) ∧
      ∃ t, exec (.linkTrainTimeout d L) s = .next t ∧ linkState t d L = 0 ∧ areg t (linkPa d L + 8) = areg s (linkPa d L + 8) + 1 ∧
        (∀ e, linkPeer d L = some e → linkState t e L = 0 ∧ areg t (linkPa e L + 8) = areg s (linkPa e L + 8) + 1) ∧ t.mem = s.mem) ∧
    (∀ n, n < 3 → (setLink s d L n).mem = s.mem ∧ linkState (setLink s d L n) d L = n ∧
      ∀ e, linkPeer d L = some e → linkState (setLink s d L n) e L = n)

/-- R257, R376 to R378, R381: a packet behind one of its source and destination waits, at a router also behind those taken
back (R380). At its destination it is ejected; with a next hop it enters its channel if two of 8 slots are free, on an outward
link as flits (log entry 44); with no link on, an uncorrectable error. Ejection drops a RESENT packet whose number its
source's window holds, unless it is tracked and crossed a package edge, and delivers and notes any other. One older than 200
µs is discarded. -/
def Sys2Proof.Claims.PacketMoves : Prop :=
  ∀ (s : State) (i : Nat) (p : Packet), s.packets[i]? = some p →
    exec (.packetAgeExpiry i) s = .next { s with packets := s.packets.eraseIdx i } ∧
    (p.queued = none → p.at_ ≠ p.dst → packetBehind s p false = true → exec (.routerPacket i) s = .next s) ∧
    (p.queued = none → p.at_ ≠ p.dst → packetBehind s p false = false → ∀ dim, firstDim p.at_ p.dst = some dim →
      (nextHop s p dim = none → exec (.routerPacket i) s = .next (packetLost s p)) ∧
      (∀ h det, nextHop s p dim = some (h, det) → linkFor s (p.at_ % 8) h.dim h.dir % 2 = 0 →
        let ch := channelOf h p
        (slotsFree s p.at_ ch < 2 → exec (.routerPacket i) s = .next s) ∧
        (2 ≤ slotsFree s p.at_ ch → exec (.routerPacket i) s =
          .next (modPacket s p.id fun q => { q with at_ := p.at_, queued := some ch, detour := det }))) ∧
      (∀ h det, nextHop s p dim = some (h, det) → linkFor s (p.at_ % 8) h.dim h.dir % 2 = 1 →
        let k := trunkKey (p.at_ % 8) h.dim
        let u := modPacket s p.id fun q => { q with at_ := p.at_, queued := some (1000 + k), detour := det }
        (slotsFree s p.at_ (1000 + k) < 2 → exec (.routerPacket i) s = .next s) ∧
        (2 ≤ slotsFree s p.at_ (1000 + k) → ∀ fs w, packetFlits u = (fs, w) → exec (.routerPacket i) s =
          .next (putTrunk (modPacket w p.id fun q => { q with flits := fs.length }) k
            { trunkAt w k with outQ := (trunkAt w k).outQ ++ fs.map fun f => (p.id, f) })))) ∧
    (∀ c, p.queued = some c → c < 1000 → packetBehind s p false = false → packetBehind s p true = false →
      p.at_ / 8 * 8 + (p.at_ % 8 ^^^ 2 ^ (c / 16)) = p.dst → ∀ id, p.payload = .req id →
      let e := dieAt s (p.dst % 8)
      let tracked := match reqAt s id with
        | some r => isTracked s r
        | none => false
      (p.resent = true → (p.src, p.seq) ∈ e.window → tracked = false →
        exec (.routerPacket i) s = .next { s with packets := s.packets.filter fun q => q.id != p.id }) ∧
      (p.resent = false ∨ (p.src, p.seq) ∉ e.window ∨ (tracked = true ∧ p.src / 8 ≠ p.dst / 8) →
        ∃ t, exec (.routerPacket i) s = .next t ∧ t.packets = s.packets.filter (fun q => q.id != p.id) ∧
          t.requests = mapIf (fun r => r.id == id) (fun r => { r with arrived := true }) s.requests ∧
          (p.src, p.seq) ∈ (dieAt t (p.dst % 8)).window ∧
          (∀ w ∈ e.window, w.1 ≠ p.src → w ∈ (dieAt t (p.dst % 8)).window) ∧
          ((dieAt t (p.dst % 8)).window.filter fun w => w.1 == p.src).length ≤ 256 ∧ t.mem = s.mem ∧ t.streams = s.streams)) ∧
    (∀ c, p.queued = some c → c < 1000 → packetBehind s p false = false →
      let e := p.at_ / 8 * 8 + (p.at_ % 8 ^^^ 2 ^ (c / 16))
      e ≠ p.dst →
      ((∃ q ∈ s.packets.takeWhile (fun q => q.id != p.id), q.src = p.src ∧ q.dst = p.dst ∧ q.at_ = e ∧ q.queued = none) →
        exec (.routerPacket i) s = .next s) ∧
      ((∀ q ∈ s.packets.takeWhile (fun q => q.id != p.id), ¬(q.src = p.src ∧ q.dst = p.dst ∧ q.at_ = e ∧ q.queued = none)) →
        exec (.routerPacket i) s = .next (hopPacket s { p with at_ := e, queued := none, detour := p.detour.drop 1 } (some c))))

/-- R457, R458: an access across a package edge unanswered in time is sent again, RESENT, 8 times at most, then meets an
uncorrectable error. A home slice performs a number once and keeps 256 answers per source die. The layout of fn is the model's
(log entry 15): an atomic, a write in one sector, or a semaphore increment, which widens its tag to FABRIC (R214) and is not
performed where it overflows. An answer completes the access. -/
def Sys2Proof.Claims.TrackedRequests : Prop :=
  ∀ (s : State) (id : Nat) (v v2 : Word),
    (∀ r, reqAt s id = some r → isFabric s r.pa = true → inSlice r = false →
      (8 ≤ r.tries → exec (.retransmitTimeout id) s = .next (ueAccess s r)) ∧
      (r.tries < 8 → ∀ dst, homeGlobal s r.pa = some dst →
        let src := globalDie s (if isSW r.sid then 0 else dieOf (coreOf r.sid))
        exec (.retransmitTimeout id) s = .next
          { s with
            nextId := s.nextId + 1
            requests := mapIf (fun q => q.id == id) (fun q => { q with tries := r.tries + 1 }) s.requests
            packets := s.packets ++ [{ id := s.nextId, src := src, dst := dst, at_ := src, seq := r.track, resent := true,
                                       response := false, payload := .req id, detour := [], queued := none, flits := 0 }] })) ∧
    (∀ r, reqAt s id = some r → isFabric s r.pa = false ∨ inSlice r = true → exec (.retransmitTimeout id) s = .next s) ∧
    (∀ m, reqAt s id = none → s.remotes.find? (fun m => m.id == id) = some m →
      (8 ≤ m.tries → exec (.retransmitTimeout id) s = .next (remoteFail s m)) ∧
      (m.tries < 8 →
        exec (.retransmitTimeout id) s = .next
          { s with
            nextId := s.nextId + 1
            remotes := mapIf (fun q => q.id == id) (fun q => { q with tries := m.tries + 1 }) s.remotes
            packets := s.packets ++ [{ id := s.nextId, src := m.src, dst := m.dst, at_ := m.src, seq := m.track, resent := true,
                                       response := false, payload := .put id, detour := [], queued := none, flits := 0 }] }) ∧
      (∀ c q a, m.owner = .cmd c q a → (s.packets.filter fun p => p.payload == .put id).length ≤ m.tries →
        exec (.trackedResponse id v) s = .next (if s.hwOut = [] then dropRemote s id else flushHw (dropRemote s id)))) ∧
    (∀ r, reqAt s id = some r → isTracked s r = true →
      (r.arrived = true → r.hold = none →
        (∀ a b, r.op = .store a b → exec (.trackedResponse id v) s = .next (dropReq s id)) ∧
        (∀ j a b, r.op = .atomic j a b → (atomicFn j a).1 ≠ 12 →
          let n := (atomicFn j a).2
          let old : Word := BitVec.ofNat 64 (v.toNat % 2 ^ (8 * n))
          exec (.trackedResponse id v) s =
            .next (answer s r [old, BitVec.ofNat 64 (atomicBytes (atomicFn j a).1 n (leBytes n old.toNat) a b).2.toNat])))) ∧
    (∀ (src seq fn pa n : Nat) (b : BitVec 256),
      let data : List Byte := leBytes n b.toNat
      let v : Word := b.setWidth 64
      let dst := if fn % 64 = 17 then 1024 + pa else recordHome s pa
      let run (t : State) : Prop := exec (.trackedRequest src seq fn pa n b v2) s = .next t
      (src / 8 = packageId s ∨ trackedTarget s fn pa = false ∨ (∃ t ∈ s.tracked, t.src = src ∧ t.dst = dst ∧ t.seq = seq) → run s) ∧
      (src / 8 ≠ packageId s → trackedTarget s fn pa = true → (∀ t ∈ s.tracked, ¬(t.src = src ∧ t.dst = dst ∧ t.seq = seq)) →
        (trackedEffect s fn pa n v v2 data = none → run s) ∧
        (∀ w u, trackedEffect s fn pa n v v2 data = some (w, u) →
          ∃ t, run t ∧ t = { u with tracked := t.tracked } ∧ ⟨src, dst, seq, w⟩ ∈ t.tracked ∧
            (t.tracked.filter fun e => e.src == src && e.dst == dst).length ≤ 256 ∧
            ∀ e ∈ u.tracked, ¬(e.src = src ∧ e.dst = dst) → e ∈ t.tracked)) ∧
      (fn % 64 = 16 → 1 ≤ n → pa % 32 + n ≤ 32 →
        trackedEffect s fn pa n v v2 data = some (0, paWrite s pa data (fn / 64 % 64))) ∧
      (fn % 64 = 17 → (semAt s pa (fld v 4 0)).count.toNat + fld v2 31 0 < 2 ^ 32 →
        let x := semAt s pa (fld v 4 0)
        trackedEffect s fn pa n v v2 data =
          some (0, testWaiters (putSem s pa (fld v 4 0)
            { count := x.count + BitVec.ofNat 32 (fld v2 31 0), tag := widen x.tag .fabric, settle := x.settle }) pa (fld v 4 0))) ∧
      (fn % 64 = 17 → 2 ^ 32 ≤ (semAt s pa (fld v 4 0)).count.toNat + fld v2 31 0 → trackedEffect s fn pa n v v2 data = none) ∧
      (fn % 64 < 15 → n ∈ [1, 2, 4, 8] → pa % n = 0 →
        trackedEffect s fn pa n v v2 data = (homeAtomic s (fn % 64) n pa (fn / 64 % 64) v v2).map fun r => (r.1.headD 0, r.2)) ∧
      (fn % 64 = 15 ∨ 17 < fn % 64 → trackedEffect s fn pa n v v2 data = none) ∧
      (∀ d k, placeOf (localPa s pa) = .hbm d k → recordHome s pa = 64 * d + k))

/-- R452 to R456: a link UP sends its next flit, or an empty one, keeps it for replay and counts it: under CURKEY, and from
the switch point on, EPOCH toggled, under NEXTKEY; a NAK has a stored one sent again, 8 times, then downs the link; a full
buffer sends none new; a key's last count downs the link. An ACK frees the flits and packets it covers, and completes a
rollover whose switch it reaches. A flit of the next count whose tag holds adds its payload to the queue, one of the other
EPOCH under NEXTKEY (BOTH), until an ACKSEEN covers the switch; a bad tag or later count sets NAK. SWITCH arms a STEADY link
with a NEXTKEY; CURKEY is written only while DOWN, a key write sets both ways (log entry 45). -/
def Sys2Proof.Claims.FlitMoves : Prop :=
  ∀ (s : State) (io j : Nat), io < 2 → j < 12 →
    let k := 12 * io + j
    let t := trunkAt s k
    (trunkUp s k = false → ∀ a f, exec (.flitSend io j) s = .next s ∧ exec (.flitReceive io j f) s = .next s ∧
      exec (.ackReceive io j a) s = .next s ∧ exec (.nakReceive io j a) s = .next s) ∧
    (trunkUp s k = true → ∀ n e, t.resendFrom = some n → t.replay.find? (fun e => decide (n ≤ e.1)) = some e →
      exec (.flitSend io j) s = .next (putTrunk s k { t with
        sent := t.sent ++ [e.2.2.1], resendFrom := some (e.1 + 1)
        replay := mapIf (fun f => f.1 == e.1) (fun f => (f.1, f.2.1, f.2.2.1, f.2.2.2 + 1)) t.replay })) ∧
    (trunkUp s k = true → (∀ n, t.resendFrom = some n → ∀ e ∈ t.replay, e.1 < n) →
      (1024 ≤ t.replay.length → exec (.flitSend io j) s = .next (putTrunk s k { t with resendFrom := none })) ∧
      (t.replay.length < 1024 → 2 ^ 48 ≤ t.txCount - t.keyStart →
        exec (.flitSend io j) s = .next (linkFail s (trunkDie k) (2 * trunkDim k + 1))) ∧
      (t.replay.length < 1024 → t.txCount - t.keyStart < 2 ^ 48 →
        let payload := (t.outQ.head?.map fun e => e.2).getD []
        let goes (u : Trunk) (key : BitVec 256) : Prop :=
          let bytes := flitBytes s k u key payload
          exec (.flitSend io j) s = .next (putTrunk s k { u with
            txCount := t.txCount + 1, nak := false, outQ := t.outQ.drop 1, sent := t.sent ++ [bytes], resendFrom := none
            replay := t.replay ++ [(t.txCount, t.outQ.head?.map fun e => e.1, bytes, 0)] })
        (t.txState = 0 ∨ (t.txState = 1 ∧ t.txCount ≠ t.switch) → goes t t.txKey) ∧
        (t.txState = 1 → t.txCount = t.switch →
          goes { t with txState := 2, epoch := !t.epoch, keyStart := t.txCount } (t.txNext.getD t.txKey)) ∧
        (t.txState = 2 → goes t (t.txNext.getD t.txKey)))) ∧
    (trunkUp s k = true → ∀ n,
      ((∃ e ∈ t.replay, n ≤ e.1 ∧ 8 ≤ e.2.2.2) →
        exec (.nakReceive io j n) s = .next (linkFail s (trunkDie k) (2 * trunkDim k + 1))) ∧
      ((∀ e ∈ t.replay, ¬(n ≤ e.1 ∧ 8 ≤ e.2.2.2)) →
        exec (.nakReceive io j n) s = .next (putTrunk s k { t with resendFrom := some n }))) ∧
    (trunkUp s k = true → ∀ a, t.ackSeen ≤ a → a ≤ t.txCount →
      let covered (p : Packet) : Nat := (t.replay.filter fun e => decide (e.1 < a) && e.2.1 == some p.id).length
      ∃ u, exec (.ackReceive io j a) s = .next u ∧ (trunkAt u k).ackSeen = a ∧
        (trunkAt u k).replay = t.replay.filter (fun e => decide (a ≤ e.1)) ∧
        (t.txState = 2 → t.switch ≤ a →
          (trunkAt u k).txState = 0 ∧ (trunkAt u k).txKey = t.txNext.getD t.txKey ∧ (trunkAt u k).txNext = none) ∧
        (∀ p ∈ s.packets,
          (0 < covered p → p.flits ≤ covered p → ∀ q ∈ u.packets, q.id ≠ p.id) ∧
          (covered p = 0 ∨ covered p < p.flits → (∀ q ∈ s.packets, q.id = p.id → q = p) →
            { p with flits := p.flits - covered p } ∈ u.packets)) ∧ u.mem = s.mem ∧ u.streams = s.streams) ∧
    (trunkUp s k = true → ∀ a, a < t.ackSeen ∨ t.txCount < a → exec (.ackReceive io j a) s = .next s) ∧
    (trunkUp s k = true → ∀ f : List Byte, f.length = 128 → extend16 t.rxCount (bfld f 0 2) = t.rxCount → bfld f 4 1 % 2 = t.rxEpoch.toNat →
      let nonce := flitNonce s k t.rxCount
      let key := leBytes 32 t.rxKey.toNat
      let ct := (f.drop 8).take 104
      (gcmTag key nonce (f.take 8) ct ≠ f.drop 112 → exec (.flitReceive io j f) s = .next (putTrunk s k { t with nak := true })) ∧
      (gcmTag key nonce (f.take 8) ct = f.drop 112 → bfld f 4 1 / 2 % 2 = 0 →
        let seen := extend16 (t.rxCount + 1) (bfld f 5 2)
        let acked := t.rxState = 1 ∧ t.rxSwitch ≤ seen ∧ seen ≤ t.rxCount + 1
        ∃ u, exec (.flitReceive io j f) s = .next u ∧ (trunkAt u k).rxCount = t.rxCount + 1 ∧ u.mem = s.mem ∧
          (trunkAt u k).inQ = (let body := (xorBytes ct (gcmStream key nonce 104)).take (bfld f 7 1)
            if body.isEmpty then t.inQ else t.inQ ++ [body]) ∧
          (acked → (trunkAt u k).rxState = 0 ∧ (trunkAt u k).rxKey = t.rxNext.getD t.rxKey ∧ (trunkAt u k).rxNext = none ∧
            (trunkAt u k).rxEpoch = !t.rxEpoch) ∧
          (¬acked → (trunkAt u k).rxState = t.rxState ∧ (trunkAt u k).rxKey = t.rxKey ∧ (trunkAt u k).rxNext = t.rxNext))) ∧
    (trunkUp s k = true → ∀ f : List Byte,
      (f.length ≠ 128 ∨ extend16 t.rxCount (bfld f 0 2) < t.rxCount → exec (.flitReceive io j f) s = .next s) ∧
      (f.length = 128 → t.rxCount < extend16 t.rxCount (bfld f 0 2) →
        exec (.flitReceive io j f) s = .next (putTrunk s k { t with nak := true }))) ∧
    (trunkUp s k = true → ∀ f : List Byte, f.length = 128 → extend16 t.rxCount (bfld f 0 2) = t.rxCount → bfld f 4 1 % 2 ≠ t.rxEpoch.toNat →
      (t.rxNext = none → exec (.flitReceive io j f) s = .next (putTrunk s k { t with nak := true })) ∧
      (∀ x, t.rxNext = some x →
        let nonce := flitNonce s k t.rxCount
        let key := leBytes 32 x.toNat
        let ct := (f.drop 8).take 104
        let seen := extend16 (t.rxCount + 1) (bfld f 5 2)
        let switch := if t.rxState = 0 then t.rxCount else t.rxSwitch
        let acked := switch ≤ seen ∧ seen ≤ t.rxCount + 1
        (gcmTag key nonce (f.take 8) ct ≠ f.drop 112 → exec (.flitReceive io j f) s = .next (putTrunk s k { t with nak := true })) ∧
        (gcmTag key nonce (f.take 8) ct = f.drop 112 → bfld f 4 1 / 2 % 2 = 0 → t.rxState < 2 →
          ∃ u, exec (.flitReceive io j f) s = .next u ∧ (trunkAt u k).rxCount = t.rxCount + 1 ∧ u.mem = s.mem ∧
            (trunkAt u k).inQ = (let body := (xorBytes ct (gcmStream key nonce 104)).take (bfld f 7 1)
              if body.isEmpty then t.inQ else t.inQ ++ [body]) ∧
            (acked → (trunkAt u k).rxState = 0 ∧ (trunkAt u k).rxKey = x ∧ (trunkAt u k).rxNext = none ∧
              (trunkAt u k).rxEpoch = !t.rxEpoch) ∧
            (¬acked → (trunkAt u k).rxState = 1 ∧ (trunkAt u k).rxSwitch = switch ∧ (trunkAt u k).rxKey = t.rxKey)))) ∧
    (∀ v : Word, (t.txState = 0 → t.txNext ≠ none →
        exec (.switchWrite io j v) s = .next (putTrunk s k { t with txState := 1, switch := v.toNat })) ∧
      (t.txState ≠ 0 ∨ t.txNext = none → exec (.switchWrite io j v) s = .next s)) ∧
    (∀ key : BitVec 256,
      exec (.linkKeyWrite io j true key) s = .next (putTrunk s k { t with txNext := some key, rxNext := some key }) ∧
      (linkState s (trunkDie k) (2 * trunkDim k + 1) = 0 →
        exec (.linkKeyWrite io j false key) s = .next (putTrunk s k { t with txKey := key, rxKey := key })) ∧
      (linkState s (trunkDie k) (2 * trunkDim k + 1) ≠ 0 → exec (.linkKeyWrite io j false key) s = .next s))

/-- R257, R376 to R381, R450 to R458: links, packets, flits and tracked requests. -/
def Obligations.LinkEvents : Prop := LinkStates ∧ PacketMoves ∧ TrackedRequests ∧ FlitMoves

/-! ### Stewards, hosts, ports (chapters 16, 21) -/

/-- R401, R402, R463 to R465: a halt halts a Steward that runs, sets SEVENT[3] in every Steward and raises vector 15; a resume
lets it run at its pc with EIN and DBL cleared. The doorbell takes its value and sets SEVENT[1] everywhere. MSIRAISE raises
vectors 32 to 63 and no other; a vector reaches each trained link, as a message or, where it is masked or its function has MSI-X
disabled (free at training: log entry 35), as its pending bit; unmasking, or MSI-X enabled in the function (vectors 64 and 65 of
the event), sends a pending message. A read of a free control semaphore takes it, a write of its owner releases it, and a reset
of a link releases what its master holds. -/
def Sys2Proof.Claims.StewardsAndMessages : Prop :=
  ∀ (s : State) (io n : Nat) (v : Word), io < 2 → n < 16 →
    let sid := 2048 + 16 * io + n
    let st := streamAt s sid
    (∃ t, exec (.stewardHalt io n) s = .next t ∧ areg t (stewardCtl sid) = 1 ∧ t.mem = s.mem ∧
      (∀ i, i ≠ sid → streamAt t i = streamAt s i) ∧
      ((∀ h, st.phase ≠ .holding h) → st.phase ≠ .halted →
        t = msixAll (eventAll (modStream (setAreg s (stewardCtl sid) 1) sid fun x => { x with phase := .halted }) 3) 15 ∧
        streamAt t sid = { st with phase := .halted } ∧ ∀ m, m < 32 → stewardAt t m = { stewardAt s m with sevent := (stewardAt s m).sevent ||| 8 })) ∧
    (∃ t, exec (.stewardResume io n) s = .next t ∧ areg t (stewardCtl sid) = 0 ∧ t.mem = s.mem ∧
      (st.phase = .halted → streamAt t sid = { st with phase := .running } ∧
        stewardAt t (16 * io + n) = { stewardAt s (16 * io + n) with sstatus := 0 }) ∧
      (st.phase ≠ .halted → t.streams = s.streams ∧ t.stewards = s.stewards)) ∧
    exec (.dbell io v) s = .next (eventAll (setAreg s (ioBlock io + 0x04000708) v) 1) ∧
    (∀ b, b < 7 → ∀ m, m < 32 →
      stewardAt (eventAll s b) m = { stewardAt s m with sevent := (stewardAt s m).sevent ||| BitVec.ofNat 64 (2 ^ b) }) ∧
    (∀ k, msixAll s k = msixOn (msixOn (msixOn (msixOn s 0 k) 1 k) 2 k) 3 k) ∧
    (32 ≤ v.toNat → v.toNat < 64 → exec (.msiraise io v) s = .next (msixAll s v.toNat)) ∧
    (v.toNat < 32 ∨ 64 ≤ v.toNat → exec (.msiraise io v) s = .next s) ∧
    (∀ link vec, link < 4 → vec < 64 →
      let w := areg s (msixEntry link vec + 8)
      let h := vget s.hostLinks link { trained := false, cxl := false }
      (h.trained = false → msixOn s link vec = s) ∧
      (h.trained = true → bitAt w 32 = false → h.msix = true → msixOn s link vec = { s with msiSent := s.msiSent ++ [(link, vec)] }) ∧
      (h.trained = true → bitAt w 32 = true ∨ h.msix = false → bitAt (areg (msixOn s link vec) (msixPba link)) vec = true ∧
        (msixOn s link vec).msiSent = s.msiSent) ∧
      ∃ t, exec (.msixUnmask link vec) s = .next t ∧ bitAt (areg t (msixEntry link vec + 8)) 32 = false ∧
        (h.trained = false ∨ h.msix = false → bitAt (areg t (msixPba link)) vec = bitAt (areg s (msixPba link)) vec) ∧
        (h.trained = true → h.msix = true → bitAt (areg t (msixPba link)) vec = false) ∧
        t.msiSent = s.msiSent ++
          (if h.trained = true ∧ h.msix = true ∧ bitAt (areg s (msixPba link)) vec = true then [(link, vec)] else [])) ∧
    (∀ link, link < 4 →
      let h := vget s.hostLinks link { trained := false, cxl := false }
      let now (t : State) : HostLink := vget t.hostLinks link { trained := false, cxl := false }
      h.trained = true →
      (∃ t, exec (.msixUnmask link 64) s = .next t ∧ now t = { h with msix := true } ∧ ∀ k, k < 64 →
        let sent := bitAt (areg s (msixPba link)) k = true ∧ bitAt (areg s (msixEntry link k + 8)) 32 = false
        (sent → bitAt (areg t (msixPba link)) k = false ∧ (link, k) ∈ t.msiSent) ∧
        (¬sent → bitAt (areg t (msixPba link)) k = bitAt (areg s (msixPba link)) k)) ∧
      ∃ t, exec (.msixUnmask link 65) s = .next t ∧ now t = { h with msix := false } ∧ t.msiSent = s.msiSent ∧
        ∀ k, k < 64 → bitAt (areg t (msixPba link)) k = bitAt (areg s (msixPba link)) k) ∧
    (∀ m, m < 2 →
      (csemOwner s n = none → csemValue s n = 0 ∧ exec (.csemRead m n) s = .next { s with csem := vset s.csem n (some m) }) ∧
      (∀ o, csemOwner s n = some o → csemValue s n = BitVec.ofNat 64 (256 + o) ∧ exec (.csemRead m n) s = .next s) ∧
      (csemOwner s n = some m → exec (.csemWrite m n) s = .next { s with csem := vset s.csem n none }) ∧
      (csemOwner s n ≠ some m → exec (.csemWrite m n) s = .next s)) ∧
    (∀ link, link < 4 →
      (∃ t, exec (.hostLinkReset link) s = .next t ∧ (vget t.hostLinks link { trained := true, cxl := false }).trained = false ∧
        (∀ k, k < 16 → csemOwner t k = if csemOwner s k = some (link % 2) then none else csemOwner s k) ∧
        t.mem = s.mem ∧ t.streams = s.streams ∧ t.atlas = s.atlas) ∧
      ∀ cxl, ∃ n b, exec (.hostLinkTrained link cxl) s =
        .next { s with freeCtr := n, hostLinks := vset s.hostLinks link { trained := true, cxl := cxl, msix := b } })

/-- R261, R265, R406, R461: a host access of 1, 2, 4 or 8 aligned bytes on a trained link reaches the Atlas through BAR0, and
through BAR2, or the HDM range of a link that trained as CXL, memory at its home, under the link's key slot; a read returns its
bytes. An offset past its window, at 0x82_0000_0000 or above in BAR2, is an Unsupported Request; an access to memory that does
not serve answers its fault's code (the lists of answers: log entries 73 and 90). A multicast group's write that waits (R398) is
not made yet. -/
def Sys2Proof.Claims.HostAccesses : Prop :=
  ∀ (s : State) (link win off n : Nat) (wr : Bool) (v : Word), link < 4 →
    let h := vget s.hostLinks link { trained := false, cxl := false }
    let run (wr : Bool) (t : State) : Prop := exec (.hostAccess link ⟨win, off⟩ n wr v) s = .next t
    (h.trained = false → run wr s) ∧
    (h.trained = true → n ∈ [1, 2, 4, 8] → off % n = 0 →
      (windowPa h win off = none → run wr { s with hostErr := s.hostErr ++ [(link, off, none)] }) ∧
      (∀ pa, windowPa h win off = some pa →
        (∀ c, pa < 0x8200000000 → paFault s pa = some c → run wr { s with hostErr := s.hostErr ++ [(link, pa, some c)] }) ∧
        (pa < 0x8200000000 → paFault s pa = none →
          run true (paWrite s pa (leBytes n v.toNat) (hostKey s link)) ∧
          run false { s with hostOut := s.hostOut ++ [(link, pa, BitVec.ofNat 64 (leNat (paRead s pa n (hostKey s link))))] }) ∧
        (0x9000000000 ≤ pa →
          run true (if atlasHeld s pa (leBytes n v.toNat) then s else atlasPut s (.host (link % 2)) pa (leBytes n v.toNat)) ∧
          ∃ t, run false t ∧ t.mem = s.mem ∧ t.atlas = s.atlas ∧
            t.hostOut = s.hostOut ++ [(link, pa, BitVec.ofNat 64 (leNat (atlasBytes s (.host (link % 2)) pa n).1))]))) ∧
    windowPa h 0 off = (if off < 2 ^ 32 then some (0x9000000000 + off) else none) ∧
    windowPa h 1 off = (if h.cxl = true ∧ off < 2 ^ 39 then some off else none) ∧
    windowPa h 2 off = (if off < 0x8200000000 then some off else none)

/-- R359, R460: a port takes the descriptor of its operation at the head of an enabled ring that is not empty: the buffer's
bytes leave, or those that arrive are written to it, under the descriptor's context; the descriptor then completes with status 1
or the fault's code, and its vector is raised. Writes to another package are tracked, the descriptor waits for their answers
(R457); a ring in the window of an untrained link raises Peer Gone and waits (R462; log entry 105). R459: a frame has at most
9,216 bytes, and takes a descriptor of its port; a longer descriptor completes with a free status (log entry 86), and data
longer than the descriptor's length is cut to it (log entry 103). The status write of a ring goes under key slot 0 (log entry
38). Storage needs a host link trained as PCIe. -/
def Sys2Proof.Claims.PortDescriptors : Prop :=
  let put (io : Nat) (o : RemoteOwner) (s : State) (x : Xlat) (bs : List Byte) : Except (BitVec 8 × Word) Unit × State :=
    if isFabric s x.pa then
      match sendRemote s (globalDie s (4 * io)) x.pa bs o with
      | some s => (.ok (), s)
      | none => (.error (notYet, 0), s)
    else (.ok (), paWrite s x.pa bs (leafKey x.via.leaf))
  let written (s : State) (io : Nat) (storage : Bool) (ring : Nat) (b data : List Byte) (a : Out) : Prop :=
    let r := vaWriteBy s (portTlb io storage) (bfld b 12 1 % 64) (descVa b) (data.take (bfld b 8 4)) (put io (.port io storage ring))
    (∀ e u, r = (.error e, u) → e.1 ≠ notYet → a = .next (portDone u io storage ring e.1.toNat)) ∧
    (∀ e u, r = (.error e, u) → e.1 = notYet → a = .next s) ∧
    (∀ x u, r = (.ok x, u) → a = .next (if remoteOut u (.port io storage ring) then u else portDone u io storage ring 1))
  let headPa (s : State) (r : Nat) : Nat := ringPa s r 32 (ringHead s r)
  ∀ (s : State) (io ring : Nat), io < 2 → ring < 8 →
    (∀ b, remoteOut s (.port io false ring) = false → portHead s (portRing io false ring) = some b →
      let pa := headPa s (portRing io false ring)
      hostGo s 0 pa = false → ∀ frame, exec (.netSend io ring) s = .next (hostAsk s 0 pa) ∧
        exec (.netReceive io ring frame) s = .next (hostAsk s 0 pa)) ∧
    (∀ b, nvmeOn s = true → remoteOut s (.port io true ring) = false → portHead s (portRing io true ring) = some b →
      let pa := headPa s (portRing io true ring)
      hostGo s 0 pa = false → ∀ data, exec (.storageRead io ring data) s = .next (hostAsk s 0 pa) ∧
        exec (.storageWrite io ring) s = .next (hostAsk s 0 pa) ∧ exec (.storageFlush io ring) s = .next (hostAsk s 0 pa)) ∧
    (∀ storage, remoteOut s (.port io storage ring) = true → ∀ data,
      exec (if storage then .storageRead io ring data else .netReceive io ring data) s = .next s) ∧
    (remoteOut s (.port io false ring) = false → ∀ b, portHead s (portRing io false ring) = some b →
      hostGo s 0 (headPa s (portRing io false ring)) = true →
      let ctx := bfld b 12 1 % 64
      (bfld b 13 1 = 0 → 9216 < bfld b 8 4 ∨ 8 ≤ bfld b 14 2 →
        ∃ n v, exec (.netSend io ring) s = .next (portDone { s with freeCtr := n } io false ring v)) ∧
      (bfld b 13 1 = 0 → bfld b 8 4 ≤ 9216 → bfld b 14 2 < 8 →
        (∀ e u, vaRead s (portTlb io false) ctx (descVa b) (bfld b 8 4) .rd = (.error e, u) →
          exec (.netSend io ring) s = .next (portDone u io false ring e.1.toNat)) ∧
        (∀ bs u, vaRead s (portTlb io false) ctx (descVa b) (bfld b 8 4) .rd = (.ok bs, u) →
          exec (.netSend io ring) s = .next (portDone { u with netOut := u.netOut ++ [(bfld b 14 2, bs)] } io false ring 1))) ∧
      (bfld b 13 1 = 1 → ∀ (frame : List (BitVec 8)) (q : Nat), q < 8 →
        (9216 < frame.length ∨ bfld b 14 2 ≠ q → exec (.netReceive io (8 * q + ring) frame) s = .next s) ∧
        (frame.length ≤ 9216 → bfld b 14 2 = q → written s io false ring b frame (exec (.netReceive io (8 * q + ring) frame) s)))) ∧
    (portHead s (portRing io false ring) = none → ∀ frame,
      exec (.netSend io ring) s = .next s ∧ exec (.netReceive io ring frame) s = .next s) ∧
    (∀ b, nvmeOn s = true → remoteOut s (.port io true ring) = false → portHead s (portRing io true ring) = some b →
      hostGo s 0 (headPa s (portRing io true ring)) = true →
      let ctx := bfld b 12 1 % 64
      (bfld b 13 1 = 0 → ∀ data : List (BitVec 8), written s io true ring b data (exec (.storageRead io ring data) s)) ∧
      (bfld b 13 1 = 1 → ∀ bs u, vaRead s (portTlb io true) ctx (descVa b) (bfld b 8 4) .rd = (.ok bs, u) →
        exec (.storageWrite io ring) s =
          .next (portDone { u with nvmeOut := u.nvmeOut ++ [(bfld b 14 2, bfld b 16 8, bs)] } io true ring 1)) ∧
      (bfld b 13 1 = 2 → exec (.storageFlush io ring) s =
        .next (portDone { s with nvmeOut := s.nvmeOut ++ [(bfld b 14 2, bfld b 16 8, [])] } io true ring 1))) ∧
    (nvmeOn s = false → ∀ data, exec (.storageRead io ring data) s = .next s ∧ exec (.storageWrite io ring) s = .next s ∧
      exec (.storageFlush io ring) s = .next s) ∧
    (∀ storage status,
      let r := portRing io storage ring
      portDone s io storage ring status =
        msixIo (ringPop (hwStore s (4 * io) (headPa s r + 24) [BitVec.ofNat 8 status] 0) r) io ((if storage then 24 else 16) + ring) ∧
      (isFabric s (headPa s r + 24) = false →
        hwStore s (4 * io) (headPa s r + 24) [BitVec.ofNat 8 status] 0 = paWrite s (headPa s r + 24) [BitVec.ofNat 8 status] 0))

/-- R401, R402, R460, R461, R463 to R465: Stewards, messages, host accesses and ports. -/
def Obligations.HostEvents : Prop := StewardsAndMessages ∧ HostAccesses ∧ PortDescriptors

/-! ### Boot and dies (chapters 16, 21) -/

/-- R468, R469: POWER_ON takes the image from the flash, and without one waits; BOOTGO takes the staged image. An image of which
a check fails sets BOOTSTAT, raises vector 12 and leaves the part waiting; one that passes is measured by SHAKE256 into the
measurement register, and Steward 0 of IO0 runs from the image, which lies at offset 0 of its SRAM and starts at index 0 (log
entry 33). A report holds the version, Dormos's version, the nonce, the measurement, the hash of the fuses, the serial number,
FABCFG and the caller's data, and its signature. -/
def Sys2Proof.Claims.BootEvents : Prop :=
  (∀ s : State,
    (s.boot = .off → s.flash = [] → exec .powerOn s = .next { s with boot := .waitImage }) ∧
    (s.boot = .off → s.flash ≠ [] → exec .powerOn s = .next (bootImage s s.flash)) ∧
    (s.boot ≠ .off → exec .powerOn s = .next s) ∧
    (s.boot = .waitImage → exec .bootgo s = .next (bootImage s (mread s.mem (ioBlock 0 + 0x09000000) 0x1000000))) ∧
    (s.boot ≠ .waitImage → exec .bootgo s = .next s)) ∧
  (∀ (s : State) (img pk sig hdr body : List Byte) (ver : Nat), Config.imageParts img = (pk, sig, hdr, body, ver) →
    let t := bootImage s img
    let good := shake256 32 pk = Config.rootKeyHash ∧ Config.mldsaVerify pk (hdr ++ shake256 32 body) sig = true ∧ Config.minSecurity ≤ ver
    (¬good → t.boot = .waitImage ∧ t.mem = s.mem ∧ t.streams = s.streams ∧ ∃ k, k < 3 ∧ areg t bootBase = Config.bootReason k ∧
      t = { msixAll (setAreg s bootBase (Config.bootReason k)) 12 with boot := .waitImage }) ∧
    (good → t.boot = .dormos ∧ t.dormosVersion = ver ∧ t.mem = mwrite s.mem (swBase 2048) (body.take 0x200000) ∧
      (∀ i, i < 4 → areg t (bootBase + 0x20 + 8 * i) = dword (shake256 32 img) i) ∧
      streamAt t 2048 = { streamAt s 2048 with phase := .running, pc := 0 } ∧ ∀ i, i ≠ 2048 → streamAt t i = streamAt s i)) ∧
  (∀ s : State,
    let req := aregsRead s (bootBase + 0x1000) 64
    let body := leBytes 4 1 ++ leBytes 4 s.dormosVersion ++ req.take 32 ++ aregsRead s (bootBase + 0x20) 32 ++
      shake256 32 Config.fuseConfig ++ leBytes 8 Config.serial.toNat ++ aregsRead s (ioBlock 0 + 0x04000100) 8 ++ req.drop 32
    exec .reportgo s = .next (aregsWrite s (bootBase + 0x2000) (body ++ (Config.mldsaSign body).take 3309)))

/-- R404, R405, R429: JOIN takes a die that is ABSENT, FAILED or OFFLINE to JOINING, its completion to ONLINE with its links UP
(log entry 30), its failure back to ABSENT; LEAVE takes ONLINE to EVACUATING, DONE takes EVACUATING to OFFLINE where no leg runs
or waits, with its carved storage and its replicas gone and its links DOWN, and is else counted (log entry 58); a failure takes
ONLINE to FAILED. In any other state nothing happens. -/
def Sys2Proof.Claims.DieEvents : Prop :=
  ∀ (s : State) (d : Nat), d < 8 →
    let n := dieState s d
    (∀ k, k < 8 → dieState (setDieState s d k) d = k ∧ (setDieState s d k).mem = s.mem ∧
      ∀ e, e < 8 → e ≠ d → dieState (setDieState s d k) e = dieState s e) ∧
    (n = 0 ∨ 4 ≤ n → exec (.dieJoin d) s = .next (setDieState s d 1)) ∧
    (0 < n → n < 4 → exec (.dieJoin d) s = .next s) ∧
    (n = 1 → exec (.dieJoinFail d) s = .next (setDieState s d 0) ∧
      ∃ t, exec (.dieJoinComplete d) s = .next t ∧ dieState t d = 2 ∧ linkState t d 6 = 2 ∧ t.mem = s.mem ∧ t.streams = s.streams ∧
        ∀ e D, e < 8 → D < 3 → linkPeer d (2 * D) = some e → dieServes s e = true → linkState t d (2 * D) = 2 ∧ linkState t e (2 * D) = 2) ∧
    (n ≠ 1 → exec (.dieJoinFail d) s = .next s ∧ exec (.dieJoinComplete d) s = .next s) ∧
    (n = 2 → exec (.dieLeave d) s = .next (setDieState s d 3) ∧
      ∃ t, exec (.dieFailed d) s = .next t ∧ dieState t d = 4 ∧ (∀ L, L < 7 → linkState t d L ≠ 1 ∧ linkState t d L ≠ 2) ∧ t.mem = s.mem) ∧
    (n ≠ 2 → exec (.dieLeave d) s = .next s ∧ exec (.dieFailed d) s = .next s) ∧
    (n ≠ 3 → exec (.dieDone d) s = .next s) ∧
    (n = 3 → legOnDie s d = true → exec (.dieDone d) s = .next (countIgnored s d)) ∧
    (n = 3 → legOnDie s d = false →
      ∃ t, exec (.dieDone d) s = .next t ∧ dieState t d = 5 ∧ (∀ L, L < 7 → linkState t d L ≠ 1 ∧ linkState t d L ≠ 2) ∧
        (dieAt t d).replicas = [] ∧
        ∀ p, mget t.mem p =
          if 0x8000000000 + d * 0x40000000 ≤ p ∧ p < 0x8000000000 + d * 0x40000000 + 0x40000000 then 0 else mget s.mem p)

/-- R404, R405, R429, R468, R469: boot, reports and the states of dies. -/
def Obligations.BootAndDieEvents : Prop := BootEvents ∧ DieEvents

/-! ### The Coach (chapter 17) -/

/-- A submission was taken into slot q (R411): its acceptance record is written once its ring is reached, and with no step
running the boundary goes on. -/
def Sys2Proof.Claims.accepts (w : State) (bs : List Byte) (a : Out) : Prop :=
  let pas := [ringPa w accRing 16 (ringTail w accRing)]
  let x := coachEvent (ringPush (modCoach w fun c => { c with accepting := none }) accRing bs) 8
  (coachReach w pas = false → a = .next (coachAsk w pas)) ∧
  (coachReach w pas = true →
    (x.coach.phase ≠ .idle → a = .next x) ∧
    (x.coach.phase = .idle → a = .next (finishBoundary (modCoach x fun c => { c with phase := .records (stepNo x).toNat }))))

/-- R410 to R412: while the submission ring is empty or disabled, or the Coach is, or either record ring is full, a submission
stays. One that R411 refuses, or that finds no free slot, gives a completion record with state FAULTED and code 1, whose
acceptance sequence is free (log entry 43); another takes the next acceptance sequence and the lowest free slot (the choice is
the model's: log entry 106; what is free: entry 42), and gives an acceptance record. -/
def Sys2Proof.Claims.Submissions : Prop :=
  ∀ s : State,
    (coachOn s = false ∨ ringEn s subRing = false ∨ ringHead s subRing = ringTail s subRing ∨ coachRoom s accRing = false ∨
      coachRoom s cplRing = false ∨ s.coach.accepting ≠ none → exec .coachSubmission s = .next s) ∧
    (coachOn s = true → ringEn s subRing = true → ringHead s subRing ≠ ringTail s subRing → coachRoom s accRing = true →
      coachRoom s cplRing = true → s.coach.accepting = none →
      let e := ringGet s subRing 256 (ringHead s subRing)
      let u := ringPop s subRing
      (coachReach s (submitPas s) = false → exec .coachSubmission s = .next (coachAsk s (submitPas s))) ∧
      (coachReach s (submitPas s) = true →
        (submissionBad e = true ∨ (∀ q, q < 4096 → slotFree u q = false) →
          ∃ t acc, exec .coachSubmission s = .next t ∧
            t = coachEvent (ringPush { u with freeCtr := u.freeCtr + 1 } cplRing (completion e acc 5 1)) 9 ∧ t.coach = s.coach) ∧
        (submissionBad e = false → ∀ q, q < 4096 → slotFree u q = true → (∀ r, r < q → slotFree u r = false) →
          let acc := s.coach.accSeq + 1
          let bs := e.take 8 ++ leBytes 8 acc
          accepts (modCoach (trWrite u q (patch (setSeat e 0xFFFF) 72 (leBytes 8 acc))) fun c =>
            { c with
              accSeq := acc, first := q :: c.first.filter fun p => p != q, lost := c.lost.filter fun p => p != (trCtx e, trSeq e)
              accepting := some bs }) bs (exec .coachSubmission s)))) ∧
    (∀ bs, s.hwOut = [] → s.coach.cmds = [] → s.coach.accepting = some bs → accepts s bs (exec .coachBoundary s))

/-- R415 steps 1 and 2, R421 to R423, R435: the TR of a seat's request after the commit. A seat fault makes it FAULTED with the
code; one that took KV Pool Dry stays. A REFILL step adds its rows to the progress, and clears REFILL at the position. Else
position, steps, digest, the last token and the rows of the next step follow, and a stop condition makes it DONE. The token and
the position go to the output ring. The model's reading and no rule of the spec: that an evicted request becomes EVICTED with no
progress, so that it is refilled from its start, and which rows a request in refill has (log entry 42, DEDUCED); and that a
request whose pages were lost (`seatOut`) is evicted so at the boundary (log entry 116, DEDUCED). -/
def Sys2Proof.Claims.CommitTr : Prop :=
  ∀ (s : State) (seat : Nat) (t : List Byte), t.length = 256 → s.coach.digest.length = 32 →
    let w := commitTr s seat t
    let rows := if trRefill t = true ∧ seat ∈ s.coach.refilling then min (bfld t 16 4 - bfld t 124 4) 4096 else bfld t 80 4
    let seated := trState t = 1
    let out := seat ∈ s.coach.evicted ∨ (trCtx t, trSeq t) ∈ s.coach.lost
    let plain := (∀ f ∈ s.coach.seatFaults, f.1 ≠ seat) ∧ ¬out ∧ (∀ e ∈ s.coach.dry, e.1 ≠ seat)
    (∀ f, s.coach.seatFaults.find? (fun f => f.1 == seat) = some f → seated → w = patch (setState t 5) 84 [f.2]) ∧
    ((∀ f ∈ s.coach.seatFaults, f.1 ≠ seat) → out → seated → w = patch (setState t 3) 124 (leBytes 4 0)) ∧
    ((∀ f ∈ s.coach.seatFaults, f.1 ≠ seat) → ¬out → (∃ e ∈ s.coach.dry, e.1 = seat) → w = t) ∧
    (plain → trRefill t = true →
      let v := patch t 124 (leBytes 4 (bfld t 124 4 + rows))
      w = if bfld t 124 4 + rows = bfld t 16 4 then patch v 11 (leBytes 1 0) else v) ∧
    (plain → trRefill t = false →
      let st := stagedOf s seat
      let tok := (st.filter fun v => bitAt v 48).getLast?.map fun v => fld v 31 0
      let p := bfld t 16 4 + rows
      let stops := [bfld t 28 4, bfld t 32 4, bfld t 36 4, bfld t 40 4]
      let done := (∃ v ∈ st, bitAt v 49 = true) ∨ (∃ k, tok = some k ∧ k ≠ 0xFFFFFFFF ∧ k ∈ stops) ∨
        (bfld t 24 4 ≠ 0 ∧ bfld t 24 4 ≤ p) ∨ (bfld t 44 4 ≠ 0 ∧ bfld t 44 4 ≤ bfld t 20 4 + 1)
      (p < 2 ^ 32 → bfld w 16 4 = p) ∧ (bfld t 20 4 + 1 < 2 ^ 32 → bfld w 20 4 = bfld t 20 4 + 1) ∧
      (w.drop 88).take 32 = s.coach.digest ∧
      bfld w 80 4 = ((st.filter fun v => bitAt v 50).getLast?.map fun v => fld v 47 32).getD 1 ∧
      (tok = none → bfld w 52 4 = bfld t 52 4 ∧ bfld w 64 4 = bfld t 64 4) ∧
      (∀ k, tok = some k → bfld w 52 4 = k ∧ (bfld t 64 4 + 1 < 2 ^ 32 → bfld w 64 4 = bfld t 64 4 + 1)) ∧
      (seated → (p < 2 ^ 32 → bfld t 20 4 + 1 < 2 ^ 32 → done → trState w = 4) ∧
        (p < 2 ^ 32 → bfld t 20 4 + 1 < 2 ^ 32 → ¬done → trState w = 1))) ∧
    (∀ q, applyTr s q t =
      (let old := trRead s q
       let at_ := bfld t 56 8 + bfld old 64 4 % Nat.max 1 (bfld t 68 4) * 8
       let u := if bfld old 64 4 = bfld t 64 4 then s else hwWrite s 0 (trCtx t) at_ ((t.drop 52).take 4 ++ (t.drop 16).take 4)
       trWrite u q (if trState old = 1 then t else setState t (trState old)))) ∧
    (∀ n, n < 256 → trState (setState t n) = n)

/-- R432: the second dissent: the seated requests of the step are DIVERGED, no record is written, and the boundary goes on;
until the Coach reaches their TRs it waits (log entry 105). -/
def Sys2Proof.Claims.diverges (s : State) (a : Out) : Prop :=
  let v := modCoach s fun c => { c with phase := .diverge }
  let pas := touched s (trMem s (s.coach.seats.map fun e => e.2))
  (coachReach s pas = false → a = .next (coachAsk v pas)) ∧
  (coachReach s pas = true →
    let w := s.coach.seats.foldl (fun t e =>
      if trState (trRead t e.2) = 1 then trWrite t e.2 (setState (trRead t e.2) 6) else t) v
    ∃ t, a = .next (finishBoundary t) ∧ t.coach.records = [] ∧ t.coach.seats = s.coach.seats ∧ t.coach.staged = [] ∧
      t.coach.seatFaults = [] ∧ t.coach.dry = [] ∧ t = { w with coach := t.coach })

/-- A request leaves its seat (R415 step 4, R419, R430): its TR names no seat; one that is EVICTED, DONE or FAULTED frees the
pages of its sequence, and is owed no eviction (log entry 116). -/
def Sys2Proof.Claims.leaveSeat (s : State) (k q : Nat) : State :=
  let t := trRead s q
  let ends := trState t == 3 || trState t == 4 || trState t == 5
  let u := modCoach (trWrite s q (patch t 12 (leBytes 2 0xFFFF))) fun c =>
    { c with
      seats := c.seats.filter fun e => e.1 != k
      refilling := c.refilling.filter fun j => j != k
      evicted := c.evicted.filter fun j => j != k
      lost := if ends then c.lost.filter fun p => p != (trCtx t, trSeq t) else c.lost }
  if ends then kvFreeSeq u (trSeq t) else u

/-- R415 step 3, R422: for each KV Pool Dry entry the victim is the SEATED request with a page of that die that has the lowest
priority, and of those the highest admission number; where there is none, the request that took the fault. It becomes EVICTED,
with no progress (log entry 42, DEDUCED), so that no later entry chooses it again. R415 step 4: the records are those of the
DONE and FAULTED requests, in ascending acceptance sequence. -/
def Sys2Proof.Claims.Victims : Prop :=
  ∀ s : State,
    let held (d : Nat) (e : Nat × Nat) : Prop := e ∈ s.coach.seats ∧ trState (trRead s e.2) = 1 ∧
      kvAny s d (fun k => k.key % 2 ^ 24 == trSeq (trRead s e.2)) = true
    (∀ d, (victimOf s d = none ↔ ∀ e, ¬held d e) ∧
      ∀ q, victimOf s d = some q → (∃ k, held d (k, q)) ∧ ∀ e, held d e →
        let t := trRead s e.2
        let u := trRead s q
        trPrio u < trPrio t ∨ (trPrio u = trPrio t ∧ bfld t 120 4 ≤ bfld u 120 4)) ∧
    (∀ q, evictSlot s q =
      if trState (trRead s q) = 1 then trWrite s q (patch (setState (trRead s q) 3) 124 (leBytes 4 0)) else s) ∧
    evictDry s = s.coach.dry.foldl (fun u e => ((victimOf u e.2).or (seatSlot u e.1)).elim u (evictSlot u)) s ∧
    (∀ q, q ∈ boundaryRecords s ↔ ∃ k, (k, q) ∈ s.coach.seats ∧ (trState (trRead s q) = 4 ∨ trState (trRead s q) = 5)) ∧
    (boundaryRecords s).Pairwise fun q r => trAcc (trRead s q) ≤ trAcc (trRead s r)

/-- R429, R430: a sequence is freed slot by slot, in the maps of all dies and their overflow chains: its slots are marked DEL,
and their pages go to the die's free list, or to the lender's where the die then holds more than 128 free pages or the lender
has left. A sequence that holds no slot leaves all as it is. -/
def Sys2Proof.Claims.FreedPages : Prop :=
  (∀ (s : State) (seq : Nat), (∀ d, d < 8 → kvAny s d (fun k => k.key % 2 ^ 24 == seq) = false) → kvFreeSeq s seq = s) ∧
  (∀ (s : State) (seq d pa fuel : Nat),
    let k := kvGet s pa
    let own := k.used = true ∧ k.del = false ∧ k.key % 2 ^ 24 = seq
    kvFreeChain s d seq 0 (fuel + 1) = s ∧
    (pa ≠ 0 → own → kvFreeChain s d seq pa (fuel + 1) = kvFreeChain (kvFree s d pa) d seq k.next fuel) ∧
    (pa ≠ 0 → ¬own → kvFreeChain s d seq pa (fuel + 1) = kvFreeChain s d seq k.next fuel)) ∧
  (∀ (s : State) (d pa : Nat),
    let k := kvGet s pa
    let w := BitVec.ofNat 64 k.page
    let u := kvPut s pa { k with del := true }
    let full := 128 < (dieAt u d).pool.free.length + 1 ∨ dieServes u k.lender = false
    (k.borrowed = false → kvFree s d pa = modPool u d fun p => { p with free := p.free ++ [(w, none)] }) ∧
    (k.borrowed = true → full → kvFree s d pa = giveBack u d k.lender w 8) ∧
    (k.borrowed = true → ¬full → kvFree s d pa = modPool u d fun p => { p with free := p.free ++ [(w, some k.lender)] }))

/-- R416: the candidates are the requests that are QUEUED or EVICTED, in descending priority and then ascending acceptance
sequence. Admission stops at the first for which no seat is free, the rows would exceed 65,535 or the charge exceeds the budget;
one that is admitted takes the lowest free seat and the next admission number, becomes SEATED, an EVICTED one with REFILL set,
and its charge leaves the budget. The budget is the free pages of the eight pools less 1,024, the charge LAYERS × ⌈rows / 64⌉.
Which rows a request in refill counts is the model's reading (log entry 42, DEDUCED). -/
def Sys2Proof.Claims.Admission : Prop :=
  ∀ s : State,
    (∀ q t, (q, t) ∈ waiting s ↔ q < 4096 ∧ t = trRead s q ∧ bfld t 0 8 ≠ 0 ∧ (trState t = 0 ∨ trState t = 3)) ∧
    (waiting s).Pairwise (fun a b => trPrio b.2 < trPrio a.2 ∨ (trPrio b.2 = trPrio a.2 ∧ trAcc a.2 ≤ trAcc b.2)) ∧
    kvBudget s = (((List.range 8).map fun d => (dieAt s d).pool.free.length).sum : Nat) - (1024 : Int) ∧
    rowsSeated s = (s.coach.seats.map fun e => seatRows s e.1 (trRead s e.2)).sum ∧
    (∀ k t, seatRows s k t =
      if trRefill t = true ∧ k ∈ s.coach.refilling then min (bfld t 16 4 - bfld t 124 4) 4096 else bfld t 80 4) ∧
    (∀ rows budget, admitAll s rows budget [] = s) ∧
    (∀ (rows : Nat) (budget : Int) (q : Nat) (t : List Byte) (l : List (Nat × List Byte)),
      let out := trState t = 3
      let n := if out then min (bfld t 16 4 - bfld t 124 4) 4096 else bfld t 80 4
      let cost := fld (areg s coachBase) 39 32 * ((n + 63) / 64)
      let fits := rows + n ≤ 65535 ∧ (cost : Int) ≤ budget
      ((∀ k, k < 512 → seatSlot s k ≠ none) ∨ ¬fits → admitAll s rows budget ((q, t) :: l) = s) ∧
      (∀ k, k < 512 → seatSlot s k = none → (∀ j, j < k → seatSlot s j ≠ none) → fits →
        ∃ w, w = patch (if out then patch (setSeat (setState t 1) k) 11 [1] else setSeat (setState t 1) k) 120
            (leBytes 4 (s.coach.admNum + 1)) ∧
          (t.length = 256 → trState w = 1 ∧ bfld w 12 2 = k ∧ (out → trRefill w = true) ∧ (¬out → bfld w 11 1 = bfld t 11 1) ∧
            bfld w 120 4 = (s.coach.admNum + 1) % 2 ^ 32 ∧ bfld w 16 4 = bfld t 16 4 ∧ bfld w 124 4 = bfld t 124 4) ∧
          let u := modCoach (trWrite s q w) fun c =>
            { c with
              seats := aput c.seats k q, admNum := c.admNum + 1
              refilling := if out then k :: c.refilling else c.refilling }
          admitAll s rows budget ((q, t) :: l) = admitAll u (rows + n) (budget - (charge u n : Int)) l))

/-- R413, R417: the map of step n: the step, the total of the rows, and for each seat the request, its position, the row offset,
which is the sum of the rows of the seats before it, its rows, REFILL and FIRST, and the sequence; an empty seat has its row
offset alone. It goes to SMAP0 for an odd step and SMAP1 for an even one. R418: the record launched is ROOTREC with the map, the
argument n and the Coach's join object; the join counts the one leg (log entry 43), the entry enters the queue of the record,
and STEPNO is n. -/
def Sys2Proof.Claims.MapAndLaunch : Prop :=
  ∀ (s : State) (n : Nat), n < 2 ^ 64 → (∀ e ∈ s.coach.seats, (trRead s e.2).length = 256) →
    let m := seatMapBytes s n
    let rows (k : Nat) : Nat := ((seatSlot s k).map fun q => seatRows s k (trRead s q)).getD 0
    let off (k : Nat) : Nat := ((List.range k).map rows).sum
    (m.length = 8256 ∧ bfld m 0 8 = n ∧ bfld m 8 4 = off 512 % 2 ^ 32 ∧ (m.drop 12).take 52 = List.replicate 52 0 ∧
      ∀ k, k < 512 →
        let e := (m.drop (64 + 16 * k)).take 16
        bfld e 8 2 = off k % 2 ^ 16 ∧ bfld e 10 2 = rows k % 2 ^ 16 ∧
        (seatSlot s k = none → bfld e 0 8 = 0 ∧ bfld e 12 4 = 0) ∧
        (∀ q, seatSlot s k = some q →
          let t := trRead s q
          e.take 4 = t.take 4 ∧ bfld e 4 4 = bfld t 16 4 ∧ bfld e 14 2 = trSeq t % 2 ^ 16 ∧
          bfld e 12 2 = (if trRefill t then 1 else 0) + (if q ∈ s.coach.first then 2 else 0))) ∧
    smapVa s n = areg s (coachBase + if n % 2 = 1 then 0x18 else 0x20) ∧
    (let r := hwRead s 0 coachCtxN (areg s (coachBase + 0x10)).toNat 64
     let bs := rootRecord s n
     let d := recQueue bs
     let u := hwWrite s 0 coachCtxN Config.stepJoin.toNat (leBytes 4 1 ++ List.replicate 12 0)
     (r.length = 64 → bs.length = 64 ∧ bs.take 16 = r.take 16 ∧ bfld bs 16 8 = Config.stepJoin.toNat ∧ bfld bs 24 8 = n ∧
       (bs.drop 32).take 8 = (r.drop 32).take 8 ∧ bfld bs 40 8 = (smapVa s n).toNat ∧ bs.drop 48 = r.drop 48) ∧
     launch s n = modCoach (setAreg (ringPush u (lqRegs d.1 d.2) (queueEntry bs coachCtxN (fld (areg u (dtickPa d.1)) 47 0)))
       (coachBase + 8) (BitVec.ofNat 64 n)) fun c => { c with phase := .running, ends := [], staged := [] })

/-- R412, R415 steps 4 to 7: the completion records are written in order while their ring has room, which the boundary waits
for; then the requests that left SEATED, or that a PARK took, leave their seats, waiting requests whose pages were lost are
EVICTED (log entry 116, DEDUCED), admission fills the free seats from what the pools hold then, the map of the next step is
written, and the step is launched, or the Coach idles with no seat taken. A launch waits for room in its queue before admission
(log entry 43), and each part for the memory that it needs (log entry 105). -/
def Sys2Proof.Claims.BoundarySteps : Prop :=
  (∀ s : State,
    let r := writeRecords s s.coach.records
    let w := modCoach (r.coach.seats.foldl (fun u e =>
      if trState (trRead u e.2) = 1 ∧ e.1 ∉ u.coach.leaving then u else leaveSeat u e.1 e.2) r) fun c => { c with leaving := [] }
    let n := (stepNo w).toNat + 1
    let e := (waiting w).foldl (fun u e =>
      if (trCtx e.2, trSeq e.2) ∈ u.coach.lost then
        modCoach (kvFreeSeq (trWrite u e.1 (patch (setState e.2 3) 124 (leBytes 4 0))) (trSeq e.2)) fun c =>
          { c with lost := c.lost.filter fun p => p != (trCtx e.2, trSeq e.2) }
      else u) w
    let a := admitAll e (rowsSeated e) (kvBudget e) (waiting e)
    let v := modCoach (hwWrite a 0 coachCtxN (smapVa a n).toNat (seatMapBytes a n)) fun c =>
      { c with
        first := c.first.filter (fun q => !(c.seats.any fun e => e.2 == q)), reruns := 0, dissents := 0, committed := [] }
    let x := modCoach (setAreg v (coachBase + 8) (BitVec.ofNat 64 n)) fun c => { c with phase := .relaunch }
    let pas := launchPas x n
    let out := finishBoundary s
    (coachReach s (recordPas s) = false → out = coachAsk s (recordPas s)) ∧
    (coachReach s (recordPas s) = true →
      (r.coach.records ≠ [] → out = r) ∧
      (r.coach.records = [] → coachReach r (nextPas r) = false → out = coachAsk r (nextPas r)) ∧
      (r.coach.records = [] → coachReach r (nextPas r) = true →
        (canLaunch w n = false → out = w) ∧
        (canLaunch w n = true →
          (v.coach.seats = [] → out = modCoach v fun c => { c with phase := .idle }) ∧
          (v.coach.seats ≠ [] →
            (coachReach x pas = false → out = coachAsk x pas) ∧
            (coachReach x pas = true → out = if canLaunch x n then launch x n else x)))))) ∧
  (∀ (s : State) (q : Nat) (l : List Nat),
    let t := trRead s q
    let c := completion t (trAcc t) (trState t) (bfld t 84 1)
    writeRecords s [] = modCoach s (fun c => { c with records := [] }) ∧
    (coachRoom s cplRing = false → writeRecords s (q :: l) = modCoach s fun c => { c with records := q :: l }) ∧
    (coachRoom s cplRing = true → writeRecords s (q :: l) = writeRecords (coachEvent (ringPush s cplRing c) 9) l) ∧
    (t.length = 256 → c.length = 32 ∧ c.take 8 = t.take 8 ∧ bfld c 8 8 = bfld t 72 8 ∧ bfld c 16 4 = bfld t 16 4 ∧
      bfld c 20 4 = bfld t 64 4 ∧ bfld c 24 1 = trState t ∧ bfld c 25 1 = bfld t 84 1 ∧ c.drop 26 = List.replicate 6 0))

/-- R415, R423, R431, R432: a step that runs ends when its join's count is 0 and PCOUNT STEPENDs came; with CONCUR its digest
goes to DIGOUT and the boundary waits for the verdict, which concurs, or dissents, when it names the step; without CONCUR the
boundary runs. A second dissent makes the seated requests DIVERGED. The journal record holds every TR of the step as the commit
leaves it; it is written, is complete in both copies, and is then applied, in a move each (log entry 41). A discarded step is
launched again once its leg queue has room (log entry 43). A join that recorded 0xF0 runs the step again, four times at most;
one that recorded another code faults every request of the step with it; neither waits for STEPENDs, and the faulted step runs
its boundary with no DIGOUT and no verdict (log entry 40). The Coach waits while it does not reach the memory it needs (log
entry 105). -/
def Sys2Proof.Claims.Boundaries : Prop :=
  ∀ s : State,
    let j := joinNow s
    let jpas := touched s [(coachCtxN, Config.stepJoin.toNat, 16)]
    let ended := bfld j 0 4 = 0 ∧ fld (areg s coachBase) 31 16 ≤ s.coach.ends.length
    let u := modCoach s fun c => { c with digest := stepDigest s }
    let free := s.hwOut = [] ∧ s.coach.cmds = [] ∧ s.coach.accepting = none
    (s.hwOut ≠ [] → exec .coachBoundary s = .next (flushHw s)) ∧
    (free → coachOn s = false → exec .coachBoundary s = .next s) ∧
    (free → coachOn s = true → (∀ k, s.coach.phase = .records k → exec .coachBoundary s = .next (finishBoundary s)) ∧
      (s.coach.phase = .idle ∨ s.coach.phase = .verdict → exec .coachBoundary s = .next s) ∧
      (s.coach.phase = .relaunch → exec .coachBoundary s = .next (rerun s)) ∧
      (s.coach.phase = .begin → exec .coachBoundary s = .next (runBoundary s)) ∧
      (s.coach.phase = .diverge → diverges s (exec .coachBoundary s)) ∧
      (∀ b, s.coach.phase = .commit → s.coach.journal = some b →
        (coachReach s (commitPas s b) = false → exec .coachBoundary s = .next (coachAsk s (commitPas s b))) ∧
        (coachReach s (commitPas s b) = true →
          (b.complete = false → ∃ t, exec .coachBoundary s = .next t ∧
            t.coach = { s.coach with journal := some { b with complete := true } } ∧ t.streams = s.streams) ∧
          (b.complete = true → ∃ t, exec .coachBoundary s = .next (finishBoundary t) ∧
            t.coach.records = boundaryRecords (evictDry (applyJournal s b)) ∧ t.coach.seatFaults = [] ∧ t.coach.staged = [] ∧
            ∀ k ∈ b.evicted, k ∉ t.coach.evicted)))) ∧
    (let v := modCoach s fun c => { c with phase := .begin }
     (coachReach s (beginPas s) = false → runBoundary s = coachAsk v (beginPas s)) ∧
     (coachReach s (beginPas s) = true →
      (runBoundary s).coach.phase = .commit ∧ ∃ b, (runBoundary s).coach.journal = some b ∧ b.complete = false ∧
        b.trs = s.coach.seats.map (fun e => (e.2, commitTr s e.1 (trRead s e.2))) ∧ b.evicted = s.coach.evicted)) ∧
    (let v := modCoach s fun c => { c with seatFaults := [], dry := [], phase := .relaunch }
     let n := (stepNo s).toNat
     (coachReach s (launchPas s n) = false → rerun s = coachAsk v (launchPas s n)) ∧
     (coachReach s (launchPas s n) = true → canLaunch s n = false → rerun s = v) ∧
     (coachReach s (launchPas s n) = true → canLaunch s n = true →
      (rerun s).coach = { v.coach with phase := .running, ends := [], staged := [] })) ∧
    (free → coachOn s = true → s.coach.phase = .running →
      (coachReach s jpas = false → exec .coachBoundary s = .next (coachAsk s jpas)) ∧
      (coachReach s jpas = true → bfld j 5 1 % 2 = 0 →
        (¬ended → exec .coachBoundary s = .next s) ∧
        (ended → bitAt (areg s coachBase) 1 = false → exec .coachBoundary s = .next (runBoundary u)) ∧
        (ended → bitAt (areg s coachBase) 1 = true →
          ∃ t, exec .coachBoundary s = .next t ∧ t.coach = { u.coach with phase := .verdict } ∧
            (∀ i, i < 4 → areg t (digoutPa + 8 * i) = dword (stepDigest s) i) ∧ t.mem = s.mem ∧ t.streams = s.streams)) ∧
      (coachReach s jpas = true → bfld j 5 1 % 2 = 1 → bfld j 0 4 = 0 →
        (∀ code, bfld j 4 1 = code → code < 256 → code ≠ 0xF0 →
          exec .coachBoundary s = .next (runBoundary (faultSeated s (BitVec.ofNat 8 code)))) ∧
        (bfld j 4 1 = 0xF0 → 4 ≤ s.coach.reruns → exec .coachBoundary s = .next (runBoundary (faultSeated s 0xF0))) ∧
        (bfld j 4 1 = 0xF0 → s.coach.reruns < 4 →
          exec .coachBoundary s = .next (rerun (modCoach s fun c => { c with reruns := c.reruns + 1 }))))) ∧
    (∀ step : BitVec 62,
      (verdictFor s step = false → exec (.verdictConcur step) s = .next s ∧ exec (.verdictDissent step) s = .next s) ∧
      (verdictFor s step = true → exec (.verdictConcur step) s = .next (runBoundary s) ∧
        (s.coach.dissents = 0 →
          exec (.verdictDissent step) s = .next (rerun (modCoach s fun c => { c with dissents := 1 }))) ∧
        (s.coach.dissents ≠ 0 → diverges s (exec (.verdictDissent step) s))))

/-- R419, R420: EVICT marks a SEATED request, PARK takes one that is QUEUED or SEATED to PARKED, UNPARK and RELEASE take a
PARKED and a DIVERGED one back to QUEUED, while TRLD still reads the TR of the last boundary; a command that the request's state
does not take is counted (log entry 58) and changes no record; one that comes before the Coach reaches the TR waits (log entry
105). R415: a warm reset discards an incomplete journal record and runs its step again, and applies a complete one; the rest
stays as it is (log entry 57). -/
def Sys2Proof.Claims.RequestCommands : Prop :=
  ∀ (s : State) (q : Nat), q < 4096 →
    let n := trState (trRead s q)
    let ignored := modCoach s fun c => { c with ignoredCmds := c.ignoredCmds + 1 }
    let pas := touched s (trMem s [q])
    (s.coach.cmds ≠ [] ∨ coachReach s pas = false →
      ∀ i ∈ [(1, Instr.cmdEvict q), (2, .cmdPark q), (3, .cmdUnpark q), (4, .cmdRelease q)],
        exec i.2 s = .next (modCoach (coachAsk s pas) fun c => { c with cmds := c.cmds ++ [(i.1, q)] })) ∧
    (∀ op slot r, s.hwOut = [] → s.coach.cmds = (op, slot) :: r →
      let pas := touched s (trMem s [slot])
      (coachReach s pas = false → exec .coachBoundary s = .next (coachAsk s pas)) ∧
      (coachReach s pas = true →
        exec .coachBoundary s = .next (cmdEffect (modCoach s fun c => { c with cmds := r }) op slot))) ∧
    (s.coach.cmds = [] → coachReach s pas = true →
      (bfld (trRead s q) 0 8 = 0 → exec (.cmdEvict q) s = .next ignored ∧ exec (.cmdPark q) s = .next ignored ∧
        exec (.cmdUnpark q) s = .next ignored ∧ exec (.cmdRelease q) s = .next ignored) ∧
      (bfld (trRead s q) 0 8 ≠ 0 →
        (n ≠ 1 → exec (.cmdEvict q) s = .next ignored) ∧
        (n = 1 → ∀ k, s.coach.seats.find? (fun e => e.2 == q) = some (k, q) →
          ∃ t, exec (.cmdEvict q) s = .next t ∧ k ∈ t.coach.evicted ∧ (∀ e ∈ s.coach.evicted, e ∈ t.coach.evicted) ∧ t.mem = s.mem) ∧
        (n ≠ 0 → n ≠ 1 → exec (.cmdPark q) s = .next ignored) ∧
        (n = 0 ∨ n = 1 → exec (.cmdPark q) s = .next (modCoach (trCommand s q 2) fun c =>
          { c with leaving := c.leaving ++ ((c.seats.filter fun e => e.2 == q).map fun e => e.1) })) ∧
        (n = 2 → exec (.cmdUnpark q) s = .next (trCommand s q 0)) ∧ (n ≠ 2 → exec (.cmdUnpark q) s = .next ignored) ∧
        (n = 6 → exec (.cmdRelease q) s = .next (trCommand s q 0)) ∧ (n ≠ 6 → exec (.cmdRelease q) s = .next ignored))) ∧
    (∀ k, (trCommand s q k).mem = (trMove s q k).mem ∧ (trCommand s q k).coach.seats = s.coach.seats ∧
      aget (trCommand s q k).coach.committed q = some ((aget s.coach.committed q).getD (trRead s q))) ∧
    (∀ b, s.coach.phase = .commit → s.coach.journal = some b →
      (b.complete = true → exec .warmReset s = .next (commitStep s b)) ∧
      (b.complete = false → exec .warmReset s = .next (rerun (modCoach s fun c => { c with journal := none })))) ∧
    (s.coach.phase ≠ .commit → exec .warmReset s = .next s)

/-- R410 to R413, R415 to R420, R422, R423, R430 to R432: the Coach. Where a clause rests on the model's reading its part says
so. -/
def Obligations.CoachEvents : Prop :=
  Submissions ∧ CommitTr ∧ Victims ∧ FreedPages ∧ Admission ∧ MapAndLaunch ∧ BoundarySteps ∧ Boundaries ∧ RequestCommands
end

