-- ==== Sys2Proof/Laws/Decode.lean ====
section
/-! SUPPORT. Fields of a word: what the bits of a concatenation are, from which the round trips follow by arithmetic. -/
namespace Sys2Proof

theorem append_val {a b : Nat} (x : BitVec a) (y : BitVec b) : (x ++ y).toNat = x.toNat * 2 ^ b + y.toNat := by
  rw [BitVec.toNat_append, ← Nat.shiftLeft_add_eq_or_of_lt y.isLt, Nat.shiftLeft_eq]
theorem bits_val (w : IWord) {lo n : Nat} (v : BitVec n) (h : w.toNat / 2 ^ lo % 2 ^ n = v.toNat) : bits w lo n = v := by
  apply BitVec.eq_of_toNat_eq; simp [bits, BitVec.extractLsb'_toNat, Nat.shiftRight_eq_div_pow, h]

end Sys2Proof
end

