-- ==== Sys2Proof/Laws/Tables.lean ====
section
/-! SUPPORT. Laws of the sparse tables, of fixed arrays, and of memories: what a read gives after a write, and that every
operation keeps the canonical form. -/
namespace Sys2Proof.Machine

/-! ### Sparse tables -/

@[simp] theorem aget_nil {β : Type} (k : Nat) : aget ([] : AMap β) k = none := rfl

@[simp] theorem aget_aput_same {β : Type} (t : AMap β) (k : Nat) (v : β) : aget (aput t k v) k = some v := by
  induction t with
  | nil => simp [aput, aget]
  | cons e r ih =>
    obtain ⟨j, b⟩ := e
    simp only [aput]
    split
    · simp [aget]
    · split
      · simp [aget]
      · rename_i h _
        simp [aget, h, ih]

theorem aget_aput_ne {β : Type} (t : AMap β) {k j : Nat} (v : β) (h : j ≠ k) : aget (aput t k v) j = aget t j := by
  induction t with
  | nil => simp [aput, aget, Ne.symm h]
  | cons e r ih =>
    obtain ⟨i, b⟩ := e
    simp only [aput]
    split
    · subst_vars; simp [aget, Ne.symm h]
    · split
      · simp [aget, Ne.symm h]
      · simp only [aget]; split <;> simp_all

theorem aget_aput {β : Type} (t : AMap β) (k j : Nat) (v : β) :
    aget (aput t k v) j = if j = k then some v else aget t j := by
  split
  · subst_vars; simp
  · exact aget_aput_ne t v ‹_›

@[simp] theorem aget_adel_same {β : Type} (t : AMap β) (k : Nat) : aget (adel t k) k = none := by
  induction t with
  | nil => rfl
  | cons e r ih =>
    obtain ⟨j, b⟩ := e
    simp only [adel, List.filter] at ih ⊢
    split
    · rename_i h
      have h : j ≠ k := by simpa using h
      simp [aget, h, ih]
    · exact ih

theorem aget_adel_ne {β : Type} (t : AMap β) {k j : Nat} (h : j ≠ k) : aget (adel t k) j = aget t j := by
  induction t with
  | nil => rfl
  | cons e r ih =>
    obtain ⟨i, b⟩ := e
    simp only [adel, List.filter] at ih ⊢
    split
    · simp only [aget, ih]
    · rename_i h'
      have : i = k := by simpa using h'
      subst this
      simp [aget, Ne.symm h, ih]

/-! ### Fixed arrays -/

@[simp] theorem vget_vset_same {α : Type} {n : Nat} (v : Vector α n) {i : Nat} (a d : α) (h : i < n) :
    vget (vset v i a) i d = a := by
  simp [vget, vset, h]

theorem vget_vset_ne {α : Type} {n : Nat} (v : Vector α n) {i j : Nat} (a d : α) (h : j ≠ i) :
    vget (vset v i a) j d = vget v j d := by
  simp [vget, vset, Ne.symm h]

/-! ### Memories -/

/-- The canonical form as a fact about pairs and entries. -/
theorem wf_iff (m : Memory) : Memory.wf m = true ↔ m.Pairwise (fun a b => a.1 < b.1) ∧ ∀ c ∈ m, c.2 ≠ 0 := by
  induction m with
  | nil => simp [Memory.wf]
  | cons c r ih =>
    obtain ⟨a, b⟩ := c
    cases r with
    | nil => simp [Memory.wf]
    | cons d t =>
      obtain ⟨a', b'⟩ := d
      simp only [Memory.wf, Bool.and_eq_true, bne_iff_ne, ne_eq, decide_eq_true_eq] at ih ⊢
      rw [ih]
      constructor
      · rintro ⟨⟨h1, h2⟩, h3, h4⟩
        refine ⟨List.pairwise_cons.2 ⟨?_, h3⟩, ?_⟩
        · intro x hx
          rcases List.mem_cons.1 hx with rfl | hx
          · exact h2
          · exact lt_trans h2 ((List.pairwise_cons.1 h3).1 x hx)
        · intro x hx
          rcases List.mem_cons.1 hx with rfl | hx
          · exact h1
          · exact h4 x hx
      · rintro ⟨h1, h2⟩
        obtain ⟨h1, h3⟩ := List.pairwise_cons.1 h1
        exact ⟨⟨h2 (a, b) (by simp), h1 (a', b') (by simp)⟩, h3, fun x hx => h2 x (by simp [hx])⟩

theorem cells_mem (a : Nat) (bs : List Byte) :
    ∀ c ∈ cells a bs, a ≤ c.1 ∧ c.1 < a + bs.length ∧ c.2 ≠ 0 := by
  induction bs generalizing a with
  | nil => simp [cells]
  | cons b r ih =>
    intro c hc
    simp only [cells] at hc
    split at hc
    · obtain ⟨h1, h2, h3⟩ := ih (a + 1) c hc
      refine ⟨by omega, ?_, h3⟩
      simp only [List.length_cons]; omega
    · rcases List.mem_cons.1 hc with rfl | hc
      · simp_all
      · obtain ⟨h1, h2, h3⟩ := ih (a + 1) c hc
        refine ⟨by omega, ?_, h3⟩
        simp only [List.length_cons]; omega

theorem cells_pairwise (a : Nat) (bs : List Byte) : (cells a bs).Pairwise (fun x y => x.1 < y.1) := by
  induction bs generalizing a with
  | nil => simp [cells]
  | cons b r ih =>
    simp only [cells]
    split
    · exact ih (a + 1)
    · refine List.pairwise_cons.2 ⟨fun c hc => ?_, ih (a + 1)⟩
      have := cells_mem (a + 1) r c hc
      simp; omega

/-- A filtered memory keeps the canonical form. -/
theorem wf_filter (m : Memory) (p : Host.Cell → Bool) (h : m.wf = true) : Memory.wf (m.filter p) = true := by
  rw [wf_iff] at h ⊢
  exact ⟨h.1.filter p, fun c hc => h.2 c (List.mem_of_mem_filter hc)⟩

/-- Every write keeps the canonical form. -/
theorem wf_mwrite (m : Memory) (a : Nat) (bs : List Byte) (h : m.wf = true) : (mwrite m a bs).wf = true := by
  rw [wf_iff] at h ⊢
  refine ⟨?_, ?_⟩
  · unfold mwrite
    rw [List.pairwise_append, List.pairwise_append]
    refine ⟨h.1.filter _, ⟨cells_pairwise a bs, h.1.filter _, ?_⟩, ?_⟩
    · intro x hx y hy
      have h1 := cells_mem a bs x hx
      have h2 := (List.mem_filter.1 hy).2
      simp at h2; omega
    · intro x hx y hy
      have h1 := (List.mem_filter.1 hx).2
      simp at h1
      rcases List.mem_append.1 hy with hy | hy
      · have h2 := cells_mem a bs y hy; omega
      · have h2 := (List.mem_filter.1 hy).2
        simp at h2; omega
  · intro c hc
    rcases List.mem_append.1 hc with hc | hc
    · exact h.2 c (List.mem_of_mem_filter hc)
    · rcases List.mem_append.1 hc with hc | hc
      · exact (cells_mem a bs c hc).2.2
      · exact h.2 c (List.mem_of_mem_filter hc)

/-- A sequence of writes keeps the canonical form. -/
theorem wf_foldl_mwrite {β : Type} (l : List β) (f : β → Nat) (g : β → List Byte) (m : Memory) (h : m.wf = true) :
    (l.foldl (fun m b => mwrite m (f b) (g b)) m).wf = true := by
  induction l generalizing m with
  | nil => exact h
  | cons b r ih => exact ih _ (wf_mwrite _ _ _ h)

theorem mget_append (m n : Memory) (a : Nat) :
    mget (m ++ n) a = if m.any (fun c => c.1 == a) then mget m a else mget n a := by
  induction m with
  | nil => simp
  | cons c r ih =>
    obtain ⟨j, b⟩ := c
    simp only [List.cons_append, mget, ih, List.any_cons]
    by_cases h : j = a <;> simp [h]

theorem mget_of_not_mem (m : Memory) (a : Nat) (h : ∀ c ∈ m, c.1 ≠ a) : mget m a = 0 := by
  induction m with
  | nil => rfl
  | cons c r ih =>
    obtain ⟨j, b⟩ := c
    have : j ≠ a := h (j, b) (by simp)
    simp [mget, this, ih (fun c hc => h c (by simp [hc]))]

theorem mget_filter (m : Memory) (p : Nat → Bool) (a : Nat) (h : p a = true) :
    mget (m.filter fun c => p c.1) a = mget m a := by
  induction m with
  | nil => rfl
  | cons c r ih =>
    obtain ⟨j, b⟩ := c
    simp only [List.filter_cons]
    split
    · simp [mget, ih]
    · have : j ≠ a := by rintro rfl; simp_all
      simp [mget, this, ih]

theorem mget_cells (a : Nat) (bs : List Byte) (i : Nat) : mget (cells a bs) (a + i) = bs.getD i 0 := by
  induction bs generalizing a i with
  | nil => simp [cells, mget]
  | cons b r ih =>
    cases i with
    | zero =>
      simp only [cells]
      split
      · rename_i h
        rw [mget_of_not_mem]
        · simp [h]
        · intro c hc
          have := cells_mem (a + 1) r c hc
          omega
      · simp [mget]
    | succ i =>
      have : a + (i + 1) = (a + 1) + i := by omega
      simp only [cells]
      split
      · rw [this, ih]; simp
      · rw [this]
        have hne : ¬a = a + 1 + i := by omega
        rw [mget, if_neg hne, ih, List.getD_cons_succ]

/-- A byte outside the written bytes reads as before. -/
theorem mget_mwrite_out (m : Memory) (a : Nat) (bs : List Byte) (x : Nat) (h : x < a ∨ a + bs.length ≤ x) :
    mget (mwrite m a bs) x = mget m x := by
  unfold mwrite
  rcases h with h | h
  · rw [mget_append]
    split
    · exact mget_filter m (fun j => decide (j < a)) x (by simp [h])
    · rename_i hn
      have hz : mget m x = 0 := by
        rw [← mget_filter m (fun j => decide (j < a)) x (by simp [h])]
        refine mget_of_not_mem _ _ fun c hc he => hn ?_
        exact List.any_eq_true.2 ⟨c, hc, by simp [he]⟩
      rw [hz]
      refine mget_of_not_mem _ _ fun c hc he => ?_
      rcases List.mem_append.1 hc with hc | hc
      · have := cells_mem a bs c hc; omega
      · have := (List.mem_filter.1 hc).2; simp at this; omega
  · rw [mget_append, if_neg, mget_append, if_neg]
    · exact mget_filter m (fun j => decide (a + bs.length ≤ j)) x (by simp [h])
    · simp only [List.any_eq_true, not_exists, not_and, beq_iff_eq]
      intro c hc he
      have := cells_mem a bs c hc; omega
    · simp only [List.any_eq_true, not_exists, not_and, beq_iff_eq]
      intro c hc he
      have := (List.mem_filter.1 hc).2; simp at this; omega

/-- A written byte reads as written. -/
theorem mget_mwrite_in (m : Memory) (a : Nat) (bs : List Byte) (i : Nat) (h : i < bs.length) :
    mget (mwrite m a bs) (a + i) = bs.getD i 0 := by
  unfold mwrite
  rw [mget_append, if_neg, mget_append]
  · split
    · exact mget_cells a bs i
    · rename_i hn
      have hz : mget (cells a bs) (a + i) = 0 :=
        mget_of_not_mem _ _ fun c hc he => hn (List.any_eq_true.2 ⟨c, hc, by simp [he]⟩)
      rw [mget_cells] at hz
      rw [hz]
      refine mget_of_not_mem _ _ fun c hc he => ?_
      have := (List.mem_filter.1 hc).2; simp at this; omega
  · simp only [List.any_eq_true, not_exists, not_and, beq_iff_eq]
    intro c hc he
    have := (List.mem_filter.1 hc).2; simp at this; omega

@[simp] theorem mread_length (m : Memory) (a n : Nat) : (mread m a n).length = n := by simp [mread]

/-- A run of bytes reads back as it was written. -/
theorem mread_mwrite (m : Memory) (a : Nat) (bs : List Byte) : mread (mwrite m a bs) a bs.length = bs := by
  apply List.ext_getElem
  · simp
  · intro i h1 h2
    simp [mread, mget_mwrite_in m a bs i h2, h2]

@[simp] theorem leBytes_length (n v : Nat) : (leBytes n v).length = n := by
  induction n generalizing v with
  | zero => rfl
  | succ n ih => simp [leBytes, ih]

end Sys2Proof.Machine
end

