-- ==== Sys2Proof/Laws/State.lean ====
section
/-! SUPPORT. What each update of the state does to each field of it, and what a read of a stream, a core, a die, a gang, a
Steward or an Atlas register gives after an update. -/
namespace Sys2Proof.Machine

@[simp] theorem modStream_eq (s : State) (sid : Nat) (f : Stream → Stream) :
    modStream s sid f = putStream s sid (f (streamAt s sid)) := rfl
@[simp] theorem modCore_eq (s : State) (cid : Nat) (f : Core → Core) : modCore s cid f = putCore s cid (f (coreAt s cid)) := rfl
@[simp] theorem modDie_eq (s : State) (d : Nat) (f : Die → Die) : modDie s d f = putDie s d (f (dieAt s d)) := rfl

/-! ### putStream -/

@[simp] theorem putStream_agenda (s : State) (sid : Nat) (st : Stream) : (putStream s sid st).agenda = s.agenda := rfl
@[simp] theorem putStream_cur (s : State) (sid : Nat) (st : Stream) : (putStream s sid st).cur = s.cur := rfl
@[simp] theorem putStream_moves (s : State) (sid : Nat) (st : Stream) : (putStream s sid st).moves = s.moves := rfl
@[simp] theorem putStream_freeCtr (s : State) (sid : Nat) (st : Stream) : (putStream s sid st).freeCtr = s.freeCtr := rfl
@[simp] theorem putStream_nextId (s : State) (sid : Nat) (st : Stream) : (putStream s sid st).nextId = s.nextId := rfl
@[simp] theorem putStream_streams (s : State) (sid : Nat) (st : Stream) : (putStream s sid st).streams = aput s.streams sid st := rfl
@[simp] theorem putStream_stewards (s : State) (sid : Nat) (st : Stream) : (putStream s sid st).stewards = s.stewards := rfl
@[simp] theorem putStream_swTlb (s : State) (sid : Nat) (st : Stream) : (putStream s sid st).swTlb = s.swTlb := rfl
@[simp] theorem putStream_cores (s : State) (sid : Nat) (st : Stream) : (putStream s sid st).cores = s.cores := rfl
@[simp] theorem putStream_dies (s : State) (sid : Nat) (st : Stream) : (putStream s sid st).dies = s.dies := rfl
@[simp] theorem putStream_gangs (s : State) (sid : Nat) (st : Stream) : (putStream s sid st).gangs = s.gangs := rfl
@[simp] theorem putStream_mem (s : State) (sid : Nat) (st : Stream) : (putStream s sid st).mem = s.mem := rfl
@[simp] theorem putStream_dram (s : State) (sid : Nat) (st : Stream) : (putStream s sid st).dram = s.dram := rfl
@[simp] theorem putStream_keyTags (s : State) (sid : Nat) (st : Stream) : (putStream s sid st).keyTags = s.keyTags := rfl
@[simp] theorem putStream_atlas (s : State) (sid : Nat) (st : Stream) : (putStream s sid st).atlas = s.atlas := rfl
@[simp] theorem putStream_requests (s : State) (sid : Nat) (st : Stream) : (putStream s sid st).requests = s.requests := rfl
@[simp] theorem putStream_claims (s : State) (sid : Nat) (st : Stream) : (putStream s sid st).claims = s.claims := rfl
@[simp] theorem putStream_scopes (s : State) (sid : Nat) (st : Stream) : (putStream s sid st).scopes = s.scopes := rfl
@[simp] theorem putStream_scopeUpds (s : State) (sid : Nat) (st : Stream) : (putStream s sid st).scopeUpds = s.scopeUpds := rfl
@[simp] theorem putStream_plats (s : State) (sid : Nat) (st : Stream) : (putStream s sid st).plats = s.plats := rfl
@[simp] theorem putStream_platUpds (s : State) (sid : Nat) (st : Stream) : (putStream s sid st).platUpds = s.platUpds := rfl
@[simp] theorem putStream_replats (s : State) (sid : Nat) (st : Stream) : (putStream s sid st).replats = s.replats := rfl
@[simp] theorem putStream_packets (s : State) (sid : Nat) (st : Stream) : (putStream s sid st).packets = s.packets := rfl
@[simp] theorem putStream_saves (s : State) (sid : Nat) (st : Stream) : (putStream s sid st).saves = s.saves := rfl
@[simp] theorem putStream_coach (s : State) (sid : Nat) (st : Stream) : (putStream s sid st).coach = s.coach := rfl
@[simp] theorem putStream_trunks (s : State) (sid : Nat) (st : Stream) : (putStream s sid st).trunks = s.trunks := rfl
@[simp] theorem putStream_tracked (s : State) (sid : Nat) (st : Stream) : (putStream s sid st).tracked = s.tracked := rfl
@[simp] theorem putStream_hostLinks (s : State) (sid : Nat) (st : Stream) : (putStream s sid st).hostLinks = s.hostLinks := rfl
@[simp] theorem putStream_csem (s : State) (sid : Nat) (st : Stream) : (putStream s sid st).csem = s.csem := rfl
@[simp] theorem putStream_snap (s : State) (sid : Nat) (st : Stream) : (putStream s sid st).snap = s.snap := rfl
@[simp] theorem putStream_seen (s : State) (sid : Nat) (st : Stream) : (putStream s sid st).seen = s.seen := rfl
@[simp] theorem putStream_snapPend (s : State) (sid : Nat) (st : Stream) : (putStream s sid st).snapPend = s.snapPend := rfl
@[simp] theorem putStream_msiSent (s : State) (sid : Nat) (st : Stream) : (putStream s sid st).msiSent = s.msiSent := rfl
@[simp] theorem putStream_boot (s : State) (sid : Nat) (st : Stream) : (putStream s sid st).boot = s.boot := rfl
@[simp] theorem putStream_flash (s : State) (sid : Nat) (st : Stream) : (putStream s sid st).flash = s.flash := rfl
@[simp] theorem putStream_dormosVersion (s : State) (sid : Nat) (st : Stream) : (putStream s sid st).dormosVersion = s.dormosVersion := rfl
@[simp] theorem putStream_throttled (s : State) (sid : Nat) (st : Stream) : (putStream s sid st).throttled = s.throttled := rfl
@[simp] theorem putStream_tripped (s : State) (sid : Nat) (st : Stream) : (putStream s sid st).tripped = s.tripped := rfl
@[simp] theorem putStream_netOut (s : State) (sid : Nat) (st : Stream) : (putStream s sid st).netOut = s.netOut := rfl
@[simp] theorem putStream_nvmeOut (s : State) (sid : Nat) (st : Stream) : (putStream s sid st).nvmeOut = s.nvmeOut := rfl
@[simp] theorem putStream_hostOut (s : State) (sid : Nat) (st : Stream) : (putStream s sid st).hostOut = s.hostOut := rfl
@[simp] theorem putStream_kernRoot (s : State) (sid : Nat) (st : Stream) : (putStream s sid st).kernRoot = s.kernRoot := rfl
@[simp] theorem putStream_ioIgnored (s : State) (sid : Nat) (st : Stream) : (putStream s sid st).ioIgnored = s.ioIgnored := rfl
@[simp] theorem putStream_remotes (s : State) (sid : Nat) (st : Stream) : (putStream s sid st).remotes = s.remotes := rfl
@[simp] theorem putStream_hostErr (s : State) (sid : Nat) (st : Stream) : (putStream s sid st).hostErr = s.hostErr := rfl
@[simp] theorem putStream_hwOut (s : State) (sid : Nat) (st : Stream) : (putStream s sid st).hwOut = s.hwOut := rfl

/-! ### putCore -/

@[simp] theorem putCore_agenda (s : State) (cid : Nat) (c : Core) : (putCore s cid c).agenda = s.agenda := rfl
@[simp] theorem putCore_cur (s : State) (cid : Nat) (c : Core) : (putCore s cid c).cur = s.cur := rfl
@[simp] theorem putCore_moves (s : State) (cid : Nat) (c : Core) : (putCore s cid c).moves = s.moves := rfl
@[simp] theorem putCore_freeCtr (s : State) (cid : Nat) (c : Core) : (putCore s cid c).freeCtr = s.freeCtr := rfl
@[simp] theorem putCore_nextId (s : State) (cid : Nat) (c : Core) : (putCore s cid c).nextId = s.nextId := rfl
@[simp] theorem putCore_streams (s : State) (cid : Nat) (c : Core) : (putCore s cid c).streams = s.streams := rfl
@[simp] theorem putCore_stewards (s : State) (cid : Nat) (c : Core) : (putCore s cid c).stewards = s.stewards := rfl
@[simp] theorem putCore_swTlb (s : State) (cid : Nat) (c : Core) : (putCore s cid c).swTlb = s.swTlb := rfl
@[simp] theorem putCore_cores (s : State) (cid : Nat) (c : Core) : (putCore s cid c).cores = aput s.cores cid c := rfl
@[simp] theorem putCore_dies (s : State) (cid : Nat) (c : Core) : (putCore s cid c).dies = s.dies := rfl
@[simp] theorem putCore_gangs (s : State) (cid : Nat) (c : Core) : (putCore s cid c).gangs = s.gangs := rfl
@[simp] theorem putCore_mem (s : State) (cid : Nat) (c : Core) : (putCore s cid c).mem = s.mem := rfl
@[simp] theorem putCore_dram (s : State) (cid : Nat) (c : Core) : (putCore s cid c).dram = s.dram := rfl
@[simp] theorem putCore_keyTags (s : State) (cid : Nat) (c : Core) : (putCore s cid c).keyTags = s.keyTags := rfl
@[simp] theorem putCore_atlas (s : State) (cid : Nat) (c : Core) : (putCore s cid c).atlas = s.atlas := rfl
@[simp] theorem putCore_requests (s : State) (cid : Nat) (c : Core) : (putCore s cid c).requests = s.requests := rfl
@[simp] theorem putCore_claims (s : State) (cid : Nat) (c : Core) : (putCore s cid c).claims = s.claims := rfl
@[simp] theorem putCore_scopes (s : State) (cid : Nat) (c : Core) : (putCore s cid c).scopes = s.scopes := rfl
@[simp] theorem putCore_scopeUpds (s : State) (cid : Nat) (c : Core) : (putCore s cid c).scopeUpds = s.scopeUpds := rfl
@[simp] theorem putCore_plats (s : State) (cid : Nat) (c : Core) : (putCore s cid c).plats = s.plats := rfl
@[simp] theorem putCore_platUpds (s : State) (cid : Nat) (c : Core) : (putCore s cid c).platUpds = s.platUpds := rfl
@[simp] theorem putCore_replats (s : State) (cid : Nat) (c : Core) : (putCore s cid c).replats = s.replats := rfl
@[simp] theorem putCore_packets (s : State) (cid : Nat) (c : Core) : (putCore s cid c).packets = s.packets := rfl
@[simp] theorem putCore_saves (s : State) (cid : Nat) (c : Core) : (putCore s cid c).saves = s.saves := rfl
@[simp] theorem putCore_coach (s : State) (cid : Nat) (c : Core) : (putCore s cid c).coach = s.coach := rfl
@[simp] theorem putCore_trunks (s : State) (cid : Nat) (c : Core) : (putCore s cid c).trunks = s.trunks := rfl
@[simp] theorem putCore_tracked (s : State) (cid : Nat) (c : Core) : (putCore s cid c).tracked = s.tracked := rfl
@[simp] theorem putCore_hostLinks (s : State) (cid : Nat) (c : Core) : (putCore s cid c).hostLinks = s.hostLinks := rfl
@[simp] theorem putCore_csem (s : State) (cid : Nat) (c : Core) : (putCore s cid c).csem = s.csem := rfl
@[simp] theorem putCore_snap (s : State) (cid : Nat) (c : Core) : (putCore s cid c).snap = s.snap := rfl
@[simp] theorem putCore_seen (s : State) (cid : Nat) (c : Core) : (putCore s cid c).seen = s.seen := rfl
@[simp] theorem putCore_snapPend (s : State) (cid : Nat) (c : Core) : (putCore s cid c).snapPend = s.snapPend := rfl
@[simp] theorem putCore_msiSent (s : State) (cid : Nat) (c : Core) : (putCore s cid c).msiSent = s.msiSent := rfl
@[simp] theorem putCore_boot (s : State) (cid : Nat) (c : Core) : (putCore s cid c).boot = s.boot := rfl
@[simp] theorem putCore_flash (s : State) (cid : Nat) (c : Core) : (putCore s cid c).flash = s.flash := rfl
@[simp] theorem putCore_dormosVersion (s : State) (cid : Nat) (c : Core) : (putCore s cid c).dormosVersion = s.dormosVersion := rfl
@[simp] theorem putCore_throttled (s : State) (cid : Nat) (c : Core) : (putCore s cid c).throttled = s.throttled := rfl
@[simp] theorem putCore_tripped (s : State) (cid : Nat) (c : Core) : (putCore s cid c).tripped = s.tripped := rfl
@[simp] theorem putCore_netOut (s : State) (cid : Nat) (c : Core) : (putCore s cid c).netOut = s.netOut := rfl
@[simp] theorem putCore_nvmeOut (s : State) (cid : Nat) (c : Core) : (putCore s cid c).nvmeOut = s.nvmeOut := rfl
@[simp] theorem putCore_hostOut (s : State) (cid : Nat) (c : Core) : (putCore s cid c).hostOut = s.hostOut := rfl
@[simp] theorem putCore_kernRoot (s : State) (cid : Nat) (c : Core) : (putCore s cid c).kernRoot = s.kernRoot := rfl
@[simp] theorem putCore_ioIgnored (s : State) (cid : Nat) (c : Core) : (putCore s cid c).ioIgnored = s.ioIgnored := rfl
@[simp] theorem putCore_remotes (s : State) (cid : Nat) (c : Core) : (putCore s cid c).remotes = s.remotes := rfl
@[simp] theorem putCore_hostErr (s : State) (cid : Nat) (c : Core) : (putCore s cid c).hostErr = s.hostErr := rfl
@[simp] theorem putCore_hwOut (s : State) (cid : Nat) (c : Core) : (putCore s cid c).hwOut = s.hwOut := rfl

/-! ### putDie -/

@[simp] theorem putDie_agenda (s : State) (d : Nat) (x : Die) : (putDie s d x).agenda = s.agenda := rfl
@[simp] theorem putDie_cur (s : State) (d : Nat) (x : Die) : (putDie s d x).cur = s.cur := rfl
@[simp] theorem putDie_moves (s : State) (d : Nat) (x : Die) : (putDie s d x).moves = s.moves := rfl
@[simp] theorem putDie_freeCtr (s : State) (d : Nat) (x : Die) : (putDie s d x).freeCtr = s.freeCtr := rfl
@[simp] theorem putDie_nextId (s : State) (d : Nat) (x : Die) : (putDie s d x).nextId = s.nextId := rfl
@[simp] theorem putDie_streams (s : State) (d : Nat) (x : Die) : (putDie s d x).streams = s.streams := rfl
@[simp] theorem putDie_stewards (s : State) (d : Nat) (x : Die) : (putDie s d x).stewards = s.stewards := rfl
@[simp] theorem putDie_swTlb (s : State) (d : Nat) (x : Die) : (putDie s d x).swTlb = s.swTlb := rfl
@[simp] theorem putDie_cores (s : State) (d : Nat) (x : Die) : (putDie s d x).cores = s.cores := rfl
@[simp] theorem putDie_dies (s : State) (d : Nat) (x : Die) : (putDie s d x).dies = aput s.dies d x := rfl
@[simp] theorem putDie_gangs (s : State) (d : Nat) (x : Die) : (putDie s d x).gangs = s.gangs := rfl
@[simp] theorem putDie_mem (s : State) (d : Nat) (x : Die) : (putDie s d x).mem = s.mem := rfl
@[simp] theorem putDie_dram (s : State) (d : Nat) (x : Die) : (putDie s d x).dram = s.dram := rfl
@[simp] theorem putDie_keyTags (s : State) (d : Nat) (x : Die) : (putDie s d x).keyTags = s.keyTags := rfl
@[simp] theorem putDie_atlas (s : State) (d : Nat) (x : Die) : (putDie s d x).atlas = s.atlas := rfl
@[simp] theorem putDie_requests (s : State) (d : Nat) (x : Die) : (putDie s d x).requests = s.requests := rfl
@[simp] theorem putDie_claims (s : State) (d : Nat) (x : Die) : (putDie s d x).claims = s.claims := rfl
@[simp] theorem putDie_scopes (s : State) (d : Nat) (x : Die) : (putDie s d x).scopes = s.scopes := rfl
@[simp] theorem putDie_scopeUpds (s : State) (d : Nat) (x : Die) : (putDie s d x).scopeUpds = s.scopeUpds := rfl
@[simp] theorem putDie_plats (s : State) (d : Nat) (x : Die) : (putDie s d x).plats = s.plats := rfl
@[simp] theorem putDie_platUpds (s : State) (d : Nat) (x : Die) : (putDie s d x).platUpds = s.platUpds := rfl
@[simp] theorem putDie_replats (s : State) (d : Nat) (x : Die) : (putDie s d x).replats = s.replats := rfl
@[simp] theorem putDie_packets (s : State) (d : Nat) (x : Die) : (putDie s d x).packets = s.packets := rfl
@[simp] theorem putDie_saves (s : State) (d : Nat) (x : Die) : (putDie s d x).saves = s.saves := rfl
@[simp] theorem putDie_coach (s : State) (d : Nat) (x : Die) : (putDie s d x).coach = s.coach := rfl
@[simp] theorem putDie_trunks (s : State) (d : Nat) (x : Die) : (putDie s d x).trunks = s.trunks := rfl
@[simp] theorem putDie_tracked (s : State) (d : Nat) (x : Die) : (putDie s d x).tracked = s.tracked := rfl
@[simp] theorem putDie_hostLinks (s : State) (d : Nat) (x : Die) : (putDie s d x).hostLinks = s.hostLinks := rfl
@[simp] theorem putDie_csem (s : State) (d : Nat) (x : Die) : (putDie s d x).csem = s.csem := rfl
@[simp] theorem putDie_snap (s : State) (d : Nat) (x : Die) : (putDie s d x).snap = s.snap := rfl
@[simp] theorem putDie_seen (s : State) (d : Nat) (x : Die) : (putDie s d x).seen = s.seen := rfl
@[simp] theorem putDie_snapPend (s : State) (d : Nat) (x : Die) : (putDie s d x).snapPend = s.snapPend := rfl
@[simp] theorem putDie_msiSent (s : State) (d : Nat) (x : Die) : (putDie s d x).msiSent = s.msiSent := rfl
@[simp] theorem putDie_boot (s : State) (d : Nat) (x : Die) : (putDie s d x).boot = s.boot := rfl
@[simp] theorem putDie_flash (s : State) (d : Nat) (x : Die) : (putDie s d x).flash = s.flash := rfl
@[simp] theorem putDie_dormosVersion (s : State) (d : Nat) (x : Die) : (putDie s d x).dormosVersion = s.dormosVersion := rfl
@[simp] theorem putDie_throttled (s : State) (d : Nat) (x : Die) : (putDie s d x).throttled = s.throttled := rfl
@[simp] theorem putDie_tripped (s : State) (d : Nat) (x : Die) : (putDie s d x).tripped = s.tripped := rfl
@[simp] theorem putDie_netOut (s : State) (d : Nat) (x : Die) : (putDie s d x).netOut = s.netOut := rfl
@[simp] theorem putDie_nvmeOut (s : State) (d : Nat) (x : Die) : (putDie s d x).nvmeOut = s.nvmeOut := rfl
@[simp] theorem putDie_hostOut (s : State) (d : Nat) (x : Die) : (putDie s d x).hostOut = s.hostOut := rfl
@[simp] theorem putDie_kernRoot (s : State) (d : Nat) (x : Die) : (putDie s d x).kernRoot = s.kernRoot := rfl
@[simp] theorem putDie_ioIgnored (s : State) (d : Nat) (x : Die) : (putDie s d x).ioIgnored = s.ioIgnored := rfl
@[simp] theorem putDie_remotes (s : State) (d : Nat) (x : Die) : (putDie s d x).remotes = s.remotes := rfl
@[simp] theorem putDie_hostErr (s : State) (d : Nat) (x : Die) : (putDie s d x).hostErr = s.hostErr := rfl
@[simp] theorem putDie_hwOut (s : State) (d : Nat) (x : Die) : (putDie s d x).hwOut = s.hwOut := rfl

/-! ### putGang -/

@[simp] theorem putGang_agenda (s : State) (g : Nat) (x : Gang) : (putGang s g x).agenda = s.agenda := rfl
@[simp] theorem putGang_cur (s : State) (g : Nat) (x : Gang) : (putGang s g x).cur = s.cur := rfl
@[simp] theorem putGang_moves (s : State) (g : Nat) (x : Gang) : (putGang s g x).moves = s.moves := rfl
@[simp] theorem putGang_freeCtr (s : State) (g : Nat) (x : Gang) : (putGang s g x).freeCtr = s.freeCtr := rfl
@[simp] theorem putGang_nextId (s : State) (g : Nat) (x : Gang) : (putGang s g x).nextId = s.nextId := rfl
@[simp] theorem putGang_streams (s : State) (g : Nat) (x : Gang) : (putGang s g x).streams = s.streams := rfl
@[simp] theorem putGang_stewards (s : State) (g : Nat) (x : Gang) : (putGang s g x).stewards = s.stewards := rfl
@[simp] theorem putGang_swTlb (s : State) (g : Nat) (x : Gang) : (putGang s g x).swTlb = s.swTlb := rfl
@[simp] theorem putGang_cores (s : State) (g : Nat) (x : Gang) : (putGang s g x).cores = s.cores := rfl
@[simp] theorem putGang_dies (s : State) (g : Nat) (x : Gang) : (putGang s g x).dies = s.dies := rfl
@[simp] theorem putGang_gangs (s : State) (g : Nat) (x : Gang) : (putGang s g x).gangs = aput s.gangs g x := rfl
@[simp] theorem putGang_mem (s : State) (g : Nat) (x : Gang) : (putGang s g x).mem = s.mem := rfl
@[simp] theorem putGang_dram (s : State) (g : Nat) (x : Gang) : (putGang s g x).dram = s.dram := rfl
@[simp] theorem putGang_keyTags (s : State) (g : Nat) (x : Gang) : (putGang s g x).keyTags = s.keyTags := rfl
@[simp] theorem putGang_atlas (s : State) (g : Nat) (x : Gang) : (putGang s g x).atlas = s.atlas := rfl
@[simp] theorem putGang_requests (s : State) (g : Nat) (x : Gang) : (putGang s g x).requests = s.requests := rfl
@[simp] theorem putGang_claims (s : State) (g : Nat) (x : Gang) : (putGang s g x).claims = s.claims := rfl
@[simp] theorem putGang_scopes (s : State) (g : Nat) (x : Gang) : (putGang s g x).scopes = s.scopes := rfl
@[simp] theorem putGang_scopeUpds (s : State) (g : Nat) (x : Gang) : (putGang s g x).scopeUpds = s.scopeUpds := rfl
@[simp] theorem putGang_plats (s : State) (g : Nat) (x : Gang) : (putGang s g x).plats = s.plats := rfl
@[simp] theorem putGang_platUpds (s : State) (g : Nat) (x : Gang) : (putGang s g x).platUpds = s.platUpds := rfl
@[simp] theorem putGang_replats (s : State) (g : Nat) (x : Gang) : (putGang s g x).replats = s.replats := rfl
@[simp] theorem putGang_packets (s : State) (g : Nat) (x : Gang) : (putGang s g x).packets = s.packets := rfl
@[simp] theorem putGang_saves (s : State) (g : Nat) (x : Gang) : (putGang s g x).saves = s.saves := rfl
@[simp] theorem putGang_coach (s : State) (g : Nat) (x : Gang) : (putGang s g x).coach = s.coach := rfl
@[simp] theorem putGang_trunks (s : State) (g : Nat) (x : Gang) : (putGang s g x).trunks = s.trunks := rfl
@[simp] theorem putGang_tracked (s : State) (g : Nat) (x : Gang) : (putGang s g x).tracked = s.tracked := rfl
@[simp] theorem putGang_hostLinks (s : State) (g : Nat) (x : Gang) : (putGang s g x).hostLinks = s.hostLinks := rfl
@[simp] theorem putGang_csem (s : State) (g : Nat) (x : Gang) : (putGang s g x).csem = s.csem := rfl
@[simp] theorem putGang_snap (s : State) (g : Nat) (x : Gang) : (putGang s g x).snap = s.snap := rfl
@[simp] theorem putGang_seen (s : State) (g : Nat) (x : Gang) : (putGang s g x).seen = s.seen := rfl
@[simp] theorem putGang_snapPend (s : State) (g : Nat) (x : Gang) : (putGang s g x).snapPend = s.snapPend := rfl
@[simp] theorem putGang_msiSent (s : State) (g : Nat) (x : Gang) : (putGang s g x).msiSent = s.msiSent := rfl
@[simp] theorem putGang_boot (s : State) (g : Nat) (x : Gang) : (putGang s g x).boot = s.boot := rfl
@[simp] theorem putGang_flash (s : State) (g : Nat) (x : Gang) : (putGang s g x).flash = s.flash := rfl
@[simp] theorem putGang_dormosVersion (s : State) (g : Nat) (x : Gang) : (putGang s g x).dormosVersion = s.dormosVersion := rfl
@[simp] theorem putGang_throttled (s : State) (g : Nat) (x : Gang) : (putGang s g x).throttled = s.throttled := rfl
@[simp] theorem putGang_tripped (s : State) (g : Nat) (x : Gang) : (putGang s g x).tripped = s.tripped := rfl
@[simp] theorem putGang_netOut (s : State) (g : Nat) (x : Gang) : (putGang s g x).netOut = s.netOut := rfl
@[simp] theorem putGang_nvmeOut (s : State) (g : Nat) (x : Gang) : (putGang s g x).nvmeOut = s.nvmeOut := rfl
@[simp] theorem putGang_hostOut (s : State) (g : Nat) (x : Gang) : (putGang s g x).hostOut = s.hostOut := rfl
@[simp] theorem putGang_kernRoot (s : State) (g : Nat) (x : Gang) : (putGang s g x).kernRoot = s.kernRoot := rfl
@[simp] theorem putGang_ioIgnored (s : State) (g : Nat) (x : Gang) : (putGang s g x).ioIgnored = s.ioIgnored := rfl
@[simp] theorem putGang_remotes (s : State) (g : Nat) (x : Gang) : (putGang s g x).remotes = s.remotes := rfl
@[simp] theorem putGang_hostErr (s : State) (g : Nat) (x : Gang) : (putGang s g x).hostErr = s.hostErr := rfl
@[simp] theorem putGang_hwOut (s : State) (g : Nat) (x : Gang) : (putGang s g x).hwOut = s.hwOut := rfl

/-! ### modSteward -/

@[simp] theorem modSteward_agenda (s : State) (n : Nat) (f : Steward → Steward) : (modSteward s n f).agenda = s.agenda := rfl
@[simp] theorem modSteward_cur (s : State) (n : Nat) (f : Steward → Steward) : (modSteward s n f).cur = s.cur := rfl
@[simp] theorem modSteward_moves (s : State) (n : Nat) (f : Steward → Steward) : (modSteward s n f).moves = s.moves := rfl
@[simp] theorem modSteward_freeCtr (s : State) (n : Nat) (f : Steward → Steward) : (modSteward s n f).freeCtr = s.freeCtr := rfl
@[simp] theorem modSteward_nextId (s : State) (n : Nat) (f : Steward → Steward) : (modSteward s n f).nextId = s.nextId := rfl
@[simp] theorem modSteward_streams (s : State) (n : Nat) (f : Steward → Steward) : (modSteward s n f).streams = s.streams := rfl
@[simp] theorem modSteward_stewards (s : State) (n : Nat) (f : Steward → Steward) : (modSteward s n f).stewards = aput s.stewards n (f (stewardAt s n)) := rfl
@[simp] theorem modSteward_swTlb (s : State) (n : Nat) (f : Steward → Steward) : (modSteward s n f).swTlb = s.swTlb := rfl
@[simp] theorem modSteward_cores (s : State) (n : Nat) (f : Steward → Steward) : (modSteward s n f).cores = s.cores := rfl
@[simp] theorem modSteward_dies (s : State) (n : Nat) (f : Steward → Steward) : (modSteward s n f).dies = s.dies := rfl
@[simp] theorem modSteward_gangs (s : State) (n : Nat) (f : Steward → Steward) : (modSteward s n f).gangs = s.gangs := rfl
@[simp] theorem modSteward_mem (s : State) (n : Nat) (f : Steward → Steward) : (modSteward s n f).mem = s.mem := rfl
@[simp] theorem modSteward_dram (s : State) (n : Nat) (f : Steward → Steward) : (modSteward s n f).dram = s.dram := rfl
@[simp] theorem modSteward_keyTags (s : State) (n : Nat) (f : Steward → Steward) : (modSteward s n f).keyTags = s.keyTags := rfl
@[simp] theorem modSteward_atlas (s : State) (n : Nat) (f : Steward → Steward) : (modSteward s n f).atlas = s.atlas := rfl
@[simp] theorem modSteward_requests (s : State) (n : Nat) (f : Steward → Steward) : (modSteward s n f).requests = s.requests := rfl
@[simp] theorem modSteward_claims (s : State) (n : Nat) (f : Steward → Steward) : (modSteward s n f).claims = s.claims := rfl
@[simp] theorem modSteward_scopes (s : State) (n : Nat) (f : Steward → Steward) : (modSteward s n f).scopes = s.scopes := rfl
@[simp] theorem modSteward_scopeUpds (s : State) (n : Nat) (f : Steward → Steward) : (modSteward s n f).scopeUpds = s.scopeUpds := rfl
@[simp] theorem modSteward_plats (s : State) (n : Nat) (f : Steward → Steward) : (modSteward s n f).plats = s.plats := rfl
@[simp] theorem modSteward_platUpds (s : State) (n : Nat) (f : Steward → Steward) : (modSteward s n f).platUpds = s.platUpds := rfl
@[simp] theorem modSteward_replats (s : State) (n : Nat) (f : Steward → Steward) : (modSteward s n f).replats = s.replats := rfl
@[simp] theorem modSteward_packets (s : State) (n : Nat) (f : Steward → Steward) : (modSteward s n f).packets = s.packets := rfl
@[simp] theorem modSteward_saves (s : State) (n : Nat) (f : Steward → Steward) : (modSteward s n f).saves = s.saves := rfl
@[simp] theorem modSteward_coach (s : State) (n : Nat) (f : Steward → Steward) : (modSteward s n f).coach = s.coach := rfl
@[simp] theorem modSteward_trunks (s : State) (n : Nat) (f : Steward → Steward) : (modSteward s n f).trunks = s.trunks := rfl
@[simp] theorem modSteward_tracked (s : State) (n : Nat) (f : Steward → Steward) : (modSteward s n f).tracked = s.tracked := rfl
@[simp] theorem modSteward_hostLinks (s : State) (n : Nat) (f : Steward → Steward) : (modSteward s n f).hostLinks = s.hostLinks := rfl
@[simp] theorem modSteward_csem (s : State) (n : Nat) (f : Steward → Steward) : (modSteward s n f).csem = s.csem := rfl
@[simp] theorem modSteward_snap (s : State) (n : Nat) (f : Steward → Steward) : (modSteward s n f).snap = s.snap := rfl
@[simp] theorem modSteward_seen (s : State) (n : Nat) (f : Steward → Steward) : (modSteward s n f).seen = s.seen := rfl
@[simp] theorem modSteward_snapPend (s : State) (n : Nat) (f : Steward → Steward) : (modSteward s n f).snapPend = s.snapPend := rfl
@[simp] theorem modSteward_msiSent (s : State) (n : Nat) (f : Steward → Steward) : (modSteward s n f).msiSent = s.msiSent := rfl
@[simp] theorem modSteward_boot (s : State) (n : Nat) (f : Steward → Steward) : (modSteward s n f).boot = s.boot := rfl
@[simp] theorem modSteward_flash (s : State) (n : Nat) (f : Steward → Steward) : (modSteward s n f).flash = s.flash := rfl
@[simp] theorem modSteward_dormosVersion (s : State) (n : Nat) (f : Steward → Steward) : (modSteward s n f).dormosVersion = s.dormosVersion := rfl
@[simp] theorem modSteward_throttled (s : State) (n : Nat) (f : Steward → Steward) : (modSteward s n f).throttled = s.throttled := rfl
@[simp] theorem modSteward_tripped (s : State) (n : Nat) (f : Steward → Steward) : (modSteward s n f).tripped = s.tripped := rfl
@[simp] theorem modSteward_netOut (s : State) (n : Nat) (f : Steward → Steward) : (modSteward s n f).netOut = s.netOut := rfl
@[simp] theorem modSteward_nvmeOut (s : State) (n : Nat) (f : Steward → Steward) : (modSteward s n f).nvmeOut = s.nvmeOut := rfl
@[simp] theorem modSteward_hostOut (s : State) (n : Nat) (f : Steward → Steward) : (modSteward s n f).hostOut = s.hostOut := rfl
@[simp] theorem modSteward_kernRoot (s : State) (n : Nat) (f : Steward → Steward) : (modSteward s n f).kernRoot = s.kernRoot := rfl
@[simp] theorem modSteward_ioIgnored (s : State) (n : Nat) (f : Steward → Steward) : (modSteward s n f).ioIgnored = s.ioIgnored := rfl
@[simp] theorem modSteward_remotes (s : State) (n : Nat) (f : Steward → Steward) : (modSteward s n f).remotes = s.remotes := rfl
@[simp] theorem modSteward_hostErr (s : State) (n : Nat) (f : Steward → Steward) : (modSteward s n f).hostErr = s.hostErr := rfl
@[simp] theorem modSteward_hwOut (s : State) (n : Nat) (f : Steward → Steward) : (modSteward s n f).hwOut = s.hwOut := rfl

/-! ### setAreg -/

@[simp] theorem setAreg_agenda (s : State) (pa : Nat) (v : BitVec 64) : (setAreg s pa v).agenda = s.agenda := rfl
@[simp] theorem setAreg_cur (s : State) (pa : Nat) (v : BitVec 64) : (setAreg s pa v).cur = s.cur := rfl
@[simp] theorem setAreg_moves (s : State) (pa : Nat) (v : BitVec 64) : (setAreg s pa v).moves = s.moves := rfl
@[simp] theorem setAreg_freeCtr (s : State) (pa : Nat) (v : BitVec 64) : (setAreg s pa v).freeCtr = s.freeCtr := rfl
@[simp] theorem setAreg_nextId (s : State) (pa : Nat) (v : BitVec 64) : (setAreg s pa v).nextId = s.nextId := rfl
@[simp] theorem setAreg_streams (s : State) (pa : Nat) (v : BitVec 64) : (setAreg s pa v).streams = s.streams := rfl
@[simp] theorem setAreg_stewards (s : State) (pa : Nat) (v : BitVec 64) : (setAreg s pa v).stewards = s.stewards := rfl
@[simp] theorem setAreg_swTlb (s : State) (pa : Nat) (v : BitVec 64) : (setAreg s pa v).swTlb = s.swTlb := rfl
@[simp] theorem setAreg_cores (s : State) (pa : Nat) (v : BitVec 64) : (setAreg s pa v).cores = s.cores := rfl
@[simp] theorem setAreg_dies (s : State) (pa : Nat) (v : BitVec 64) : (setAreg s pa v).dies = s.dies := rfl
@[simp] theorem setAreg_gangs (s : State) (pa : Nat) (v : BitVec 64) : (setAreg s pa v).gangs = s.gangs := rfl
@[simp] theorem setAreg_mem (s : State) (pa : Nat) (v : BitVec 64) : (setAreg s pa v).mem = s.mem := rfl
@[simp] theorem setAreg_dram (s : State) (pa : Nat) (v : BitVec 64) : (setAreg s pa v).dram = s.dram := rfl
@[simp] theorem setAreg_keyTags (s : State) (pa : Nat) (v : BitVec 64) : (setAreg s pa v).keyTags = s.keyTags := rfl
@[simp] theorem setAreg_atlas (s : State) (pa : Nat) (v : BitVec 64) : (setAreg s pa v).atlas = aput s.atlas (pa / 8) v := rfl
@[simp] theorem setAreg_requests (s : State) (pa : Nat) (v : BitVec 64) : (setAreg s pa v).requests = s.requests := rfl
@[simp] theorem setAreg_claims (s : State) (pa : Nat) (v : BitVec 64) : (setAreg s pa v).claims = s.claims := rfl
@[simp] theorem setAreg_scopes (s : State) (pa : Nat) (v : BitVec 64) : (setAreg s pa v).scopes = s.scopes := rfl
@[simp] theorem setAreg_scopeUpds (s : State) (pa : Nat) (v : BitVec 64) : (setAreg s pa v).scopeUpds = s.scopeUpds := rfl
@[simp] theorem setAreg_plats (s : State) (pa : Nat) (v : BitVec 64) : (setAreg s pa v).plats = s.plats := rfl
@[simp] theorem setAreg_platUpds (s : State) (pa : Nat) (v : BitVec 64) : (setAreg s pa v).platUpds = s.platUpds := rfl
@[simp] theorem setAreg_replats (s : State) (pa : Nat) (v : BitVec 64) : (setAreg s pa v).replats = s.replats := rfl
@[simp] theorem setAreg_packets (s : State) (pa : Nat) (v : BitVec 64) : (setAreg s pa v).packets = s.packets := rfl
@[simp] theorem setAreg_saves (s : State) (pa : Nat) (v : BitVec 64) : (setAreg s pa v).saves = s.saves := rfl
@[simp] theorem setAreg_coach (s : State) (pa : Nat) (v : BitVec 64) : (setAreg s pa v).coach = s.coach := rfl
@[simp] theorem setAreg_trunks (s : State) (pa : Nat) (v : BitVec 64) : (setAreg s pa v).trunks = s.trunks := rfl
@[simp] theorem setAreg_tracked (s : State) (pa : Nat) (v : BitVec 64) : (setAreg s pa v).tracked = s.tracked := rfl
@[simp] theorem setAreg_hostLinks (s : State) (pa : Nat) (v : BitVec 64) : (setAreg s pa v).hostLinks = s.hostLinks := rfl
@[simp] theorem setAreg_csem (s : State) (pa : Nat) (v : BitVec 64) : (setAreg s pa v).csem = s.csem := rfl
@[simp] theorem setAreg_snap (s : State) (pa : Nat) (v : BitVec 64) : (setAreg s pa v).snap = s.snap := rfl
@[simp] theorem setAreg_seen (s : State) (pa : Nat) (v : BitVec 64) : (setAreg s pa v).seen = s.seen := rfl
@[simp] theorem setAreg_snapPend (s : State) (pa : Nat) (v : BitVec 64) : (setAreg s pa v).snapPend = s.snapPend := rfl
@[simp] theorem setAreg_msiSent (s : State) (pa : Nat) (v : BitVec 64) : (setAreg s pa v).msiSent = s.msiSent := rfl
@[simp] theorem setAreg_boot (s : State) (pa : Nat) (v : BitVec 64) : (setAreg s pa v).boot = s.boot := rfl
@[simp] theorem setAreg_flash (s : State) (pa : Nat) (v : BitVec 64) : (setAreg s pa v).flash = s.flash := rfl
@[simp] theorem setAreg_dormosVersion (s : State) (pa : Nat) (v : BitVec 64) : (setAreg s pa v).dormosVersion = s.dormosVersion := rfl
@[simp] theorem setAreg_throttled (s : State) (pa : Nat) (v : BitVec 64) : (setAreg s pa v).throttled = s.throttled := rfl
@[simp] theorem setAreg_tripped (s : State) (pa : Nat) (v : BitVec 64) : (setAreg s pa v).tripped = s.tripped := rfl
@[simp] theorem setAreg_netOut (s : State) (pa : Nat) (v : BitVec 64) : (setAreg s pa v).netOut = s.netOut := rfl
@[simp] theorem setAreg_nvmeOut (s : State) (pa : Nat) (v : BitVec 64) : (setAreg s pa v).nvmeOut = s.nvmeOut := rfl
@[simp] theorem setAreg_hostOut (s : State) (pa : Nat) (v : BitVec 64) : (setAreg s pa v).hostOut = s.hostOut := rfl
@[simp] theorem setAreg_kernRoot (s : State) (pa : Nat) (v : BitVec 64) : (setAreg s pa v).kernRoot = s.kernRoot := rfl
@[simp] theorem setAreg_ioIgnored (s : State) (pa : Nat) (v : BitVec 64) : (setAreg s pa v).ioIgnored = s.ioIgnored := rfl
@[simp] theorem setAreg_remotes (s : State) (pa : Nat) (v : BitVec 64) : (setAreg s pa v).remotes = s.remotes := rfl
@[simp] theorem setAreg_hostErr (s : State) (pa : Nat) (v : BitVec 64) : (setAreg s pa v).hostErr = s.hostErr := rfl
@[simp] theorem setAreg_hwOut (s : State) (pa : Nat) (v : BitVec 64) : (setAreg s pa v).hwOut = s.hwOut := rfl

/-! ### fresh -/

@[simp] theorem fresh_agenda (s : State) : (fresh s).2.agenda = s.agenda := rfl
@[simp] theorem fresh_cur (s : State) : (fresh s).2.cur = s.cur := rfl
@[simp] theorem fresh_moves (s : State) : (fresh s).2.moves = s.moves := rfl
@[simp] theorem fresh_freeCtr (s : State) : (fresh s).2.freeCtr = s.freeCtr := rfl
@[simp] theorem fresh_nextId (s : State) : (fresh s).2.nextId = s.nextId + 1 := rfl
@[simp] theorem fresh_streams (s : State) : (fresh s).2.streams = s.streams := rfl
@[simp] theorem fresh_stewards (s : State) : (fresh s).2.stewards = s.stewards := rfl
@[simp] theorem fresh_swTlb (s : State) : (fresh s).2.swTlb = s.swTlb := rfl
@[simp] theorem fresh_cores (s : State) : (fresh s).2.cores = s.cores := rfl
@[simp] theorem fresh_dies (s : State) : (fresh s).2.dies = s.dies := rfl
@[simp] theorem fresh_gangs (s : State) : (fresh s).2.gangs = s.gangs := rfl
@[simp] theorem fresh_mem (s : State) : (fresh s).2.mem = s.mem := rfl
@[simp] theorem fresh_dram (s : State) : (fresh s).2.dram = s.dram := rfl
@[simp] theorem fresh_keyTags (s : State) : (fresh s).2.keyTags = s.keyTags := rfl
@[simp] theorem fresh_atlas (s : State) : (fresh s).2.atlas = s.atlas := rfl
@[simp] theorem fresh_requests (s : State) : (fresh s).2.requests = s.requests := rfl
@[simp] theorem fresh_claims (s : State) : (fresh s).2.claims = s.claims := rfl
@[simp] theorem fresh_scopes (s : State) : (fresh s).2.scopes = s.scopes := rfl
@[simp] theorem fresh_scopeUpds (s : State) : (fresh s).2.scopeUpds = s.scopeUpds := rfl
@[simp] theorem fresh_plats (s : State) : (fresh s).2.plats = s.plats := rfl
@[simp] theorem fresh_platUpds (s : State) : (fresh s).2.platUpds = s.platUpds := rfl
@[simp] theorem fresh_replats (s : State) : (fresh s).2.replats = s.replats := rfl
@[simp] theorem fresh_packets (s : State) : (fresh s).2.packets = s.packets := rfl
@[simp] theorem fresh_saves (s : State) : (fresh s).2.saves = s.saves := rfl
@[simp] theorem fresh_coach (s : State) : (fresh s).2.coach = s.coach := rfl
@[simp] theorem fresh_trunks (s : State) : (fresh s).2.trunks = s.trunks := rfl
@[simp] theorem fresh_tracked (s : State) : (fresh s).2.tracked = s.tracked := rfl
@[simp] theorem fresh_hostLinks (s : State) : (fresh s).2.hostLinks = s.hostLinks := rfl
@[simp] theorem fresh_csem (s : State) : (fresh s).2.csem = s.csem := rfl
@[simp] theorem fresh_snap (s : State) : (fresh s).2.snap = s.snap := rfl
@[simp] theorem fresh_seen (s : State) : (fresh s).2.seen = s.seen := rfl
@[simp] theorem fresh_snapPend (s : State) : (fresh s).2.snapPend = s.snapPend := rfl
@[simp] theorem fresh_msiSent (s : State) : (fresh s).2.msiSent = s.msiSent := rfl
@[simp] theorem fresh_boot (s : State) : (fresh s).2.boot = s.boot := rfl
@[simp] theorem fresh_flash (s : State) : (fresh s).2.flash = s.flash := rfl
@[simp] theorem fresh_dormosVersion (s : State) : (fresh s).2.dormosVersion = s.dormosVersion := rfl
@[simp] theorem fresh_throttled (s : State) : (fresh s).2.throttled = s.throttled := rfl
@[simp] theorem fresh_tripped (s : State) : (fresh s).2.tripped = s.tripped := rfl
@[simp] theorem fresh_netOut (s : State) : (fresh s).2.netOut = s.netOut := rfl
@[simp] theorem fresh_nvmeOut (s : State) : (fresh s).2.nvmeOut = s.nvmeOut := rfl
@[simp] theorem fresh_hostOut (s : State) : (fresh s).2.hostOut = s.hostOut := rfl
@[simp] theorem fresh_kernRoot (s : State) : (fresh s).2.kernRoot = s.kernRoot := rfl
@[simp] theorem fresh_ioIgnored (s : State) : (fresh s).2.ioIgnored = s.ioIgnored := rfl
@[simp] theorem fresh_remotes (s : State) : (fresh s).2.remotes = s.remotes := rfl
@[simp] theorem fresh_hostErr (s : State) : (fresh s).2.hostErr = s.hostErr := rfl
@[simp] theorem fresh_hwOut (s : State) : (fresh s).2.hwOut = s.hwOut := rfl

/-! ### freeVal -/

@[simp] theorem freeVal_agenda (s : State) (n : Nat) : (freeVal s n).2.agenda = s.agenda := rfl
@[simp] theorem freeVal_cur (s : State) (n : Nat) : (freeVal s n).2.cur = s.cur := rfl
@[simp] theorem freeVal_moves (s : State) (n : Nat) : (freeVal s n).2.moves = s.moves := rfl
@[simp] theorem freeVal_freeCtr (s : State) (n : Nat) : (freeVal s n).2.freeCtr = s.freeCtr + 1 := rfl
@[simp] theorem freeVal_nextId (s : State) (n : Nat) : (freeVal s n).2.nextId = s.nextId := rfl
@[simp] theorem freeVal_streams (s : State) (n : Nat) : (freeVal s n).2.streams = s.streams := rfl
@[simp] theorem freeVal_stewards (s : State) (n : Nat) : (freeVal s n).2.stewards = s.stewards := rfl
@[simp] theorem freeVal_swTlb (s : State) (n : Nat) : (freeVal s n).2.swTlb = s.swTlb := rfl
@[simp] theorem freeVal_cores (s : State) (n : Nat) : (freeVal s n).2.cores = s.cores := rfl
@[simp] theorem freeVal_dies (s : State) (n : Nat) : (freeVal s n).2.dies = s.dies := rfl
@[simp] theorem freeVal_gangs (s : State) (n : Nat) : (freeVal s n).2.gangs = s.gangs := rfl
@[simp] theorem freeVal_mem (s : State) (n : Nat) : (freeVal s n).2.mem = s.mem := rfl
@[simp] theorem freeVal_dram (s : State) (n : Nat) : (freeVal s n).2.dram = s.dram := rfl
@[simp] theorem freeVal_keyTags (s : State) (n : Nat) : (freeVal s n).2.keyTags = s.keyTags := rfl
@[simp] theorem freeVal_atlas (s : State) (n : Nat) : (freeVal s n).2.atlas = s.atlas := rfl
@[simp] theorem freeVal_requests (s : State) (n : Nat) : (freeVal s n).2.requests = s.requests := rfl
@[simp] theorem freeVal_claims (s : State) (n : Nat) : (freeVal s n).2.claims = s.claims := rfl
@[simp] theorem freeVal_scopes (s : State) (n : Nat) : (freeVal s n).2.scopes = s.scopes := rfl
@[simp] theorem freeVal_scopeUpds (s : State) (n : Nat) : (freeVal s n).2.scopeUpds = s.scopeUpds := rfl
@[simp] theorem freeVal_plats (s : State) (n : Nat) : (freeVal s n).2.plats = s.plats := rfl
@[simp] theorem freeVal_platUpds (s : State) (n : Nat) : (freeVal s n).2.platUpds = s.platUpds := rfl
@[simp] theorem freeVal_replats (s : State) (n : Nat) : (freeVal s n).2.replats = s.replats := rfl
@[simp] theorem freeVal_packets (s : State) (n : Nat) : (freeVal s n).2.packets = s.packets := rfl
@[simp] theorem freeVal_saves (s : State) (n : Nat) : (freeVal s n).2.saves = s.saves := rfl
@[simp] theorem freeVal_coach (s : State) (n : Nat) : (freeVal s n).2.coach = s.coach := rfl
@[simp] theorem freeVal_trunks (s : State) (n : Nat) : (freeVal s n).2.trunks = s.trunks := rfl
@[simp] theorem freeVal_tracked (s : State) (n : Nat) : (freeVal s n).2.tracked = s.tracked := rfl
@[simp] theorem freeVal_hostLinks (s : State) (n : Nat) : (freeVal s n).2.hostLinks = s.hostLinks := rfl
@[simp] theorem freeVal_csem (s : State) (n : Nat) : (freeVal s n).2.csem = s.csem := rfl
@[simp] theorem freeVal_snap (s : State) (n : Nat) : (freeVal s n).2.snap = s.snap := rfl
@[simp] theorem freeVal_seen (s : State) (n : Nat) : (freeVal s n).2.seen = s.seen := rfl
@[simp] theorem freeVal_snapPend (s : State) (n : Nat) : (freeVal s n).2.snapPend = s.snapPend := rfl
@[simp] theorem freeVal_msiSent (s : State) (n : Nat) : (freeVal s n).2.msiSent = s.msiSent := rfl
@[simp] theorem freeVal_boot (s : State) (n : Nat) : (freeVal s n).2.boot = s.boot := rfl
@[simp] theorem freeVal_flash (s : State) (n : Nat) : (freeVal s n).2.flash = s.flash := rfl
@[simp] theorem freeVal_dormosVersion (s : State) (n : Nat) : (freeVal s n).2.dormosVersion = s.dormosVersion := rfl
@[simp] theorem freeVal_throttled (s : State) (n : Nat) : (freeVal s n).2.throttled = s.throttled := rfl
@[simp] theorem freeVal_tripped (s : State) (n : Nat) : (freeVal s n).2.tripped = s.tripped := rfl
@[simp] theorem freeVal_netOut (s : State) (n : Nat) : (freeVal s n).2.netOut = s.netOut := rfl
@[simp] theorem freeVal_nvmeOut (s : State) (n : Nat) : (freeVal s n).2.nvmeOut = s.nvmeOut := rfl
@[simp] theorem freeVal_hostOut (s : State) (n : Nat) : (freeVal s n).2.hostOut = s.hostOut := rfl
@[simp] theorem freeVal_kernRoot (s : State) (n : Nat) : (freeVal s n).2.kernRoot = s.kernRoot := rfl
@[simp] theorem freeVal_ioIgnored (s : State) (n : Nat) : (freeVal s n).2.ioIgnored = s.ioIgnored := rfl
@[simp] theorem freeVal_remotes (s : State) (n : Nat) : (freeVal s n).2.remotes = s.remotes := rfl
@[simp] theorem freeVal_hostErr (s : State) (n : Nat) : (freeVal s n).2.hostErr = s.hostErr := rfl
@[simp] theorem freeVal_hwOut (s : State) (n : Nat) : (freeVal s n).2.hwOut = s.hwOut := rfl

/-! ### Reads after updates -/

@[simp] theorem streamAt_putStream_same (s : State) (i : Nat) (x : Stream) : streamAt (putStream s i x) i = x := by
  simp [streamAt]
theorem streamAt_putStream_ne (s : State) {i j : Nat} (x : Stream) (h : j ≠ i) :
    streamAt (putStream s i x) j = streamAt s j := by
  simp [streamAt, aget_aput_ne _ _ h]
@[simp] theorem coreAt_putCore_same (s : State) (i : Nat) (x : Core) : coreAt (putCore s i x) i = x := by
  simp [coreAt]
theorem coreAt_putCore_ne (s : State) {i j : Nat} (x : Core) (h : j ≠ i) : coreAt (putCore s i x) j = coreAt s j := by
  simp [coreAt, aget_aput_ne _ _ h]
@[simp] theorem dieAt_putDie_same (s : State) (i : Nat) (x : Die) : dieAt (putDie s i x) i = x := by
  simp [dieAt]
theorem dieAt_putDie_ne (s : State) {i j : Nat} (x : Die) (h : j ≠ i) : dieAt (putDie s i x) j = dieAt s j := by
  simp [dieAt, aget_aput_ne _ _ h]
@[simp] theorem gangAt_putGang_same (s : State) (i : Nat) (x : Gang) : gangAt (putGang s i x) i = some x := by
  simp [gangAt]
theorem gangAt_putGang_ne (s : State) {i j : Nat} (x : Gang) (h : j ≠ i) : gangAt (putGang s i x) j = gangAt s j := by
  simp [gangAt, aget_aput_ne _ _ h]
@[simp] theorem stewardAt_modSteward_same (s : State) (n : Nat) (f : Steward → Steward) :
    stewardAt (modSteward s n f) n = f (stewardAt s n) := by
  simp [stewardAt]
theorem stewardAt_modSteward_ne (s : State) {n j : Nat} (f : Steward → Steward) (h : j ≠ n) :
    stewardAt (modSteward s n f) j = stewardAt s j := by
  simp [stewardAt, aget_aput_ne _ _ h]
@[simp] theorem areg_setAreg_same (s : State) (pa : Nat) (v : BitVec 64) : areg (setAreg s pa v) pa = v := by
  simp [areg]
theorem areg_setAreg_ne (s : State) {pa q : Nat} (v : BitVec 64) (h : q / 8 ≠ pa / 8) :
    areg (setAreg s pa v) q = areg s q := by
  simp [areg, aget_aput_ne _ _ h]

@[simp] theorem streamAt_putCore (s : State) (i : Nat) (x : Core) (j : Nat) : streamAt (putCore s i x) j = streamAt s j := rfl
@[simp] theorem streamAt_putDie (s : State) (i : Nat) (x : Die) (j : Nat) : streamAt (putDie s i x) j = streamAt s j := rfl
@[simp] theorem streamAt_putGang (s : State) (i : Nat) (x : Gang) (j : Nat) : streamAt (putGang s i x) j = streamAt s j := rfl
@[simp] theorem streamAt_setAreg (s : State) (pa : Nat) (v : BitVec 64) (j : Nat) :
    streamAt (setAreg s pa v) j = streamAt s j := rfl
@[simp] theorem streamAt_modSteward (s : State) (n : Nat) (f : Steward → Steward) (j : Nat) :
    streamAt (modSteward s n f) j = streamAt s j := rfl
@[simp] theorem coreAt_putStream (s : State) (i : Nat) (x : Stream) (j : Nat) : coreAt (putStream s i x) j = coreAt s j := rfl
@[simp] theorem coreAt_putDie (s : State) (i : Nat) (x : Die) (j : Nat) : coreAt (putDie s i x) j = coreAt s j := rfl
@[simp] theorem coreAt_putGang (s : State) (i : Nat) (x : Gang) (j : Nat) : coreAt (putGang s i x) j = coreAt s j := rfl
@[simp] theorem coreAt_setAreg (s : State) (pa : Nat) (v : BitVec 64) (j : Nat) : coreAt (setAreg s pa v) j = coreAt s j := rfl
@[simp] theorem dieAt_putStream (s : State) (i : Nat) (x : Stream) (j : Nat) : dieAt (putStream s i x) j = dieAt s j := rfl
@[simp] theorem dieAt_putCore (s : State) (i : Nat) (x : Core) (j : Nat) : dieAt (putCore s i x) j = dieAt s j := rfl
@[simp] theorem dieAt_putGang (s : State) (i : Nat) (x : Gang) (j : Nat) : dieAt (putGang s i x) j = dieAt s j := rfl
@[simp] theorem dieAt_setAreg (s : State) (pa : Nat) (v : BitVec 64) (j : Nat) : dieAt (setAreg s pa v) j = dieAt s j := rfl
@[simp] theorem gangAt_putStream (s : State) (i : Nat) (x : Stream) (g : Nat) : gangAt (putStream s i x) g = gangAt s g := rfl
@[simp] theorem gangAt_putCore (s : State) (i : Nat) (x : Core) (g : Nat) : gangAt (putCore s i x) g = gangAt s g := rfl
@[simp] theorem gangAt_putDie (s : State) (i : Nat) (x : Die) (g : Nat) : gangAt (putDie s i x) g = gangAt s g := rfl
@[simp] theorem areg_putStream (s : State) (i : Nat) (x : Stream) (pa : Nat) : areg (putStream s i x) pa = areg s pa := rfl
@[simp] theorem areg_putCore (s : State) (i : Nat) (x : Core) (pa : Nat) : areg (putCore s i x) pa = areg s pa := rfl
@[simp] theorem areg_putDie (s : State) (i : Nat) (x : Die) (pa : Nat) : areg (putDie s i x) pa = areg s pa := rfl
@[simp] theorem areg_putGang (s : State) (i : Nat) (x : Gang) (pa : Nat) : areg (putGang s i x) pa = areg s pa := rfl

end Sys2Proof.Machine
end

