-- ==== Sys2Proof/Laws/Issue.lean ====
section
/-! SUPPORT. What the issue of a word does (R40): it issues, it faults or it waits, as its own checks say. The lemmas about a
meaning start from these and never unfold `issue`. -/
namespace Sys2Proof.Machine

@[simp] theorem landed_cur (s : State) : (landed s).cur = s.cur := rfl
@[simp] theorem landed_mem (s : State) : (landed s).mem = s.mem := rfl
@[simp] theorem landed_cores (s : State) : (landed s).cores = s.cores := rfl
@[simp] theorem landed_dies (s : State) : (landed s).dies = s.dies := rfl
@[simp] theorem landed_gangs (s : State) : (landed s).gangs = s.gangs := rfl
@[simp] theorem landed_stewards (s : State) : (landed s).stewards = s.stewards := rfl
@[simp] theorem landed_requests (s : State) : (landed s).requests = s.requests := rfl
@[simp] theorem landed_claims (s : State) : (landed s).claims = s.claims := rfl
@[simp] theorem landed_atlas (s : State) : (landed s).atlas = s.atlas := rfl
theorem landed_me (s : State) : streamAt (landed s) s.cur = me s := rfl
/-- Landings touch no phase, PC, slot, loop or outstanding write of the stream. -/
theorem applyWrite_keeps (st : Stream) (w : Write) :
    (applyWrite st w).phase = st.phase ∧ (applyWrite st w).pc = st.pc ∧ (applyWrite st w).slot = st.slot ∧
    (applyWrite st w).loop = st.loop ∧ (applyWrite st w).outst = st.outst := by
  unfold applyWrite
  cases w.loc <;> simp
  split <;> simp
theorem applyWrites_keeps (ws : List Write) (st : Stream) :
    (applyWrites st ws).phase = st.phase ∧ (applyWrites st ws).pc = st.pc ∧ (applyWrites st ws).slot = st.slot ∧
    (applyWrites st ws).loop = st.loop ∧ (applyWrites st ws).outst = st.outst := by
  unfold applyWrites
  induction ws generalizing st with
  | nil => simp
  | cons w r ih =>
    have h := applyWrite_keeps st w
    have := ih (applyWrite st w)
    simp only [List.foldl_cons]
    simp_all
theorem landFlight_keeps (st : Stream) (f : Flight) :
    (landFlight st f).phase = st.phase ∧ (landFlight st f).pc = st.pc ∧ (landFlight st f).slot = st.slot ∧
    (landFlight st f).loop = st.loop ∧ (landFlight st f).outst = st.outst := by
  have h := applyWrites_keeps f.writes st
  simp only [landFlight, enterLatch]
  exact h
theorem landDue_keeps (st : Stream) :
    (landDue st).phase = st.phase ∧ (landDue st).pc = st.pc ∧ (landDue st).slot = st.slot ∧ (landDue st).loop = st.loop ∧
    (landDue st).outst = st.outst := by
  unfold landDue
  generalize List.takeWhile _ st.flying = l
  generalize hst : ({ st with flying := _ } : Stream) = t
  have h0 : t.phase = st.phase ∧ t.pc = st.pc ∧ t.slot = st.slot ∧ t.loop = st.loop ∧ t.outst = st.outst := by
    subst hst; simp
  clear hst
  induction l generalizing t with
  | nil => simpa using h0
  | cons f r ih =>
    have h := landFlight_keeps t f
    exact ih (landFlight t f) (by simp_all)

/-- What `mayIssue` says, check by check. -/
theorem mayIssue_cases {s : State} {tk : Tok} {legal : List Nat} {srcs : List Src} {dsts : List Loc} {var : Bool}
    (h : mayIssue s tk legal srcs dsts var = true) :
    canIssue s s.cur = true ∧ (isSW s.cur && tk != 0) = false ∧ legal.contains (kindOf s.cur) = true ∧
    tokensReady (landed s) s.cur tk = true ∧ srcsFault (me s) srcs = none ∧ dsts.any (pending (me s)) = false ∧
    (var && decide (32 ≤ (me s).outst.length)) = false := by
  simp only [mayIssue, Bool.and_eq_true, Bool.not_eq_true', Option.isNone_iff_eq_none] at h
  tauto

/-- A form that does not wait and whose checks pass does what its body says. -/
theorem issue_eq {f : Form} {tk : Tok} {body : State → Res} {s : State} (hi : f.illegal = false) (hw : f.waits = false)
    (h : mayIssue s tk f.legal f.srcs f.dsts f.var = true) :
    issue f tk body s = match body (popped s tk) with
      | .stall s' => .next (undoPops s' (landed s) s.cur tk)
      | .fault s' c va => .next (raiseAt (undoPops s' (landed s) s.cur tk) s.cur c va)
      | .done s' a => .next (retire (landed s) s' s.cur tk a)
      | .raw s' => .next s' := by
  obtain ⟨h1, h2, h3, h4, h5, h6, h7⟩ := mayIssue_cases h
  simp only [landed, me] at h4 h5 h6 h7
  unfold issue
  simp only [h1, hi, h2, h3, hw, h4, h5, h6, Bool.not_true, Bool.false_eq_true, if_false, Bool.not_false, Bool.or_false,
    Bool.true_and, if_true, popped, landed]
  refine if_neg fun hc => ?_
  simp only [Bool.and_eq_true, decide_eq_true_eq, Bool.and_eq_false_iff] at hc h7
  rcases h7 with h7 | h7
  · rw [hc.1] at h7; cases h7
  · exact absurd hc.2 (of_decide_eq_false h7)
theorem issue_done {f : Form} {tk : Tok} {body : State → Res} {s s' : State} {a : After} (hi : f.illegal = false)
    (hw : f.waits = false) (h : mayIssue s tk f.legal f.srcs f.dsts f.var = true) (hb : body (popped s tk) = .done s' a) :
    issue f tk body s = .next (retire (landed s) s' s.cur tk a) := by
  rw [issue_eq hi hw h, hb]
theorem issue_fault {f : Form} {tk : Tok} {body : State → Res} {s s' : State} {c : BitVec 8} {va : Word} (hi : f.illegal = false)
    (hw : f.waits = false) (h : mayIssue s tk f.legal f.srcs f.dsts f.var = true) (hb : body (popped s tk) = .fault s' c va) :
    issue f tk body s = .next (raiseAt (undoPops s' (landed s) s.cur tk) s.cur c va) := by
  rw [issue_eq hi hw h, hb]

/-! ### Pops and reaching change no stream's registers -/

theorem takePops_streamAt (s : State) (i j : Nat) (tk : Tok) : streamAt (takePops s i tk) j = streamAt s j := by
  unfold takePops
  split
  · rfl
  · unfold acquire endRegion dropClaims
    simp only [modCore_eq]
    split <;> split <;> rfl
theorem takePops_cur (s : State) (i : Nat) (tk : Tok) : (takePops s i tk).cur = s.cur := by
  unfold takePops
  split
  · rfl
  · unfold acquire endRegion dropClaims
    simp only [modCore_eq]
    split <;> split <;> rfl
@[simp] theorem popped_cur (s : State) (tk : Tok) : (popped s tk).cur = s.cur := takePops_cur _ _ _
@[simp] theorem popped_me (s : State) (tk : Tok) : streamAt (popped s tk) s.cur = me s := takePops_streamAt _ _ _ _
theorem endRegion_streamAt (s : State) (g j : Nat) : streamAt (endRegion s g) j = streamAt s j := by
  unfold endRegion dropClaims; split <;> rfl
@[simp] theorem endRegion_cur (s : State) (g : Nat) : (endRegion s g).cur = s.cur := by unfold endRegion dropClaims; split <;> rfl
@[simp] theorem endRegion_cores (s : State) (g : Nat) : (endRegion s g).cores = s.cores := by unfold endRegion dropClaims; split <;> rfl
@[simp] theorem endRegion_streams (s : State) (g : Nat) : (endRegion s g).streams = s.streams := by unfold endRegion dropClaims; split <;> rfl
@[simp] theorem endRegion_mem (s : State) (g : Nat) : (endRegion s g).mem = s.mem := by unfold endRegion dropClaims; split <;> rfl
theorem reach_cores (s : State) (i : Nat) : (reach s i).cores = s.cores := by
  unfold reach; split <;> rfl
theorem reach_cur (s : State) (i : Nat) : (reach s i).cur = s.cur := by
  unfold reach; split <;> rfl
@[simp] theorem reached_cur (s : State) : (reached s).cur = s.cur := reach_cur _ _
@[simp] theorem reached_cores (s : State) : (reached s).cores = s.cores := reach_cores _ _
/-- Reaching changes only the phase of the stream. -/
theorem reached_regs (s : State) : ∃ p, streamAt (reached s) s.cur = { me s with phase := p } := by
  unfold reached reach
  split
  · exact ⟨.held (coreAt (landed s) (coreOf s.cur)).seq false, by rw [modStream_eq, streamAt_putStream_same]; rfl⟩
  · exact ⟨(me s).phase, rfl⟩
/-- A waiting form whose checks pass does what its body says, from the state with its pops taken. -/
theorem issue_wait_eq {f : Form} {tk : Tok} {body : State → Res} {s : State} (hi : f.illegal = false) (hw : f.waits = true)
    (h : mayIssue s tk f.legal f.srcs f.dsts f.var = true) :
    issue f tk body s = match body (takePops (reached s) s.cur tk) with
      | .stall s' => .next (undoPops s' (reached s) s.cur tk)
      | .fault s' c va => .next (raiseAt (undoPops s' (reached s) s.cur tk) s.cur c va)
      | .done s' a => .next (retire (reached s) s' s.cur tk a)
      | .raw s' => .next s' := by
  obtain ⟨h1, h2, h3, h4, h5, h6, h7⟩ := mayIssue_cases h
  have h8 : tokensReady (reached s) s.cur tk = true := by
    have hc : coreAt (reached s) (coreOf s.cur) = coreAt (landed s) (coreOf s.cur) := by
      unfold coreAt; rw [reached_cores, landed_cores]
    unfold tokensReady at h4 ⊢
    rw [hc]
    exact h4
  simp only [landed, me] at h4 h5 h6 h7
  simp only [reached, landed] at h8
  unfold issue
  simp only [h1, hi, h2, h3, hw, h5, h6, Bool.not_true, Bool.false_or, Bool.false_eq_true, if_false, if_true,
    Bool.false_and, reached, landed, h8]
  split
  · rename_i hc
    simp only [Bool.and_eq_true, decide_eq_true_eq, Bool.and_eq_false_iff] at hc h7
    rcases h7 with h7 | h7
    · rw [hc.1] at h7; cases h7
    · exact absurd hc.2 (of_decide_eq_false h7)
  · rfl

end Sys2Proof.Machine
end

