-- ==== Sys2Proof/Laws/Memory.lean ====
section
/-! SUPPORT. What the operations that write memory can do: they change memory, what is kept beside it and what leaves by a host
window, and nothing else; and each keeps the canonical form. -/
namespace Sys2Proof.Machine

/-- Only memory, its dirty sectors, its key tags and what left by a host window differ, and the canonical form is kept. -/
def MemOnly (s t : State) : Prop :=
  (∃ m dr kt ho, t = { s with mem := m, dram := dr, keyTags := kt, hostOut := ho }) ∧ (Canonical s → Canonical t)
theorem MemOnly.refl (s : State) : MemOnly s s := ⟨⟨s.mem, s.dram, s.keyTags, s.hostOut, rfl⟩, id⟩
theorem MemOnly.trans {s t u : State} (h : MemOnly s t) (k : MemOnly t u) : MemOnly s u := by
  obtain ⟨⟨m, dr, kt, ho, rfl⟩, h⟩ := h
  obtain ⟨⟨m', dr', kt', ho', rfl⟩, k⟩ := k
  exact ⟨⟨m', dr', kt', ho', rfl⟩, fun c => k (h c)⟩
theorem MemOnly.foldl {β : Type} (f : State → β → State) (h : ∀ s b, MemOnly s (f s b)) (l : List β) (s : State) :
    MemOnly s (l.foldl f s) := by
  induction l generalizing s with
  | nil => exact MemOnly.refl s
  | cons b r ih => exact (h s b).trans (ih (f s b))
theorem MemOnly.canonical {s t : State} (h : MemOnly s t) : Canonical s → Canonical t := h.2
theorem MemOnly.write (s : State) (a : Nat) (bs : List Byte) : MemOnly s { s with mem := mwrite s.mem a bs } :=
  ⟨⟨_, s.dram, s.keyTags, s.hostOut, rfl⟩, fun c => wf_mwrite s.mem a bs c⟩
theorem MemOnly.tags (s : State) (kt : AMap (BitVec 512)) : MemOnly s { s with keyTags := kt } :=
  ⟨⟨s.mem, s.dram, _, s.hostOut, rfl⟩, id⟩
theorem MemOnly.dirty (s : State) (dr : AMap (List Byte)) : MemOnly s { s with dram := dr } :=
  ⟨⟨s.mem, _, s.keyTags, s.hostOut, rfl⟩, id⟩
theorem MemOnly.out (s : State) (ho : List (Nat × Nat × Word)) : MemOnly s { s with hostOut := ho } :=
  ⟨⟨s.mem, s.dram, s.keyTags, _, rfl⟩, id⟩

theorem canonical_write {s : State} (a : Nat) (bs : List Byte) (h : Canonical s) :
    Canonical { s with mem := mwrite s.mem a bs } := wf_mwrite s.mem a bs h

theorem MemOnly.streams {s t : State} (h : MemOnly s t) : t.streams = s.streams := by obtain ⟨⟨_, _, _, _, rfl⟩, -⟩ := h; rfl
theorem MemOnly.cores {s t : State} (h : MemOnly s t) : t.cores = s.cores := by obtain ⟨⟨_, _, _, _, rfl⟩, -⟩ := h; rfl
theorem MemOnly.dies {s t : State} (h : MemOnly s t) : t.dies = s.dies := by obtain ⟨⟨_, _, _, _, rfl⟩, -⟩ := h; rfl
theorem MemOnly.gangs {s t : State} (h : MemOnly s t) : t.gangs = s.gangs := by obtain ⟨⟨_, _, _, _, rfl⟩, -⟩ := h; rfl
theorem MemOnly.stewards {s t : State} (h : MemOnly s t) : t.stewards = s.stewards := by obtain ⟨⟨_, _, _, _, rfl⟩, -⟩ := h; rfl
theorem MemOnly.atlas {s t : State} (h : MemOnly s t) : t.atlas = s.atlas := by obtain ⟨⟨_, _, _, _, rfl⟩, -⟩ := h; rfl
theorem MemOnly.coach {s t : State} (h : MemOnly s t) : t.coach = s.coach := by obtain ⟨⟨_, _, _, _, rfl⟩, -⟩ := h; rfl
theorem MemOnly.requests {s t : State} (h : MemOnly s t) : t.requests = s.requests := by obtain ⟨⟨_, _, _, _, rfl⟩, -⟩ := h; rfl
theorem MemOnly.packets {s t : State} (h : MemOnly s t) : t.packets = s.packets := by obtain ⟨⟨_, _, _, _, rfl⟩, -⟩ := h; rfl
theorem MemOnly.tracked {s t : State} (h : MemOnly s t) : t.tracked = s.tracked := by obtain ⟨⟨_, _, _, _, rfl⟩, -⟩ := h; rfl
theorem MemOnly.cur {s t : State} (h : MemOnly s t) : t.cur = s.cur := by obtain ⟨⟨_, _, _, _, rfl⟩, -⟩ := h; rfl

/-! ### Writes at home (R268, R271, R272) and by physical address (R263) -/

theorem markDirty_memOnly (s : State) (lo n : Nat) : MemOnly s (markDirty s lo n) := by
  unfold markDirty
  exact MemOnly.foldl _ (fun s i => by dsimp only; split; exact MemOnly.refl s; exact MemOnly.dirty s _) _ s
theorem homeWrite_memOnly (s : State) (pa : Nat) (bs : List Byte) (key : BitVec 512) : MemOnly s (homeWrite s pa bs key) := by
  unfold homeWrite
  dsimp only
  refine MemOnly.trans ?_ (MemOnly.write _ pa bs)
  split
  · exact markDirty_memOnly s _ _
  · exact (markDirty_memOnly s _ _).trans ((MemOnly.write _ _ _).trans (MemOnly.tags _ _))
theorem pieceWrite_memOnly (s : State) (pa : Nat) (bs : List Byte) (k : Nat) : MemOnly s (pieceWrite s pa bs k) := by
  unfold pieceWrite
  split
  · exact homeWrite_memOnly s pa bs _
  · exact MemOnly.write s pa bs
  · exact MemOnly.out s _
  · exact MemOnly.refl s
theorem paWrite_memOnly (s : State) (pa : Nat) (bs : List Byte) (k : Nat) : MemOnly s (paWrite s pa bs k) := by
  unfold paWrite
  exact MemOnly.foldl _ (fun s p => pieceWrite_memOnly s _ _ k) _ s

/-! ### Writes of a ring and of the Coach, which may leave for another package (R457) -/

/-- Only memory, what is kept beside it, and what is on its way out of the package differ, and the canonical form is kept. -/
def SendOnly (s t : State) : Prop :=
  (∃ m dr kt ho rm hw pk ds n, t = { s with
    mem := m, dram := dr, keyTags := kt, hostOut := ho, remotes := rm, hwOut := hw, packets := pk, dies := ds, nextId := n }) ∧
    (Canonical s → Canonical t)
theorem SendOnly.refl (s : State) : SendOnly s s :=
  ⟨⟨s.mem, s.dram, s.keyTags, s.hostOut, s.remotes, s.hwOut, s.packets, s.dies, s.nextId, rfl⟩, id⟩
theorem SendOnly.trans {s t u : State} (h : SendOnly s t) (k : SendOnly t u) : SendOnly s u := by
  obtain ⟨⟨m, dr, kt, ho, rm, hw, pk, ds, n, rfl⟩, h⟩ := h
  obtain ⟨⟨m', dr', kt', ho', rm', hw', pk', ds', n', rfl⟩, k⟩ := k
  exact ⟨⟨m', dr', kt', ho', rm', hw', pk', ds', n', rfl⟩, fun c => k (h c)⟩
theorem SendOnly.foldl {β : Type} (f : State → β → State) (h : ∀ s b, SendOnly s (f s b)) (l : List β) (s : State) :
    SendOnly s (l.foldl f s) := by
  induction l generalizing s with
  | nil => exact SendOnly.refl s
  | cons b r ih => exact (h s b).trans (ih (f s b))
theorem SendOnly.of_memOnly {s t : State} (h : MemOnly s t) : SendOnly s t := by
  obtain ⟨⟨m, dr, kt, ho, rfl⟩, h⟩ := h
  exact ⟨⟨m, dr, kt, ho, s.remotes, s.hwOut, s.packets, s.dies, s.nextId, rfl⟩, h⟩
theorem SendOnly.streams {s t : State} (h : SendOnly s t) : t.streams = s.streams := by
  obtain ⟨⟨_, _, _, _, _, _, _, _, _, rfl⟩, -⟩ := h; rfl
theorem SendOnly.cores {s t : State} (h : SendOnly s t) : t.cores = s.cores := by
  obtain ⟨⟨_, _, _, _, _, _, _, _, _, rfl⟩, -⟩ := h; rfl
theorem SendOnly.coach {s t : State} (h : SendOnly s t) : t.coach = s.coach := by
  obtain ⟨⟨_, _, _, _, _, _, _, _, _, rfl⟩, -⟩ := h; rfl
theorem SendOnly.atlas {s t : State} (h : SendOnly s t) : t.atlas = s.atlas := by
  obtain ⟨⟨_, _, _, _, _, _, _, _, _, rfl⟩, -⟩ := h; rfl
theorem SendOnly.gangs {s t : State} (h : SendOnly s t) : t.gangs = s.gangs := by
  obtain ⟨⟨_, _, _, _, _, _, _, _, _, rfl⟩, -⟩ := h; rfl
/-- A tracked write that is sent is one more packet and one more unanswered write. -/
theorem sendRemote_sendOnly {s t : State} {src pa : Nat} {bs : List Byte} {o : RemoteOwner} (h : sendRemote s src pa bs o = some t) :
    SendOnly s t := by
  unfold sendRemote at h
  split at h
  · cases h; exact SendOnly.refl s
  · split at h
    · cases h
    · cases h
      exact ⟨⟨s.mem, s.dram, s.keyTags, s.hostOut, _, s.hwOut, _, _, _, rfl⟩, id⟩
theorem hwSend_sendOnly (s : State) (die pa : Nat) (bs : List Byte) : SendOnly s (hwSend s die pa bs) := by
  have w : SendOnly s { s with hwOut := s.hwOut ++ [(die, pa, bs)] } :=
    ⟨⟨s.mem, s.dram, s.keyTags, s.hostOut, s.remotes, _, s.packets, s.dies, s.nextId, rfl⟩, id⟩
  unfold hwSend
  dsimp only
  split
  · exact w
  · cases h : sendRemote s (globalDie s die) pa bs (.hw die) with
    | none => exact w
    | some t => exact sendRemote_sendOnly h
/-- The writes that waited at issue are sent, or wait on. -/
theorem flushHw_sendOnly (s : State) : SendOnly s (flushHw s) := by
  unfold flushHw
  refine SendOnly.trans (t := { s with hwOut := [] }) ?_ (SendOnly.foldl _ (fun s e => hwSend_sendOnly s _ _ _) _ _)
  exact ⟨⟨s.mem, s.dram, s.keyTags, s.hostOut, s.remotes, _, s.packets, s.dies, s.nextId, rfl⟩, id⟩
theorem hwStore_sendOnly (s : State) (die pa : Nat) (bs : List Byte) (k : Nat) : SendOnly s (hwStore s die pa bs k) := by
  unfold hwStore
  split
  · exact hwSend_sendOnly s _ _ _
  · exact .of_memOnly (paWrite_memOnly s _ _ _)
/-- Within the package such a write is a write at its home. -/
theorem hwStore_home (s : State) (die pa : Nat) (bs : List Byte) (k : Nat) (h : isFabric s pa = false) :
    hwStore s die pa bs k = paWrite s pa bs k := by simp [hwStore, h]
theorem hwWrite_sendOnly (s : State) (die ctx va : Nat) (bs : List Byte) : SendOnly s (hwWrite s die ctx va bs) := by
  unfold hwWrite
  exact SendOnly.foldl _ (fun s p => by
    split
    · exact hwStore_sendOnly s _ _ _ _
    · exact SendOnly.refl s) _ s
theorem trWrite_sendOnly (s : State) (slot : Nat) (bs : List Byte) : SendOnly s (trWrite s slot bs) :=
  (hwWrite_sendOnly s _ _ _ _).trans (hwWrite_sendOnly _ _ _ _ _)
/-- A ring's push writes its entry and its tail; a pop writes its head only. -/
theorem ringPop_mem (s : State) (r : Nat) : (ringPop s r).mem = s.mem := rfl

/-! ### Own scratchpads and the windows -/

/-- A Steward writes its SRAM, which stands in memory, and any other stream its core's scratchpad (R400). -/
theorem ownWrite_canonical (s : State) (sid off : Nat) (bs : List Byte) (h : Canonical s) : Canonical (ownWrite s sid off bs) := by
  unfold ownWrite
  split
  · exact wf_mwrite s.mem _ bs h
  · exact h
theorem ownWrite_compute (s : State) (sid off : Nat) (bs : List Byte) (h : isSW sid = false) :
    (ownWrite s sid off bs).mem = s.mem := by simp [ownWrite, h]
theorem setAreg_canonical (s : State) (pa : Nat) (v : BitVec 64) (h : Canonical s) : Canonical (setAreg s pa v) := h
theorem countIgnored_canonical (s : State) (d : Nat) (h : Canonical s) : Canonical (countIgnored s d) := h
theorem carveWrite_canonical (s : State) (d v : Nat) (w : Word) (h : Canonical s) : Canonical (carveWrite s d v w) := by
  unfold carveWrite
  split
  · exact h
  · exact wf_filter s.mem _ h
theorem canonical_ite {c : Prop} [Decidable c] {s t : State} (hs : Canonical s) (ht : Canonical t) :
    Canonical (if c then s else t) := by split <;> assumption
theorem canonical_foldl {β : Type} (f : State → β → State) (h : ∀ s b, Canonical s → Canonical (f s b)) (l : List β) (s : State)
    (hs : Canonical s) : Canonical (l.foldl f s) := by
  induction l generalizing s with
  | nil => exact hs
  | cons b r ih => exact ih _ (h s b hs)
theorem windowWrite_canonical (s : State) (d n r : Nat) (v : Word) (h : Canonical s) : Canonical (windowWrite s d n r v) := by
  unfold windowWrite
  exact canonical_ite h (canonical_foldl _ (fun t k ht => canonical_ite ht (canonical_write k _ ht)) _ _ h)
theorem keySlotWrite_mem (s : State) (d k : Nat) (v : BitVec 512) : (keySlotWrite s d k v).mem = s.mem := by
  unfold keySlotWrite forN
  generalize List.range 8 = l
  suffices ∀ t : State, (l.foldl (fun s i => setAreg s (dieBlock d + 0x01006000 + 64 * k + 8 * i)
      (BitVec.ofNat 64 (fld v (64 * i + 63) (64 * i)))) t).mem = t.mem from this _
  induction l with
  | nil => intro t; rfl
  | cons i r ih => intro t; exact (ih _).trans rfl

end Sys2Proof.Machine
end

