-- ==== Sys2Proof/Laws/Ops.lean ====
section
/-! SUPPORT. What each shared operation of Machine/Ops.lean can do, said once: the fields that it may change. A lemma about one
of them starts from these. -/
namespace Sys2Proof.Machine

/-! ### Messages and events (R401, R463) -/

/-- Atlas registers, messages and Stewards may differ. -/
def TellOnly (s t : State) : Prop := ∃ a m w, t = { s with atlas := a, msiSent := m, stewards := w }
theorem TellOnly.refl (s : State) : TellOnly s s := ⟨s.atlas, s.msiSent, s.stewards, rfl⟩
theorem TellOnly.trans {s t u : State} (h : TellOnly s t) (k : TellOnly t u) : TellOnly s u := by
  obtain ⟨a, m, w, rfl⟩ := h; obtain ⟨a', m', w', rfl⟩ := k; exact ⟨a', m', w', rfl⟩
theorem TellOnly.forN (n : Nat) (f : Nat → State → State) (h : ∀ i s, TellOnly s (f i s)) (s : State) : TellOnly s (forN n f s) := by
  unfold Machine.forN
  generalize List.range n = l
  induction l generalizing s with
  | nil => exact TellOnly.refl s
  | cons i r ih => exact (h i s).trans (ih _)
theorem TellOnly.setAreg (s : State) (pa : Nat) (v : BitVec 64) : TellOnly s (setAreg s pa v) :=
  ⟨_, s.msiSent, s.stewards, rfl⟩
theorem TellOnly.modSteward (s : State) (n : Nat) (f : Steward → Steward) : TellOnly s (modSteward s n f) :=
  ⟨s.atlas, s.msiSent, _, rfl⟩
theorem eventAll_tells (s : State) (b : Nat) : TellOnly s (eventAll s b) := TellOnly.forN _ _ (fun n s => TellOnly.modSteward s n _) s
theorem msixOn_tells (s : State) (l v : Nat) : TellOnly s (msixOn s l v) := by
  unfold msixOn
  dsimp only
  split
  · exact TellOnly.refl s
  · split
    · exact TellOnly.setAreg s _ _
    · exact ⟨s.atlas, _, s.stewards, rfl⟩
theorem msixAll_tells (s : State) (v : Nat) : TellOnly s (msixAll s v) := TellOnly.forN _ _ (fun l s => msixOn_tells s l v) s
theorem msixIo_tells (s : State) (io v : Nat) : TellOnly s (msixIo s io v) := (msixOn_tells s _ v).trans (msixOn_tells _ _ v)
/-- A message changes no Steward. -/
theorem msixOn_stewards (s : State) (l v : Nat) : (msixOn s l v).stewards = s.stewards := by
  unfold msixOn; dsimp only; split
  · rfl
  · split <;> rfl
theorem msixAll_stewards (s : State) (v : Nat) : (msixAll s v).stewards = s.stewards := by
  unfold msixAll forN
  generalize List.range 4 = l
  induction l generalizing s with
  | nil => rfl
  | cons i r ih => exact (ih _).trans (msixOn_stewards s i v)
theorem TellOnly.mem {s t : State} (h : TellOnly s t) : t.mem = s.mem := by obtain ⟨_, _, _, rfl⟩ := h; rfl
theorem TellOnly.streams {s t : State} (h : TellOnly s t) : t.streams = s.streams := by obtain ⟨_, _, _, rfl⟩ := h; rfl
theorem TellOnly.cores {s t : State} (h : TellOnly s t) : t.cores = s.cores := by obtain ⟨_, _, _, rfl⟩ := h; rfl
theorem TellOnly.dies {s t : State} (h : TellOnly s t) : t.dies = s.dies := by obtain ⟨_, _, _, rfl⟩ := h; rfl
theorem TellOnly.gangs {s t : State} (h : TellOnly s t) : t.gangs = s.gangs := by obtain ⟨_, _, _, rfl⟩ := h; rfl
theorem TellOnly.coach {s t : State} (h : TellOnly s t) : t.coach = s.coach := by obtain ⟨_, _, _, rfl⟩ := h; rfl
theorem TellOnly.requests {s t : State} (h : TellOnly s t) : t.requests = s.requests := by obtain ⟨_, _, _, rfl⟩ := h; rfl

/-! ### What an issue and a fault may touch -/

/-- Memory, what DRAM holds, the key tags, scopes, the Coach, packets, links and the tables of the package are unchanged: streams,
cores, claims, dies, gangs, accesses in flight, Stewards, Atlas registers and messages may differ. -/
def CoreOnly (s t : State) : Prop :=
  ∃ st c k d g r a m w n f, t = { s with
    streams := st, cores := c, claims := k, dies := d, gangs := g, requests := r, atlas := a, msiSent := m, stewards := w
    nextId := n, freeCtr := f }
theorem CoreOnly.refl (s : State) : CoreOnly s s :=
  ⟨s.streams, s.cores, s.claims, s.dies, s.gangs, s.requests, s.atlas, s.msiSent, s.stewards, s.nextId, s.freeCtr, rfl⟩
theorem CoreOnly.trans {s t u : State} (h : CoreOnly s t) (k : CoreOnly t u) : CoreOnly s u := by
  obtain ⟨_, _, _, _, _, _, _, _, _, _, _, rfl⟩ := h
  obtain ⟨st, c, k, d, g, r, a, m, w, n, f, rfl⟩ := k
  exact ⟨st, c, k, d, g, r, a, m, w, n, f, rfl⟩
theorem CoreOnly.foldl {β : Type} (f : State → β → State) (h : ∀ s b, CoreOnly s (f s b)) (l : List β) (s : State) :
    CoreOnly s (l.foldl f s) := by
  induction l generalizing s with
  | nil => exact CoreOnly.refl s
  | cons b r ih => exact (h s b).trans (ih (f s b))
theorem CoreOnly.mem {s t : State} (h : CoreOnly s t) : t.mem = s.mem := by
  obtain ⟨_, _, _, _, _, _, _, _, _, _, _, rfl⟩ := h; rfl
theorem CoreOnly.canonical {s t : State} (h : CoreOnly s t) (c : Canonical s) : Canonical t := by
  unfold Canonical at c ⊢; rw [h.mem]; exact c
theorem CoreOnly.cur {s t : State} (h : CoreOnly s t) : t.cur = s.cur := by
  obtain ⟨_, _, _, _, _, _, _, _, _, _, _, rfl⟩ := h; rfl
theorem CoreOnly.coach {s t : State} (h : CoreOnly s t) : t.coach = s.coach := by
  obtain ⟨_, _, _, _, _, _, _, _, _, _, _, rfl⟩ := h; rfl
theorem CoreOnly.packets {s t : State} (h : CoreOnly s t) : t.packets = s.packets := by
  obtain ⟨_, _, _, _, _, _, _, _, _, _, _, rfl⟩ := h; rfl
theorem TellOnly.core {s t : State} (h : TellOnly s t) : CoreOnly s t := by
  obtain ⟨a, m, w, rfl⟩ := h
  exact ⟨s.streams, s.cores, s.claims, s.dies, s.gangs, s.requests, a, m, w, s.nextId, s.freeCtr, rfl⟩
theorem CoreOnly.stream (s : State) (i : Nat) (f : Stream → Stream) : CoreOnly s (modStream s i f) :=
  ⟨_, s.cores, s.claims, s.dies, s.gangs, s.requests, s.atlas, s.msiSent, s.stewards, s.nextId, s.freeCtr, rfl⟩
theorem CoreOnly.core (s : State) (i : Nat) (f : Core → Core) : CoreOnly s (modCore s i f) :=
  ⟨s.streams, _, s.claims, s.dies, s.gangs, s.requests, s.atlas, s.msiSent, s.stewards, s.nextId, s.freeCtr, rfl⟩
theorem CoreOnly.die (s : State) (i : Nat) (f : Die → Die) : CoreOnly s (modDie s i f) :=
  ⟨s.streams, s.cores, s.claims, _, s.gangs, s.requests, s.atlas, s.msiSent, s.stewards, s.nextId, s.freeCtr, rfl⟩
theorem CoreOnly.putDie (s : State) (i : Nat) (x : Die) : CoreOnly s (putDie s i x) :=
  ⟨s.streams, s.cores, s.claims, _, s.gangs, s.requests, s.atlas, s.msiSent, s.stewards, s.nextId, s.freeCtr, rfl⟩
theorem CoreOnly.putGang (s : State) (i : Nat) (x : Gang) : CoreOnly s (putGang s i x) :=
  ⟨s.streams, s.cores, s.claims, s.dies, _, s.requests, s.atlas, s.msiSent, s.stewards, s.nextId, s.freeCtr, rfl⟩
theorem CoreOnly.modGang (s : State) (i : Nat) (f : Gang → Gang) : CoreOnly s (modGang s i f) := by
  unfold Machine.modGang; split
  · exact CoreOnly.putGang s i _
  · exact CoreOnly.refl s
theorem CoreOnly.reqs (s : State) (r : List Req) : CoreOnly s { s with requests := r } :=
  ⟨s.streams, s.cores, s.claims, s.dies, s.gangs, _, s.atlas, s.msiSent, s.stewards, s.nextId, s.freeCtr, rfl⟩
theorem CoreOnly.claims (s : State) (k : AMap Claim) : CoreOnly s { s with claims := k } :=
  ⟨s.streams, s.cores, _, s.dies, s.gangs, s.requests, s.atlas, s.msiSent, s.stewards, s.nextId, s.freeCtr, rfl⟩
theorem CoreOnly.ids (s : State) (n f : Nat) : CoreOnly s { s with nextId := n, freeCtr := f } :=
  ⟨s.streams, s.cores, s.claims, s.dies, s.gangs, s.requests, s.atlas, s.msiSent, s.stewards, _, _, rfl⟩

/-- Releasing claims changes claims only. -/
theorem dropClaims_core (s : State) (g : Nat) (p : Nat → Bool → Bool) : CoreOnly s (dropClaims s g p) := by
  unfold dropClaims; split
  · exact CoreOnly.refl s
  · exact CoreOnly.claims s _
theorem endRegion_core (s : State) (g : Nat) : CoreOnly s (endRegion s g) := dropClaims_core s g _
theorem keepClaim_core (s : State) (i line : Nat) (wr : Bool) : CoreOnly s (keepClaim s i line wr) := by
  unfold keepClaim; split
  · exact CoreOnly.refl s
  · exact CoreOnly.core s _ _
theorem acquire_core (s : State) (i : Nat) : CoreOnly s (acquire s i) := by
  unfold acquire
  split
  · exact endRegion_core s i
  · exact (CoreOnly.core s _ _).trans (endRegion_core _ i)
theorem takePops_core (s : State) (i : Nat) (tk : Tok) : CoreOnly s (takePops s i tk) := by
  unfold takePops; split
  · exact CoreOnly.refl s
  · exact (CoreOnly.core s _ _).trans (acquire_core _ i)
theorem undoPops_core (s b : State) (i : Nat) (tk : Tok) : CoreOnly s (undoPops s b i tk) := by
  unfold undoPops; split
  · exact CoreOnly.refl s
  · exact (CoreOnly.core s _ _).trans (CoreOnly.claims _ _)
theorem reservePushes_core (s : State) (i : Nat) (tk : Tok) (c : PushWhen) (l : List Nat) :
    CoreOnly s (reservePushes s i tk c l) := by
  unfold reservePushes
  dsimp only
  split
  · exact CoreOnly.refl s
  · exact CoreOnly.core s _ _
theorem landIn_core (s : State) (i : Nat) (ws : List Write) (v : VWord) (n : Nat) : CoreOnly s (landIn s i ws v n).2 :=
  ⟨_, s.cores, s.claims, s.dies, s.gangs, s.requests, s.atlas, s.msiSent, s.stewards, _, s.freeCtr, rfl⟩
/-- Retirement (R15, R42, R46, R49). -/
theorem retire_core (b s : State) (i : Nat) (tk : Tok) (a : After) : CoreOnly s (retire b s i tk a) := by
  unfold retire
  dsimp only
  exact (CoreOnly.stream s i _).trans (reservePushes_core _ _ _ _ _)
theorem begun_core (s : State) (i : Nat) : CoreOnly s (begun s i) := CoreOnly.stream s i _
theorem reach_core (s : State) (i : Nat) : CoreOnly s (reach s i) := by
  unfold reach; split
  · exact CoreOnly.stream s i _
  · exact CoreOnly.refl s

/-! ### Faults (R350, R352, R363, R402) -/

theorem stopGang_core (s : State) (g : Nat) (x : Gang) (c : BitVec 8) : CoreOnly s (stopGang s g x c) := by
  unfold stopGang
  refine CoreOnly.trans ?_ (CoreOnly.putGang _ _ _)
  refine CoreOnly.trans ?_ (CoreOnly.die _ _ _)
  refine CoreOnly.trans ?_ (CoreOnly.reqs _ _)
  refine CoreOnly.trans ?_ (CoreOnly.foldl _ (fun s m => CoreOnly.core s m _) _ _)
  refine CoreOnly.trans ?_ (CoreOnly.foldl _ (fun s m => CoreOnly.foldl _ (fun s k => CoreOnly.stream s _ _) _ s) _ _)
  exact CoreOnly.foldl _ (fun s m => CoreOnly.foldl _ (fun s k => endRegion_core s _) _ s) _ s
theorem killLeg_core (s : State) (g : Nat) (c : BitVec 8) : CoreOnly s (killLeg s g c) := by
  unfold killLeg
  split
  · exact CoreOnly.refl s
  · split
    · exact stopGang_core s g _ c
    · exact CoreOnly.foldl _ (fun s e => by
        split
        · exact stopGang_core s _ _ c
        · exact CoreOnly.refl s) _ s
/-- A raised fault changes no memory and no Steward. -/
theorem raise_core (s : State) (f : FaultInfo) : CoreOnly s (raise s f) := by
  unfold raise
  dsimp only
  split
  · exact (TellOnly.setAreg s _ _).core
  · split
    · exact CoreOnly.putDie s _ _
    · split
      · exact (CoreOnly.putDie s _ _).trans (CoreOnly.modGang _ _ _)
      · exact (CoreOnly.putDie s _ _).trans (killLeg_core _ _ _)
      · exact (CoreOnly.putDie s _ _).trans (CoreOnly.modGang _ _ _)
      · exact CoreOnly.putDie s _ _
theorem haltSteward_core (s : State) (i : Nat) : CoreOnly s (haltSteward s i) :=
  (CoreOnly.stream s i _).trans ((eventAll_tells _ 3).trans (msixAll_tells _ 15)).core
theorem stewardException_core (s : State) (i : Nat) (c : BitVec 8) (va : Word) (r : BitVec 18) :
    CoreOnly s (stewardException s i c va r) := by
  unfold stewardException
  dsimp only
  split
  · exact (TellOnly.modSteward s _ _).core.trans (haltSteward_core _ i)
  · exact (TellOnly.modSteward s _ _).core.trans (CoreOnly.stream _ _ _)
theorem raiseAt_core (s : State) (i : Nat) (c : BitVec 8) (va : Word) : CoreOnly s (raiseAt s i c va) := by
  unfold raiseAt
  split
  · exact stewardException_core s i c va _
  · exact (CoreOnly.stream s i _).trans (raise_core _ _)

/-! ### Issue (R40) -/

/-- The state in what a body answers. -/
def Res.state (r : Res) : State :=
  match r with
  | .stall s => s
  | .fault s _ _ => s
  | .done s _ => s
  | .raw s => s
/-- Issue always answers a next state, and one that its body's answer leads to: whatever the streams, cores, claims, dies and
gangs then hold, the rest is as the body left it, or as it was. -/
theorem issue_next (f : Form) (tk : Tok) (body : State → Res) (s : State) :
    ∃ t, issue f tk body s = .next t ∧ (CoreOnly s t ∨ ∃ u, CoreOnly s u ∧ CoreOnly (body u).state t) := by
  unfold issue
  dsimp only
  split
  · exact ⟨_, rfl, .inl (CoreOnly.refl s)⟩
  have hl := CoreOnly.stream s s.cur landDue
  generalize modStream s s.cur landDue = l at hl ⊢
  split
  · exact ⟨_, rfl, .inl (hl.trans (raiseAt_core _ _ _ _))⟩
  split
  · exact ⟨_, rfl, .inl (hl.trans (raiseAt_core _ _ _ _))⟩
  split
  · exact ⟨_, rfl, .inl (hl.trans (CoreOnly.stream _ _ _))⟩
  split
  · exact ⟨_, rfl, .inl (hl.trans (raiseAt_core _ _ _ _))⟩
  split
  · exact ⟨_, rfl, .inl (hl.trans (CoreOnly.stream _ _ _))⟩
  split
  · exact ⟨_, rfl, .inl (hl.trans (CoreOnly.stream _ _ _))⟩
  split
  · have hp := hl.trans (takePops_core l s.cur tk)
    refine (?_ : ∃ t, _ = _ ∧ _)
    cases hb : body (takePops l s.cur tk) with
    | stall u => exact ⟨_, rfl, .inr ⟨_, hp, by rw [hb]; exact undoPops_core _ _ _ _⟩⟩
    | fault u c va => exact ⟨_, rfl, .inr ⟨_, hp, by rw [hb]; exact (undoPops_core _ _ _ _).trans (raiseAt_core _ _ _ _)⟩⟩
    | done u a => exact ⟨_, rfl, .inr ⟨_, hp, by rw [hb]; exact retire_core _ _ _ _ _⟩⟩
    | raw u => exact ⟨_, rfl, .inr ⟨_, hp, by rw [hb]; exact CoreOnly.refl _⟩⟩
  · have hr := hl.trans (reach_core l s.cur)
    generalize reach l s.cur = v at hr ⊢
    split
    · have hp := hr.trans (takePops_core v s.cur tk)
      cases hb : body (takePops v s.cur tk) with
      | stall u => exact ⟨_, rfl, .inr ⟨_, hp, by rw [hb]; exact undoPops_core _ _ _ _⟩⟩
      | fault u c va => exact ⟨_, rfl, .inr ⟨_, hp, by rw [hb]; exact (undoPops_core _ _ _ _).trans (raiseAt_core _ _ _ _)⟩⟩
      | done u a => exact ⟨_, rfl, .inr ⟨_, hp, by rw [hb]; exact retire_core _ _ _ _ _⟩⟩
      | raw u => exact ⟨_, rfl, .inr ⟨_, hp, by rw [hb]; exact CoreOnly.refl _⟩⟩
    · cases hb : body v with
      | stall u => exact ⟨_, rfl, .inr ⟨_, hr, by rw [hb]; exact CoreOnly.refl _⟩⟩
      | fault u c va =>
        refine ⟨_, rfl, ?_⟩
        split
        · exact .inl hr
        · exact .inr ⟨_, hr, by rw [hb]; exact raiseAt_core _ _ _ _⟩
      | done u a =>
        refine ⟨_, rfl, ?_⟩
        split
        · exact .inr ⟨_, hr, by rw [hb]; exact begun_core _ _⟩
        · exact .inl hr
      | raw u => exact ⟨_, rfl, .inr ⟨_, hr, by rw [hb]; exact CoreOnly.refl _⟩⟩
/-- An issue keeps the canonical form if its body does. -/
theorem issue_canonical {f : Form} {tk : Tok} {body : State → Res} {s t : State} (h : Canonical s)
    (hb : ∀ u, Canonical u → Canonical (body u).state) (hn : issue f tk body s = .next t) : Canonical t := by
  obtain ⟨u, hu, hc⟩ := issue_next f tk body s
  rw [hu] at hn
  obtain rfl : u = t := by injection hn
  rcases hc with hc | ⟨v, hv, hc⟩
  · exact hc.canonical h
  · exact hc.canonical (hb v (hv.canonical h))

end Sys2Proof.Machine
end

