-- ==== Sys2Proof/Laws/Forms.lean ====
section
/-! SUPPORT. What a form's body sees of the state at issue: pops, a reached waiting form and the end of a region change no
register, semaphore, ring or waymark. -/
namespace Sys2Proof.Machine

theorem readX_phase (st : Stream) (p : Phase) (r : Nat) : readX { st with phase := p } r = readX st r := rfl
theorem readX_zero (st : Stream) : readX st 0 = 0 := rfl
theorem waited_cur (s : State) (tk : Tok) : (takePops (reached s) s.cur tk).cur = s.cur := by
  rw [takePops_cur]; exact reach_cur _ _
theorem waited_readX (s : State) (tk : Tok) (r : Reg) :
    readX (streamAt (takePops (reached s) s.cur tk) s.cur) r.toNat = operand s r := by
  rw [takePops_streamAt]
  obtain ⟨p, hp⟩ := reached_regs s
  rw [hp]
  rfl
theorem popped_readX (s : State) (tk : Tok) (r : Reg) : readX (streamAt (popped s tk) s.cur) r.toNat = operand s r := by
  rw [popped_me]; rfl
theorem endRegion_popped_me (s : State) (tk : Tok) (i : Nat) : streamAt (endRegion (popped s tk) i) s.cur = me s := by
  rw [endRegion_streamAt]; exact popped_me s tk
/-- A form legal on the compute streams alone issues on none of the Stewards (R37). -/
theorem compute_of_mayIssue {s : State} {tk : Tok} {srcs : List Src} {dsts : List Loc} {var : Bool}
    (h : mayIssue s tk computeStreams srcs dsts var = true) : isSW s.cur = false := by
  have := (mayIssue_cases h).2.2.1
  unfold computeStreams kindOf at this
  cases hq : isSW s.cur with
  | false => rfl
  | true => simp [hq] at this
/-- A form with an illegal encoding raises 0x01 wherever the stream may issue (R37, R40). -/
theorem issue_illegal {f : Form} {tk : Tok} {body : State → Res} {s : State} (hi : f.illegal = true)
    (h : canIssue s s.cur = true) : issue f tk body s = .next (raiseAt (landed s) s.cur 0x01 0) := by
  unfold issue; simp [h, hi, landed]
/-- A stream that may not issue does nothing (R40, R352). -/
theorem issue_stopped {f : Form} {tk : Tok} {body : State → Res} {s : State} (h : canIssue s s.cur = false) :
    issue f tk body s = .next s := by
  unfold issue; simp [h]
theorem semAt_endRegion (s : State) (i c m : Nat) : semAt (endRegion s i) c m = semAt s c m := by simp [semAt, coreAt]
theorem ringAt_endRegion (s : State) (i c m : Nat) : ringAt (endRegion s i) c m = ringAt s c m := by simp [ringAt, coreAt]
theorem wayAt_endRegion (s : State) (i c m : Nat) : wayAt (endRegion s i) c m = wayAt s c m := by simp [wayAt, coreAt]
@[simp] theorem putRing_cur (s : State) (c r : Nat) (x : RingState) : (putRing s c r x).cur = s.cur := rfl

/-! ### VTYPE at issue -/

theorem applyWrite_vtype (st : Stream) (w : Write) : (applyWrite st w).vtype = st.vtype := by
  unfold applyWrite; cases w.loc <;> simp; split <;> rfl
theorem applyWrites_vtype (ws : List Write) (st : Stream) : (applyWrites st ws).vtype = st.vtype := by
  unfold applyWrites
  induction ws generalizing st with
  | nil => rfl
  | cons w r ih => exact (ih _).trans (applyWrite_vtype st w)
theorem landFlight_vtype (st : Stream) (f : Flight) : (landFlight st f).vtype = st.vtype := by
  simp only [landFlight, enterLatch]; exact applyWrites_vtype _ _
theorem landDue_vtype (st : Stream) : (landDue st).vtype = st.vtype := by
  unfold landDue
  generalize List.takeWhile _ st.flying = l
  generalize hst : ({ st with flying := _ } : Stream) = t
  have h0 : t.vtype = st.vtype := by subst hst; rfl
  clear hst
  induction l generalizing t with
  | nil => exact h0
  | cons f r ih => exact ih _ (by rw [landFlight_vtype]; exact h0)
theorem me_vtype (s : State) : (me s).vtype = (streamAt s s.cur).vtype := by
  show (streamAt (landed s) s.cur).vtype = _
  unfold landed; rw [modStream_eq, streamAt_putStream_same]; exact landDue_vtype _

end Sys2Proof.Machine
end

