-- ==== Sys2Proof/Laws/Engine.lean ====
section
/-! SUPPORT. What the operations of Machine/Operands.lean, Machine/Memory.lean and Machine/Engine.lean can change, said once:
semaphores, waymarks, rings and commands live in cores, accesses in flight in the list of them, translations in the TLBs. -/
namespace Sys2Proof.Machine

/-! ### Semaphores (R97, R98), waymarks (R104), rings (R99 to R102) -/

theorem putSem_core (s : State) (c m : Nat) (x : Sem) : CoreOnly s (putSem s c m x) := CoreOnly.core s c _
theorem putWay_core (s : State) (c o : Nat) (w : Way) : CoreOnly s (putWay s c o w) := CoreOnly.core s c _
theorem putRing_core (s : State) (c r : Nat) (x : RingState) : CoreOnly s (putRing s c r x) := CoreOnly.core s c _
theorem wayApply_core (s : State) (c o : Nat) (b : Bool) : CoreOnly s (wayApply s c o b) := putWay_core s c o _
theorem semTake_core (s : State) (i m n : Nat) (b : Bool) : CoreOnly s (semTake s i m n b) := by
  unfold semTake
  dsimp only
  refine CoreOnly.trans ?_ (acquire_core _ i)
  split
  · exact (CoreOnly.core s _ _).trans (putSem_core _ _ _ _)
  · exact CoreOnly.core s _ _
theorem CoreOnly.forN (n : Nat) (f : Nat → State → State) (h : ∀ i s, CoreOnly s (f i s)) (s : State) : CoreOnly s (forN n f s) := by
  unfold Machine.forN; exact CoreOnly.foldl _ (fun s i => h i s) _ s
theorem testWaiters_core (s : State) (c m : Nat) : CoreOnly s (testWaiters s c m) := by
  unfold testWaiters
  refine CoreOnly.forN _ _ (fun k s => ?_) s
  dsimp only
  split
  · split
    · exact ((CoreOnly.stream s _ _).trans (takePops_core _ _ _)).trans ((semTake_core _ _ _ _ _).trans (retire_core _ _ _ _ _))
    · exact CoreOnly.refl s
  · exact CoreOnly.refl s
theorem semAdd_core {s t : State} {c m n : Nat} {g : Tag} {l : List (BitVec 32)} (h : semAdd s c m n g l = some t) : CoreOnly s t := by
  unfold semAdd at h
  dsimp only at h
  split at h
  · cases h
  · injection h with h; rw [← h]; exact (putSem_core s c m _).trans (testWaiters_core _ c m)
theorem semSet_core (s : State) (c m : Nat) (v : BitVec 32) (i p : Bool) : CoreOnly s (semSet s c m v i p) := by
  unfold semSet; exact (putSem_core s c m _).trans (testWaiters_core _ c m)
theorem ringSteal_core (s : State) (c r : Nat) : CoreOnly s (ringSteal s c r).2.2 := by
  unfold ringSteal
  dsimp only
  split
  · exact CoreOnly.refl s
  · exact putRing_core s c r _

/-! ### Accesses and commands (R52, R106 to R114) -/

theorem sendReq_core (s : State) (r : Req) : CoreOnly s (sendReq s r).2 :=
  ⟨s.streams, s.cores, s.claims, s.dies, s.gangs, _, s.atlas, s.msiSent, s.stewards, _, s.freeCtr, rfl⟩
theorem addOutst_core (s : State) (i : Nat) (l : List Loc) : CoreOnly s (addOutst s i l).2 :=
  ⟨_, s.cores, s.claims, s.dies, s.gangs, s.requests, s.atlas, s.msiSent, s.stewards, _, s.freeCtr, rfl⟩
theorem sendLoad_core (s : State) (i : Nat) (l : List Loc) (r : Req) : CoreOnly s (sendLoad s i l r).state :=
  (addOutst_core s i l).trans (sendReq_core _ _)
theorem sendStore_core (s : State) (r : Req) : CoreOnly s (sendStore s r).state := sendReq_core s r
theorem deliver_core (s : State) (i o : Nat) (ws : List Write) : CoreOnly s (deliver s i o ws) := CoreOnly.stream s i _
theorem dropReq_core (s : State) (i : Nat) : CoreOnly s (dropReq s i) := CoreOnly.reqs s _
theorem answer_core (s : State) (r : Req) (vs : List Word) : CoreOnly s (answer s r vs) := by
  unfold answer
  refine CoreOnly.trans ?_ (dropReq_core _ _)
  split
  · exact deliver_core s _ _ _
  · exact CoreOnly.refl s
theorem state_ite {c : Prop} [Decidable c] {s : State} {a b : Res} (ha : CoreOnly s a.state) (hb : CoreOnly s b.state) :
    CoreOnly s (if c then a else b).state := by split <;> assumption
/-- A command waits, faults or is added to its core; it changes no memory. -/
theorem issueCmd_core (s : State) (i : Nat) (x : Instr) (ops : List Word) (im : List Byte) (rd wr : List Range) (e : Engine)
    (w : Option Nat) : CoreOnly s (issueCmd s i x ops im rd wr e w).state := by
  unfold issueCmd
  exact state_ite (CoreOnly.refl s) (state_ite (CoreOnly.refl s)
    (((CoreOnly.core s _ _).trans (CoreOnly.stream _ _ _)).trans (landIn_core _ _ _ _ _)))
theorem modCmd_core (s : State) (c : Nat) (q : BitVec 32) (f : Cmd → Cmd) : CoreOnly s (modCmd s c q f) := CoreOnly.core s c _
theorem dropCmd_core (s : State) (c : Nat) (q : BitVec 32) : CoreOnly s (dropCmd s c q) := CoreOnly.core s c _
theorem retireCmd_core (s : State) (c : Nat) (q : BitVec 32) : CoreOnly s (retireCmd s c q) :=
  (dropCmd_core s c q).trans (endRegion_core _ _)
theorem setExstat_core (s : State) (d b : Nat) : CoreOnly s (setExstat s d b) := (TellOnly.setAreg s _ _).core
/-- A command that faults is held or over; no memory changes. -/
theorem engineFail_core (s : State) (c : Nat) (q : BitVec 32) (a : Nat) (code : BitVec 8) (va : Word) (n : Nat) :
    CoreOnly s (engineFail s c q a code va n) := by
  unfold engineFail
  dsimp only
  split
  · exact CoreOnly.refl s
  split
  · exact setExstat_core s _ 8
  split
  · exact (raise_core s _).trans (modCmd_core _ _ _ _)
  split
  · exact raise_core s _
  · exact ((raise_core s _).trans (CoreOnly.die _ _ _)).trans (retireCmd_core _ _ _)
theorem engineInc_core (s : State) (c : Nat) (q : BitVec 32) (a t m n : Nat) (g : Tag) (o : Bool) :
    CoreOnly s (engineInc s c q a t m n g o) := by
  unfold engineInc
  split
  · rename_i h; exact semAdd_core h
  · split
    · exact raise_core s _
    · exact setExstat_core s _ 8

/-! ### Translation (R355 to R359), rings in memory (R343) -/

/-- A translation changes TLBs only. -/
theorem tlbPut_mem (s : State) (t : Nat) (l : List TlbEntry) : (tlbPut s t l).mem = s.mem := by
  unfold tlbPut; split <;> rfl
theorem translate_mem (s : State) (t ctx : Nat) (va : BitVec 64) (r : Right) : (translate s t ctx va r).2.mem = s.mem := by
  unfold translate
  dsimp only
  split
  · exact tlbPut_mem s t _
  · split
    · rfl
    · split
      · rfl
      · split
        · rfl
        · exact tlbPut_mem s t _
theorem access_mem (s : State) (t ctx : Nat) (va : BitVec 64) (r : Right) : (access s t ctx va r).2.mem = s.mem := by
  have h := translate_mem s t ctx va r
  unfold access
  split
  · rename_i hx; rw [hx] at h; exact h
  · rename_i hx
    rw [hx] at h
    split
    · exact h
    · split <;> exact h
theorem ringPush_canonical (s : State) (r : Nat) (bs : List Byte) (h : Canonical s) : Canonical (ringPush s r bs) :=
  (hwStore_sendOnly s _ _ bs 0).2 h
/-- A write by VA keeps the canonical form if what writes each page does. -/
theorem vaWriteBy_canonical (s : State) (t ctx : Nat) (va : BitVec 64) (bs : List Byte)
    (put : State → Xlat → List Byte → Except (BitVec 8 × Word) Unit × State)
    (hp : ∀ u x b, Canonical u → Canonical (put u x b).2) (h : Canonical s) : Canonical (vaWriteBy s t ctx va bs put).2 := by
  unfold vaWriteBy
  dsimp only
  generalize List.range _ = l
  suffices ∀ a : Except (BitVec 8 × Word) Unit × State, Canonical a.2 → Canonical (l.foldl _ a).2 from this _ h
  induction l with
  | nil => intro a ha; exact ha
  | cons i l ih =>
    intro a ha
    refine ih _ ?_
    dsimp only
    split
    · exact ha
    · rename_i _ u
      have hm := access_mem u t ctx (BitVec.ofNat 64 (Nat.max va.toNat (va.toNat / 16384 * 16384 + 16384 * i))) .wr
      have hc : Canonical (access u t ctx (BitVec.ofNat 64 (Nat.max va.toNat (va.toNat / 16384 * 16384 + 16384 * i))) .wr).2 := by
        unfold Canonical at ha ⊢; rw [hm]; exact ha
      split
      · rename_i hx; rw [hx] at hc; exact hc
      · rename_i hx
        rw [hx] at hc
        split
        · exact hc
        · exact hp _ _ _ hc
/-- A write by VA whose first page faults, or whose first bytes are not taken, ends there with that code. -/
theorem vaWriteBy_stops {s u : State} {t ctx : Nat} {va : BitVec 64} {bs : List Byte}
    {put : State → Xlat → List Byte → Except (BitVec 8 × Word) Unit × State} {e : BitVec 8 × Word} (hl : 0 < bs.length)
    (h : (match access s t ctx va .wr with
      | (.error e, s) => (.error e, s)
      | (.ok x, s) =>
        if !homeReached s t x then (.error (0xF0, BitVec.ofNat 64 x.pa), s)
        else put s x (bs.take (Nat.min (va.toNat + bs.length) (va.toNat / 16384 * 16384 + 16384) - va.toNat))) = (.error e, u)) :
    vaWriteBy s t ctx va bs put = (.error e, u) := by
  have hn : ceilDiv (va.toNat % 16384 + bs.length) 16384 = ceilDiv (va.toNat % 16384 + bs.length) 16384 - 1 + 1 := by
    simp only [ceilDiv]; omega
  have hv : Nat.max va.toNat (va.toNat / 16384 * 16384 + 16384 * 0) = va.toNat := by
    simp only [Nat.mul_zero, Nat.add_zero]; exact Nat.max_eq_left (Nat.div_mul_le_self _ _)
  have stays : ∀ l : List Nat, l.foldl (fun (acc : Except (BitVec 8 × Word) Unit × State) i =>
      match acc with
      | (.error e, s) => (.error e, s)
      | (.ok _, s) =>
        let lo := Nat.max va.toNat (va.toNat / 16384 * 16384 + 16384 * i)
        let m := Nat.min (va.toNat + bs.length) (va.toNat / 16384 * 16384 + 16384 * (i + 1)) - lo
        match access s t ctx (BitVec.ofNat 64 lo) .wr with
        | (.error e, s) => (.error e, s)
        | (.ok x, s) =>
          if !homeReached s t x then (.error (0xF0, BitVec.ofNat 64 x.pa), s) else put s x ((bs.drop (lo - va.toNat)).take m))
      (.error e, u) = (.error e, u) := by
    intro l
    induction l with
    | nil => rfl
    | cons i l ih => exact ih
  unfold vaWriteBy
  dsimp only
  rw [hn, List.range_succ_eq_map, List.foldl_cons]
  simp only [hv, Nat.sub_self, List.drop_zero, Nat.zero_add, Nat.mul_one, BitVec.ofNat_toNat, BitVec.setWidth_eq]
  exact (congrArg (fun a => List.foldl _ a _) h).trans (stays _)
theorem vaWrite_canonical (s : State) (t ctx : Nat) (va : BitVec 64) (bs : List Byte) (h : Canonical s) :
    Canonical (vaWrite s t ctx va bs).2 :=
  vaWriteBy_canonical s t ctx va bs _ (fun u _ _ hu => (paWrite_memOnly u _ _ _).canonical hu) h

end Sys2Proof.Machine
end

