-- ==== Sys2Proof/Laws/Legs.lean ====
section
/-! SUPPORT. What the writes of a save can come to: all made, or stopped by the first that faults or waits (R353, R354, R457). -/
namespace Sys2Proof.Machine

/-- The loop of `saveRun`, from a state in which a write has already failed or not. -/
def saveFold (g : Nat) (x : Gang) (a : Option (Nat × BitVec 8 × Word) × State) (l : List (Nat × Nat × List Byte)) :
    Option (Nat × BitVec 8 × Word) × State :=
  l.foldl (fun a w =>
    match a with
    | (some e, s) => (some e, s)
    | (none, s) =>
      match savePut s g x w with
      | (.error (c, va), s) => (some (w.1, c, va), s)
      | (.ok _, s) => (none, modGang s g fun y => { y with progress := y.progress + 1 })) a
theorem saveRun_eq (s : State) (g : Nat) (x : Gang) (full : Bool) :
    saveRun s g x full = saveFold g x (none, s) ((saveWrites s g x full).drop x.progress) := rfl
theorem saveFold_some (g : Nat) (x : Gang) (e : Nat × BitVec 8 × Word) (s : State) (l : List (Nat × Nat × List Byte)) :
    saveFold g x (some e, s) l = (some e, s) := by
  induction l with
  | nil => rfl
  | cons w l ih => exact ih
/-- What a save writes does not depend on how much of it was written. -/
theorem saveWrites_progress (s : State) (g : Nat) (x : Gang) (full : Bool) (n : Nat) :
    saveWrites s g { x with progress := n } full = saveWrites s g x full := rfl
/-- Once every write was made, nothing is left to do. -/
theorem saveRun_done (s : State) (g : Nat) (x : Gang) (full : Bool) (h : (saveWrites s g x full).length ≤ x.progress) :
    saveRun s g x full = (none, s) := by
  rw [saveRun_eq, List.drop_eq_nil_of_le h]; rfl
/-- The next write faults or waits: the save goes no further. -/
theorem saveRun_stops {s u : State} {g : Nat} {x : Gang} {full : Bool} {w : Nat × Nat × List Byte} {r : List (Nat × Nat × List Byte)}
    {c : BitVec 8} {va : Word} (h : (saveWrites s g x full).drop x.progress = w :: r) (hp : savePut s g x w = (.error (c, va), u)) :
    saveRun s g x full = (some (w.1, c, va), u) := by
  have hs : saveFold g x (none, s) (w :: r) = saveFold g x
      (match savePut s g x w with
        | (.error (c, va), s) => (some (w.1, c, va), s)
        | (.ok _, s) => (none, modGang s g fun y => { y with progress := y.progress + 1 })) r := rfl
  rw [saveRun_eq, h, hs, hp]
  exact saveFold_some _ _ _ _ _
/-- The next write is made: the save goes on with the one after it. -/
theorem saveRun_goes {s u : State} {g : Nat} {x : Gang} {full : Bool} {w : Nat × Nat × List Byte} {r : List (Nat × Nat × List Byte)}
    {a : Unit} (h : (saveWrites s g x full).drop x.progress = w :: r) (hp : savePut s g x w = (.ok a, u)) :
    saveRun s g x full = saveFold g x (none, modGang u g fun y => { y with progress := y.progress + 1 }) r := by
  have hs : saveFold g x (none, s) (w :: r) = saveFold g x
      (match savePut s g x w with
        | (.error (c, va), s) => (some (w.1, c, va), s)
        | (.ok _, s) => (none, modGang s g fun y => { y with progress := y.progress + 1 })) r := rfl
  rw [saveRun_eq, h, hs, hp]
/-- A save stops at a write that waits, at one that faults, at the answers that are still out, or ends. -/
theorem saveGang_cases (s : State) (g : Nat) (x : Gang) (full : Bool) :
    (∃ m c va u, saveRun s g x full = (some (m, c, va), u) ∧ saveGang s g x full = if c = notYet then u else memberFault u g m c va) ∨
    (∃ u, saveRun s g x full = (none, u) ∧ saveGang s g x full = if saveOut u g then u else endSave u g x full) := by
  unfold saveGang
  rcases h : saveRun s g x full with ⟨_ | ⟨m, c, va⟩, u⟩
  · exact .inr ⟨u, rfl, rfl⟩
  · exact .inl ⟨m, c, va, u, rfl, rfl⟩
@[simp] theorem pageRuns_length (va : Nat) (bs : List Byte) :
    (pageRuns va bs).length = ceilDiv (va % 16384 + bs.length) 16384 := by simp [pageRuns]
/-- The first write of a save is the header at the save area's first byte, for the member of rank 0. -/
theorem saveWrites_first {s : State} {g : Nat} {x : Gang} {full : Bool} {m : Nat} {ms : List Nat} (hm : membersOf g x = m :: ms)
    (hr : rankIn x m = 0) : ∃ b r, saveWrites s g x full = (m, saveVa x, b) :: r ∧ 0 < b.length := by
  have hn (va : Nat) (bs : List Byte) (h : 0 < bs.length) : ∃ b r, pageRuns va bs = (va, b) :: r ∧ 0 < b.length := by
    have hc : ceilDiv (va % 16384 + bs.length) 16384 = ceilDiv (va % 16384 + bs.length) 16384 - 1 + 1 := by
      simp only [ceilDiv]; omega
    have hv : Nat.max va (va / 16384 * 16384 + 16384 * 0) = va := by
      simp only [Nat.mul_zero, Nat.add_zero]; exact Nat.max_eq_left (Nat.div_mul_le_self _ _)
    unfold pageRuns
    rw [hc, List.range_succ_eq_map, List.map_cons]
    simp only [hv]
    refine ⟨_, _, rfl, ?_⟩
    simp only [Nat.sub_self, List.drop_zero, List.length_take]
    omega
  simp only [saveWrites, hm, List.flatMap_cons, hr, if_true, List.cons_append, List.nil_append]
  obtain ⟨b, r, hb, hl⟩ := hn (saveVa x) (leBytes 8 full.toNat ++ leBytes 8 x.tick.toNat ++ openBytes s 0xFF0) (by simp)
  rw [hb]
  exact ⟨b, _, rfl, hl⟩
/-- A save whose first page faults ends there. -/
theorem saveRun_faults {s u : State} {g : Nat} {x : Gang} {full : Bool} {m : Nat} {ms : List Nat} {c : BitVec 8} {va : Word}
    (hp : x.progress = 0) (hm : membersOf g x = m :: ms) (hr : rankIn x m = 0)
    (h : access s m x.ctx (BitVec.ofNat 64 (saveVa x)) .wr = (.error (c, va), u)) : saveRun s g x full = (some (m, c, va), u) := by
  obtain ⟨b, r, hw, hl⟩ := saveWrites_first (s := s) (full := full) hm hr
  refine saveRun_stops (w := (m, saveVa x, b)) (r := r) (by rw [hp]; exact hw) (vaWriteBy_stops hl ?_)
  rw [h]
/-- A save whose first page lies in another package, with no room for a tracked write, waits. -/
theorem saveRun_waits {s u : State} {g : Nat} {x : Gang} {full : Bool} {m : Nat} {ms : List Nat} {a : Xlat} {dst : Nat}
    (hp : x.progress = 0) (hm : membersOf g x = m :: ms) (hr : rankIn x m = 0)
    (h : access s m x.ctx (BitVec.ofNat 64 (saveVa x)) .wr = (.ok a, u)) (hh : homeReached u m a = true) (hf : isFabric u a.pa = true)
    (hd : homeGlobal u a.pa = some dst) (ht : 256 ≤ trackedOut u (globalDie u (g / 64)) dst) :
    saveRun s g x full = (some (m, notYet, 0), u) := by
  obtain ⟨b, r, hw, hl⟩ := saveWrites_first (s := s) (full := full) hm hr
  refine saveRun_stops (w := (m, saveVa x, b)) (r := r) (by rw [hp]; exact hw) (vaWriteBy_stops hl ?_)
  rw [h]
  simp [hh, hwPut, hf, sendRemote, hd, ht]

end Sys2Proof.Machine
end

