-- ==== Sys2Proof/Tests/Slice0.lean ====
section
/-! SUPPORT. The model's own tests: every check of WellFormed refuses an ill-formed term, words that the spec assembles decode to
the instruction they stand for, one step of an instruction on a small state, and for every statement a state and operands that
meet its hypotheses. -/
namespace Sys2Proof.Tests
open Sys2Proof Sys2Proof.Machine Sys2Proof.Claims
set_option Elab.async false

/-! ### Every check of WellFormed refuses a term (R22 to R33, R38) -/

theorem test_illFormed_scalar :
    illFormed (.addi 0 28 0 0) = some .latchDest ∧ illFormed (.sll 0 1 0 0 1) = some .nwDest ∧
    illFormed (.add 0 2 4 8 2 0) = some .badGroup ∧ illFormed (.loop 0 1 0) = some .badImmediate ∧
    illFormed (.csrr 0 1 0x40A) = some .reservedCsr ∧ illFormed (.tlbi 3 0) = some .badKind ∧
    illFormed (.tlbi 0 1) = some .nonzeroField ∧ illFormed (.pred 0 1 0 1 0) = some .nonzeroField := by decide
theorem test_illFormed_memory :
    illFormed (.aadd 0 1 2 0 2) = some .badSize ∧ illFormed (.acas 0 1 3 0 0) = some .badPair ∧
    illFormed (.cpy 0 1 2 5 0) = some .badQuad ∧ illFormed (.pft 0 1 4 1) = some .badKind ∧
    illFormed (.drain 0 5) = some .badPath ∧ illFormed (.kvmap 0 3 1) = some .badPair := by decide
theorem test_illFormed_engines :
    illFormed (.mcfg 0 4 1 2) = some .badTile ∧ illFormed (.mrd 0 0 1 8 0) = some .badOutput ∧
    illFormed (.msmx 0 1 1) = some .badTile ∧ illFormed (.vcfg 0 0 0 7) = some .badType ∧
    illFormed (.vcmpeq 0 4 1 2 0) = some .badMaskDest ∧ illFormed (.vpack 0 2 4 0x10) = some .badFormat ∧
    illFormed (.vcvt 0 1 2 7 0) = some .badType ∧ illFormed (.vld 0 1 2 3 1 0) = some .badGroup := by decide
/-- What no term can say is refused by the decoder (R20 to R38). -/
theorem test_words_refused :
    decode 0x09C00000 = .error .reservedMajor ∧ decode 0x06C01004 = .error .nonzeroField ∧
    decode 0x00B08860 = .error .badGroup ∧ decode 0x003FF000 = .error .reservedFunction := by decide

/-! ### Words written out bit by bit in the spec's worked encodings -/

theorem test_decode_alu :
    decode 0x00861100 = .ok (.add 0 3 1 2 0 0) ∧ decode 0x808BD001 = .ok (.sub 8 5 29 0 0 0) ∧
    decode 0x00A08640 = .ok (.add 0 16 8 12 2 0) ∧ decode 0x110C6001 = .ok (.addi 1 6 6 1) ∧
    decode 0x00D27404 = .ok (.div 0 9 7 8 0) ∧ decode 0x028C5803 = .ok (.srai 0 6 5 3) ∧
    decode 0x030B6789 = .ok (.lsi 0 5 0x16789) := by decide
theorem test_decode_control :
    decode 0x038941FD = .ok (.bne 0 5 0 (-3)) ∧ decode 0x0441A000 = .ok (.jr 0 26 0) ∧
    decode 0x04805002 = .ok (.loop 0 5 2) ∧ decode 0x04CA0004 = .ok (.csrr 0 5 4) ∧
    decode 0x00102205 = .ok (.tlbi 2 5) ∧ decode 0x00103003 = .ok (.ipi 3) := by decide
theorem test_decode_memory :
    decode 0x0516A003 = .ok (.ld 0 11 10 0 3) ∧ decode 0x058E8003 = .ok (.st 0 7 8 0 3) ∧
    decode 0x05D68083 = .ok (.spld 0 11 8 0x20 3) ∧ decode 0x0680A610 = .ok (.aadd 0 5 6 4 0) ∧
    decode 0x06C42000 = .ok (.fenceRel 0 2) ∧ decode 0x06D04000 = .ok (.fenceBw 0 4) ∧
    decode 0x06D41000 = .ok (.fenceBr 0 1) ∧ decode 0x080A6380 = .ok (.scpw 0 5 6 7) := by decide
theorem test_decode_sync :
    decode 0x00408530 = .ok (.sinc 0 4 5 6) ∧ decode 0x00448002 = .ok (.sacq 0 4 2) ∧
    decode 0x071C9807 = .ok (.rsteal 0 1 6 7) ∧ decode 0x076F6C00 = .ok (.wminit 0 23 22 24) ∧
    decode 0x07C1C000 = .ok (.waitseq 0 28) ∧ decode 0x07C00042 = .ok (.drain 0 4) ∧
    decode 0x07C00026 = .ok (.cbar 0 2) ∧ decode 0x07C05003 = .ok (.spawn 0 5) ∧
    decode 0x07CC5004 = .ok (.joinw 0 6 5) ∧ decode 0x07C05005 = .ok (.gsync 0 5) := by decide
theorem test_decode_copies :
    decode 0x07A95414 = .ok (.tld 0 20 21 8 1) ∧ decode 0x07A95434 = .ok (.tldm 0 20 21 8 1) ∧
    decode 0x08400401 = .ok (.bgemv 0 8) ∧ decode 0x08805300 = .ok (.csnd 0 5 6) ∧
    decode 0x08925001 = .ok (.crcv 0 9 5) := by decide
theorem test_decode_package :
    decode 0x08CA6380 = .ok (.platr 0 5 6 7) ∧ decode 0x08CA6381 = .ok (.platw 0 5 6 7) ∧
    decode 0x08C06382 = .ok (.replat 0 6 7) ∧ decode 0x08C06383 = .ok (.bndcfg 0 6 7) ∧
    decode 0x08C06384 = .ok (.bndx 0 6 7) ∧ decode 0x08C06405 = .ok (.gmc 0 6 8) := by decide
theorem test_decode_requests :
    decode 0x09018000 = .ok (.seatmap 0 24) ∧ decode 0x090A6381 = .ok (.trld 0 5 6 7) ∧
    decode 0x09006382 = .ok (.trset 0 6 7) ∧ decode 0x09006003 = .ok (.stepend 0 6) ∧
    decode 0x09109004 = .ok (.kvmap 0 8 9) ∧ decode 0x09000405 = .ok (.kvapp 0 8) ∧
    decode 0x09006386 = .ok (.digest 0 6 7) := by decide
theorem test_decode_matrix :
    decode 0x09409000 = .ok (.mcfg 0 0 9 0) ∧ decode 0x09406383 = .ok (.mma 0 0 6 7 0 0) ∧
    decode 0x0940A008 = .ok (.mrd 0 0 10 0 0) ∧ decode 0x09440416 = .ok (.matt 0 2 8 1) ∧
    decode 0x4940A624 = .ok (.mmaz 4 0 10 12 1 0) := by decide
theorem test_decode_vector :
    decode 0x0C000006 = .ok (.vcfg 0 0 0 6) ∧ decode 0x0A824282 = .ok (.vcmplt 0 1 4 5 0) ∧
    decode 0x0A4C520F = .ok (.vsel 0 6 5 4 1) ∧ decode 0x0A0BCE02 = .ok (.vmul 0 5 28 28 0) := by decide
/-- The encoder writes the word that the spec assembles. -/
theorem test_encode :
    encode (.add 0 3 1 2 0 0) = some 0x00861100 ∧ encode (.ld 0 11 10 0 3) = some 0x0516A003 ∧
    encode (.vsel 0 6 5 4 1) = some 0x0A4C520F ∧ encode .caravanStart = none := by decide

/-! ### Small states -/

/-- A running gang of one core: core 0 of die 0, whose stream k issues next (4: Steward 0). -/
def live (k : Nat) : State :=
  if k = 4 then { modStream State.reset 2048 (fun st => { st with phase := .running }) with cur := 2048 }
  else
    let s := putGang State.reset 0 probeGang
    let s := modCore s 0 fun c => { c with gang := some 0, ringBase := #v[0, 4096, 8192, 12288], ringLog := #v[10, 10, 10, 10] }
    { forN 4 (fun i s => modStream s i fun st => { st with phase := .running }) s with cur := k }
/-- A register of the stream that issues holds a value. -/
def setX (s : State) (r : Nat) (v : Word) : State := modStream s s.cur fun st => { st with x := vset st.x r v }
def setV (s : State) (r : Nat) (v : VWord) : State := modStream s s.cur fun st => { st with v := vset st.v r v }
/-- Page 0 of context 0 is mapped for reading and writing, and die 0 serves its memory. -/
def mapped (k : Nat) : State :=
  setAreg (modCore (live k) 0 fun c => { c with tlb := [{ ctx := 0, vpn := 0, leaf := 0x61 }] }) (dstatePa 0) 2
/-- Page 0 of context 0 of die 0 has the leaf; the die serves, in a fabric of two packages with a way to the other. -/
def paged (leaf : Nat) : State :=
  let t := [(0x40000, 0x44001), (0x44000, 0x48001), (0x48000, 0x4C001), (0x4C000, leaf)].foldl
    (fun m (e : Nat × Nat) => mwrite m e.1 (leBytes 8 e.2)) []
  let s := setAreg (setAreg (setAreg State.reset (ioBlock 0 + 0x04000100) 0x0100) (dieBlock 0 + 0x02001000) 0x40001) (dstatePa 0) 2
  { setLink s (trunkDie 0) (2 * trunkDim 0 + 1) 2 with mem := t }
/-- That page lies in the other package, and n join updates are on their way there. -/
def farPage (n : Nat) : State :=
  let m : Remote := { id := 9, src := 0, dst := 8, track := 0, tries := 0, pa := 0, bytes := [], owner := .join 0 0 0 0 }
  { paged 0x1010000000061 with remotes := List.replicate n m }
/-- The state that an instruction leaves. -/
def ran (i : Instr) (s : State) : State := outNext (exec i s) State.reset
/-- The register of the issuing stream once what is in flight has landed. -/
def gives (i : Instr) (s : State) (r : Nat) : Word := readX (landAll (streamAt (ran i s) s.cur)) r
def sent (s : State) (o : ReqOp) (pa : Nat) : Req :=
  { mkReq s s.cur o with id := 7, pa := pa, va := BitVec.ofNat 64 pa, leaf := 0x61 }
def withReq (s : State) (r : Req) : State := { s with requests := [r] }
def codes (s : State) (d : Nat) : List (BitVec 8) := (dieAt s d).unposted.map fun e => e.code

/-! ### One step of an instruction -/

theorem test_add_wraps : gives (.add 0 3 1 2 0 0) (setX (setX (live 0) 1 (-1)) 2 1) 3 = 0 := by decide +kernel
/-- The carry goes into the next register of the group (R74). -/
theorem test_add_wide : gives (.add 0 4 2 6 1 0) (setX (setX (live 0) 2 (-1)) 6 1) 5 = 1 := by decide +kernel
theorem test_x0_discards : gives (.addi 0 0 0 5) (live 0) 0 = 0 := by decide +kernel
theorem test_div_zero : gives (.div 0 3 1 2 0) (setX (live 0) 1 7) 3 = -1 := by decide +kernel
theorem test_rem_corner : gives (.rem 0 3 1 2 0) (setX (setX (live 0) 1 0x8000000000000000) 2 (-1)) 3 = 0 := by decide +kernel
theorem test_mulh : gives (.mulh 0 3 1 2 0) (setX (setX (live 0) 1 (-1)) 2 5) 3 = -1 := by decide +kernel
theorem test_lsi : gives (.lsi 0 5 0x16789) (setX (live 0) 5 1) 5 = 0x36789 := by decide +kernel
/-- A branch back over three words from index 5 goes to 2; it wraps at 0 (R42, R82). -/
theorem test_branch : (streamAt (ran (.bne 0 5 0 (-3)) (setX (live 0) 5 1)) 0).pc = 1021 := by decide +kernel
theorem test_jr_bounds : codes (ran (.jr 0 26 0) (setX (live 0) 26 1024)) 0 = [0x05] := by decide +kernel
/-- A loop of count 0 goes on after its last word (R84). -/
theorem test_loop_zero : (streamAt (ran (.loop 0 5 2) (live 0)) 0).pc = 3 := by decide +kernel
/-- A word of another stream's group is a Stream Legality fault (R37). -/
theorem test_legality : codes (ran (.vbcast 0 1 2) (live 0)) 0 = [0x02] := by decide +kernel
theorem test_stale_latch : codes (ran (.add 0 3 28 2 0 0) (live 0)) 0 = [0x03] := by decide +kernel
theorem test_csrw_vtype : codes (ran (.csrw 0 5 2) (setX (live 2) 5 7)) 0 = [0x01] := by decide +kernel
/-- The entry of a Steward exception (R402), and the return from it (R403). -/
theorem test_steward_trap :
    let t := ran (.trap 0 5) (live 4)
    (stewardAt t 0).scause = 0x50 ∧ (stewardAt t 0).sepc = 1 ∧ bitAt (stewardAt t 0).sstatus 0 = true ∧ (streamAt t 2048).pc = 0 := by
  decide +kernel
theorem test_eret :
    (streamAt (ran .eret (modSteward (live 4) 0 fun w => { w with sstatus := 1, sepc := 9 })) 2048).pc = 9 := by decide +kernel
theorem test_spst :
    mread (coreAt (ran (.spst 0 1 2 1 1) (setX (setX (live 3) 1 0x1234) 2 0x80FFFE)) 0).scratch 0x10000 2 = [0x34, 0x12] := by decide +kernel
theorem test_spld_signed :
    gives (.spld 0 1 2 0 0) (setX (modCore (live 0) 0 fun c => { c with scratch := [(0x10100, 0x80)] }) 2 0x810100) 1 = -128 := by
  decide +kernel
theorem test_spld_misaligned : codes (ran (.spld 0 1 2 0 1) (setX (live 0) 2 0x810101)) 0 = [0x24] := by decide +kernel
theorem test_sinc : (semAt (ran (.sinc 0 4 5 0) (setX (live 0) 5 3)) 0 4).count = 3 := by decide +kernel
theorem test_sinc_overflow :
    codes (ran (.sinc 0 4 5 0) (setX (putSem (live 0) 0 4 { count := 0xFFFFFFFF, tag := .core, settle := [] }) 5 1)) 0 = [0x12] := by
  decide +kernel
theorem test_sacq :
    (semAt (ran (.sacq 0 4 2) (putSem (live 0) 0 4 { count := 5, tag := .core, settle := [] })) 0 4).count = 3 := by decide +kernel
/-- A failed claim of a deque answers −1 and leaves the ring (R101). -/
theorem test_rpopo_empty :
    gives (.rpopo 0 1 6) (putRing (live 0) 0 1 { RingState.zero with cfg := 0x42610000 }) 6 = -1 := by decide +kernel
theorem test_wminit_arrive :
    let s := ran (.wminit 0 5 6 7) (setX (setX (setX (live 0) 5 2) 6 0x810040) 7 0)
    let w := wayAt (ran (.wmarrive 0 6) s) 0 0x10040
    w.apend = 1 ∧ w.aexp = 2 ∧ w.phase = 0 := by decide +kernel
/-- The last decrement of a phase starts the next one (R104). -/
theorem test_way_phase :
    wayDec { sexp := 4, aexp := 2, spend := 1, apend := 0, ovr := false, err := false, phase := 15 } true =
      { sexp := 4, aexp := 2, spend := 4, apend := 2, ovr := false, err := false, phase := 0 } := by decide +kernel
/-- VADD at INT8 with saturation: 100 + 100 is 127 (R155). -/
theorem test_vadd_saturates :
    let s := modStream (setV (setV (live 2) 1 100) 2 100) 2 fun st => { st with vtype := 0x40 }
    (readV (landAll (streamAt (ran (.vadd 0 3 1 2 0) s) 2)) 3).toNat % 256 = 127 := by decide +kernel
/-- R268's worked line: eight bytes of an FP4 group in plane form. -/
theorem test_plane_form :
    planeBytes true 0x06 [0x10, 0x32, 0x54, 0x76, 0x98, 0xBA, 0xDC, 0xFE] = [0x50, 0xFA, 0x50, 0xFA, 0x00, 0xFF, 0xAA, 0xAA] := by
  decide +kernel
/-- R465's worked example: both masters read in one cycle; master 0 holds, and master 1 reads 0x100. -/
theorem test_csem :
    let s := ran (.csemRead 0 2) State.reset
    csemOwner s 2 = some 0 ∧ csemValue s 2 = 0x100 ∧ csemOwner (ran (.csemRead 1 2) s) 2 = some 0 ∧
    csemOwner (ran (.hostLinkReset 0) s) 2 = none := by decide +kernel
/-- A store is sent, and its byte is at the home once it was performed (R303). -/
theorem test_store_performs :
    let s := ran (.st 0 7 8 0 0) (setX (setX (mapped 3) 7 0xAB) 8 0x40)
    s.requests.length = 1 ∧ mget s.mem 0x40 = 0 ∧
    mget (ran (.storePerform ((s.requests.map fun r => r.id).headD 0)) s).mem 0x40 = 0xAB := by decide +kernel
theorem test_store_unmapped : codes (ran (.st 0 7 8 0 0) (setX (live 3) 8 0x40)) 0 = [0x20] := by decide +kernel
theorem test_fence_retires : (streamAt (ran (.fenceRel 0 2) (live 0)) 0).slot = 1 := by decide +kernel
theorem test_die_join :
    dieState (ran (.dieJoinComplete 3) (ran (.dieJoin 3) State.reset)) 3 = 2 := by decide +kernel
theorem test_doorbell : bitAt (stewardAt (ran (.dbell 1 9) State.reset) 31).sevent 1 = true := by decide +kernel
theorem test_carve_ignored : fld (areg (ran (.carveWrite 0 3 13) State.reset) (errstatPa 0)) 63 32 = 1 := by decide +kernel

/-! ### For every statement with hypotheses, a state and operands that meet them -/

theorem okPair {ε α σ : Type} {p : Except ε α × σ} (h : p.1.isOk = true) : ∃ x s, p = (.ok x, s) := by
  obtain ⟨e, s⟩ := p
  cases e with
  | error e => cases h
  | ok x => exact ⟨x, s, rfl⟩
theorem fstIs {α β : Type} {p : α × β} {a : α} (h : p.1 = a) : ∃ b, p = (a, b) := ⟨p.2, by rw [← h]⟩
theorem pairIs {α β : Type} {p : α × β} {a : α} (h : p.1 = a) : p = (a, p.2) := by rw [← h]
theorem okWith {ε α σ : Type} {p : Except ε α × σ} {P : α → σ → Prop} [∀ x s, Decidable (P x s)]
    (h : (match p with
      | (.ok x, s) => decide (P x s)
      | _ => false) = true) : ∃ x s, p = (.ok x, s) ∧ P x s := by
  obtain ⟨e, s⟩ := p
  cases e with
  | error e => cases h
  | ok x => exact ⟨x, s, rfl, of_decide_eq_true h⟩
theorem errPair {ε α σ : Type} {p : Except ε α × σ} (h : p.1.isOk = false) : ∃ x s, p = (.error x, s) := by
  obtain ⟨e, s⟩ := p
  cases e with
  | error e => exact ⟨e, s, rfl⟩
  | ok x => cases h

theorem okIs {ε α : Type} {p : Except ε α} (h : p.isOk = true) : ∃ x, p = .ok x := by cases p with
  | error e => cases h
  | ok x => exact ⟨x, rfl⟩
theorem errIs {ε α : Type} {p : Except ε α} (h : p.isOk = false) : ∃ e, p = .error e := by cases p with
  | error e => exact ⟨e, rfl⟩
  | ok x => cases h

theorem witness_AluResult :
    mayIssue (live 0) 0 allStreams [.x 1, .x 2] [.x 3] = true ∧ mayIssue (live 4) 0 allStreams [.x 27, .x 0] [] = true ∧
    mayIssue (live 1) 0 allStreams [.xs 0 8, .xs 8 8] (groupLocs 16 8) = true ∧
    mayIssue (live 3) 0 allStreams [.xs 2 1, .xs 27 1] [] = true := by decide +kernel
theorem witness_OneSourceResult :
    mayIssue (live 0) 0 allStreams [.x 27] [.x 27] = true ∧ mayIssue (live 4) 0 allStreams [.x 0] [] = true ∧
    (let w : IWord := 0x02800C00
     w.extractLsb' 22 6 = 0x0A ∧ w.extractLsb' 10 2 = 3) ∧
    (let w : IWord := 0x02800040
     w.extractLsb' 22 6 = 0x0A ∧ w.extractLsb' 6 4 ≠ 0) := by decide +kernel
theorem witness_ThreeSourceAndUpperResult :
    mayIssue (live 0) 0 allStreams [.x 3, .x 1, .x 2] [.x 3] = true ∧ mayIssue (live 2) 0 allStreams [.x 5] [.x 5] = true ∧
    mayIssue (live 4) 0 allStreams [] [.x 27] = true ∧ mayIssue (live 4) 0 allStreams [] [] = true := by decide +kernel
/-- JR at both ends of a ring of 1,024 words, and on either side of it. -/
theorem witness_BranchJumpResult :
    let s (v : Word) := setX (live 0) 26 v
    let tgt (v : Word) : Int := (operand (s v) 26).toInt + (0 : BitVec 12).toInt
    mayIssue (s 1023) 0 allStreams [.x 26, .x 0] [] = true ∧ mayIssue (live 0) 0 allStreams [] [.x 26] = true ∧
    (0 ≤ tgt 0 ∧ tgt 0 < ringSize (s 0) 0) ∧ (0 ≤ tgt 1023 ∧ tgt 1023 < ringSize (s 1023) 0) ∧
    ¬(0 ≤ tgt 1024 ∧ tgt 1024 < ringSize (s 1024) 0) ∧ ¬(0 ≤ tgt (-1) ∧ tgt (-1) < ringSize (s (-1)) 0) ∧
    (let w : IWord := 0x04420000
     w.extractLsb' 22 6 = 0x11 ∧ w.extractLsb' 17 5 ≠ 0) ∧
    (let w : IWord := 0x04820000
     w.extractLsb' 22 6 = 0x12 ∧ w.extractLsb' 17 5 ≠ 0) ∧
    (0 : BitVec 12).toInt ≤ 0 ∧ (0xFFF : BitVec 12).toInt ≤ 0 := by decide +kernel
/-- A stream at the end of its loop on its last and on an earlier round, and one that is not at the end. -/
theorem witness_IssueAdvances :
    let st (n : Nat) := streamAt (modStream (live 0) 0 fun st => { st with loop := mkLoop false n 0 0 }) 0
    loopCount false (st 1).loop = 1 ∧ loopEnd false (st 1).loop = (st 1).pc.toNat ∧ loopCount false (st 2).loop = 2 ∧
    loopEnd false (st 2).loop = (st 2).pc.toNat ∧ loopCount false (st 0).loop = 0 := by decide +kernel

/-- An outstanding write of the issuing stream. -/
def waiting (s : State) : State := (addOutst s s.cur [.x 9]).2
theorem witness_SysResult :
    let parked := modGang (live 0) 0 fun g => { g with preempt := true }
    mayIssue (live 4) 0 allStreams [] [] = true ∧ mayIssue (live 0) 0 computeStreams [] [] = true ∧
    mayIssue parked 0 computeStreams [] [] = true ∧
    (gangOfCore (live 0) 0).any (fun g => g.preempt) = false ∧ (gangOfCore parked 0).any (fun g => g.preempt) = true ∧
    mayIssue (waiting (live 0)) 0 allStreams [] [] = true ∧ (me (live 0)).outst.length ≤ 0 ∧
    0 < (me (waiting (live 0))).outst.length ∧ (me (waiting (live 0))).outst.length ≤ 1 := by decide +kernel
theorem witness_TrapTakesFault :
    mayIssue (live 0) 0 allStreams [] [] = true ∧ isSW (live 0).cur = false ∧ canRaise (popped (live 0) 0) 0 = true ∧
    mayIssue (live 4) 0 allStreams [] [] = true ∧ isSW (live 4).cur = true := by decide +kernel
theorem witness_CsrResult :
    mayIssue (live 0) 0 allStreams [] [.x 5] = true ∧ csrAssigned 0 = true ∧ mayIssue (live 4) 0 [4] [] [.x 5] = true ∧
    csrSwAssigned 0x400 = true ∧ csrSwWritable 0x403 = true ∧ csrWritable 2 = true ∧ csrWritable 0xA = true ∧
    mayIssue (live 2) 0 allStreams [.x 5] [] = true ∧ mayIssue (live 4) 0 [4] [.x 5] [] = true ∧
    vtypeOk (operand (setX (live 2) 5 6) 5) = true ∧ vtypeOk (operand (setX (live 2) 5 7) 5) = false ∧
    canIssue (live 0) 0 = true ∧ (csrAssigned 3 = false ∧ csrWritable 1 = false ∧ csrAssigned 0x40A = false) ∧
    canIssue (live 4) 2048 = true ∧ csrSwAssigned 2 = false ∧ csrSwWritable 0 = false ∧ csrSwWritable 0x408 = false := by
  decide +kernel
theorem witness_StewardForms :
    let set (f : Steward → Steward) : State := modSteward (live 4) 0 f
    let w (f : Steward → Steward) := stewardAt (set f) ((set f).cur - 2048)
    mayIssue (live 4) 0 [4] [] [] = true ∧ mayIssue (live 4) 0 [4] [.x 5] [] = true ∧
    mayIssue (set fun w => { w with sstatus := 1 }) 0 [4] [] [] = true ∧
    bitAt (w fun w => { w with sstatus := 1 }).sstatus 0 = true ∧ bitAt (w id).sstatus 0 = false ∧
    (let v := w fun w => { w with sevent := 8, sevmask := 12 }
     v.sevent &&& v.sevmask ≠ 0) ∧ (w id).sevent &&& (w id).sevmask = 0 ∧
    quiet (landed (live 4)) (live 4).cur (fixedScope (landed (live 4)) 0 7) = true ∧
    (let e : TlbEntry := { ctx := 0, vpn := 0, leaf := 0x61 }
     let r : Replica := { slice := 0, pa := 0, via := { e with ctx := 1 }, data := [] }
     let s := { modDie (live 4) 0 fun x => { x with replicas := [r] } with seen := [e] }
     inFrame s e.leaf r.pa = true ∧ tlbCovers e 0 0 = true ∧ (dieAt (tlbiPage s 0 0) 0).replicas = []) := by decide +kernel
theorem witness_StewardExceptionEntry :
    bitAt (stewardAt (live 4) 0).sstatus 0 = false ∧
    bitAt (stewardAt (modSteward (live 4) 0 fun w => { w with sstatus := 1 }) 0).sstatus 0 = true := by decide +kernel

/-- An own address at the last byte, one past the scratchpad, an odd one, and one of a peer that is not in the gang. -/
theorem witness_ScratchLoadResult :
    let s (v : Word) := setX (live 0) 8 v
    mayIssue (s 0x9FFFFF) 0 [0, 2, 3, 4] [.x 8] [.x 11] = true ∧
    spCheck (popped (s 0x9FFFFF) 0) 0 0x9FFFFF 1 1 false = none ∧
    syncCheck (popped (s 0x9FFFFF) 0) 0 [⟨0, spOff 0x9FFFFF, 1⟩] [] = .ok ∧ (spTarget 0 0x9FFFFF).2 = false ∧
    (spCheck (popped (s 0x9FFFFF) 0) 0 0x9FFFFF 2 2 false).isSome = true ∧
    spCheck (popped (s 0x200000) 0) 0 0x200000 8 8 false = none ∧ (spTarget 0 0x200000).2 = true ∧
    syncCheck (popped (s 0x200000) 0) 0 [⟨1, 0, 8⟩] [] = .ok ∧ (me (s 0x200000)).outst.length < 32 ∧
    mayIssue (live 4) 0 [0, 2, 3, 4] [.x 8] [.x 11] = true ∧ swSpCheck 0x800000 8 false = none := by decide +kernel
theorem witness_ScratchStoreResult :
    mayIssue (live 3) 0 [2, 3, 4] [.x 7, .x 8] [] = true ∧ spCheck (popped (live 3) 0) 0 0x9FFFF8 8 8 true = none ∧
    syncCheck (popped (live 3) 0) 3 [] [⟨0, spOff 0x9FFFF8, 8⟩] = .ok ∧ (spTarget 0 0x9FFFF8).2 = false ∧
    (spCheck (popped (live 3) 0) 0 0x9FFFFC 8 8 true).isSome = true ∧
    spCheck (popped (live 3) 0) 0 0x604000 8 8 true = none ∧ (spTarget 0 0x604000).2 = true ∧
    syncCheck (popped (live 3) 0) 3 [] [⟨3, 0x4000, 8⟩] = .ok ∧
    mayIssue (live 4) 0 [2, 3, 4] [.x 7, .x 8] [] = true ∧ swSpCheck 0x900000 8 true = none := by decide +kernel

/-- Page 0 is a CHK page, and another agent writes its first line. -/
def claimed (s : State) : State :=
  { modCore s 0 fun c => { c with tlb := [{ ctx := 0, vpn := 0, leaf := 0x861 }] } with
    claims := [(0, { writer := some 9, readers := [], sole := 9 })] }
/-- Above VA space, misaligned, unmapped, mapped without a line in the L1 and with one, and a claim that another agent's bars. -/
theorem witness_GlobalLoadResult :
    let x (pa : Nat) : Xlat := { pa := pa, via := { ctx := 0, vpn := 0, leaf := 0x61 } }
    let s := mapped 0
    (mayIssue s 0 [0, 4] [.x 10] [.x 11] true = true ∧ vaOk 0xFFFFFFFFFFFFFF = true ∧ vaOk 0x100000000000000 = false ∧
      vaOk 0x41 = true ∧ (0x41 : Word).toNat % 2 ≠ 0 ∧ l1Hit (popped s 0) 0 0x40 0 = none ∧ loadBefore (popped s 0) 0 0x40 = false ∧
      loadBefore (withReq s (sent s (.load true 8) 0x48)) 0 0x40 = true ∧ unreached s 0 (x 0x40) = false ∧
      unreached (live 4) 2048 (x 0x40) = true ∧ unreached (setLink (live 4) 0 6 2) 2048 (x 0x40) = false ∧
      l1Keeps s (x 0x40) = true ∧ isSW s.cur = false ∧
      (l1Hit (modCore s 0 fun c => { c with l1 := [⟨0, (x 0).via, leBytes 128 7⟩] }) 0 0x40 0).isSome = true) ∧
    (∀ wr, Refused (claimed s) 0 { x 0x40 with via := { ctx := 0, vpn := 0, leaf := 0x861 } } wr 0x28) ∧
    (∃ x u, access (popped (claimed s) 0) (tlbId 0) (xctx s 0) 0x40 .rd = (.ok x, u) ∧ Refused u 0 x false 0x28) ∧
    (∃ e u, access (popped (live 0) 0) (tlbId 0) (xctx (live 0) 0) 0x40 .rd = (.error e, u)) ∧
    (∃ x u, access (popped s 0) (tlbId 0) (xctx s 0) 0x40 .rd = (.ok x, u)) :=
  ⟨by decide +kernel, by intro wr; unfold Refused; revert wr; decide +kernel,
    by unfold Refused; exact okWith (by decide +kernel), errPair (by decide +kernel), okPair (by decide +kernel)⟩
theorem witness_GlobalStoreResult :
    (mayIssue (mapped 3) 0 [3, 4] [.x 7, .x 8] [] = true ∧ trackRoom (popped (mapped 3) 0) 3 0x40 = true) ∧
    (∃ e u, access (popped (live 3) 0) (tlbId 3) (xctx (live 3) 3) 0x40 .wr = (.error e, u)) ∧
    (∃ x u, access (popped (mapped 3) 0) (tlbId 3) (xctx (mapped 3) 3) 0x40 .wr = (.ok x, u)) ∧
    ∃ x u, access (popped (claimed (mapped 3)) 0) (tlbId 3) (xctx (mapped 3) 3) 0x40 .wr = (.ok x, u) ∧ Refused u 3 x true 0x28 :=
  ⟨by decide +kernel, errPair (by decide +kernel), okPair (by decide +kernel), by unfold Refused; exact okWith (by decide +kernel)⟩
/-- Both sizes of an atomic at the last word that a page holds of them. -/
theorem witness_AtomicDatumIssue :
    let s := mapped 0
    let t := (captureScope (popped s 0) 0 4).2
    (mayIssue s 0 memStreams [.x 5, .xs 6 2] (groupLocs 6 2) true = true ∧ mayIssue s 0 memStreams [.x 5, .x 6] [] = true ∧
      mayIssue s 0 memStreams [.x 5, .x 6] [.x 6] true = true ∧ paFault s 0x3FF8 = none ∧ placeOf 0x3FF8 = .hbm 0 62 ∧
      trackRoom s 0 0x3FF8 = true ∧ fld (0x0FFFFFFFF : Word) 33 32 = 0 ∧ fld (0x2FFFFFFFF : Word) 33 32 = 2 ∧
      fld (0x3FFFFFFFF : Word) 33 32 = 3 ∧ fld (0x400000000 : Word) 63 34 ≠ 0 ∧ noRoom s (.dacc 0 5 6 4) 0x3FF8 = false) ∧
    (∃ sc t, captureScope (popped s 0) 0 4 = (.ok sc, t)) ∧
    (∃ x u, translate t (tlbId 0) (xctx t 0) 0x3FF8 .wr = (.ok x, u)) ∧ (∃ x u, translate t (tlbId 0) (xctx t 0) 0x3FFC .wr = (.ok x, u)) :=
  ⟨by decide +kernel, okPair (by decide +kernel), okPair (by decide +kernel), okPair (by decide +kernel)⟩
/-- A slice whose datum table is full, and whose die has no spill area (R315). -/
theorem witness_AtomicDatumIssue_full :
    noRoom (modDie (live 4) 0 fun x => { x with datum := List.replicate 4096 (0x3FF0, datumOpen (.fin false 0 0) false) })
      (.dacc 0 5 6 4) 0x3FF8 = true := by decide +kernel
/-- A fence with nothing to wait for, one with a store to wait for, and one of an entry that is not valid. -/
theorem witness_FenceResult :
    let s := live 0
    let w := withReq s { sent s (.store 8 1) 0x40 with arrived := false }
    (mayIssue s 0 memStreams [] [] = true ∧ mayIssue w 0 memStreams [] [] = true ∧
      fenceDone s 0 (fenceReqs s 0 1 (fixedScope s 0 2)) (fenceCmds s 0 1) = true ∧
      fenceDone w 0 (fenceReqs w 0 1 (fixedScope w 0 2)) (fenceCmds w 0 1) = false) ∧
    (∃ sc t, captureScope (popped s 0) 0 2 = (.ok sc, t)) ∧ (∃ c t, captureScope (popped s 0) 0 8 = (.error c, t)) :=
  ⟨by decide +kernel, okPair (by decide +kernel), errPair (by decide +kernel)⟩
/-- Indexes at the ends of their ranges, and an image at the last place that holds one. -/
theorem witness_ScopeTableResult :
    let s := live 0
    mayIssue s 0 memStreams [.x 6, .x 7] [.x 5] = true ∧ mayIssue s 0 memStreams [.x 6] [] = true ∧
    ownCheck (popped s 0) 0 0x9FFF60 160 32 false = none ∧ ownCheck (popped s 0) 0 0x9FFF60 160 32 true = none ∧
    syncCheck (popped s 0) 0 [⟨0, spOff 0x9FFF60, 160⟩] [] = .ok ∧ syncCheck (popped s 0) 0 [] [⟨0, spOff 0x9FFF60, 160⟩] = .ok ∧
    scopeImageOk (ownRead (popped s 0) 0 (spOff 0x9FFF60) 160) = true ∧ isSW s.cur = false := by decide +kernel

theorem witness_SemaphoreOwnResult :
    let s := live 0
    let full := putSem s 0 4 { count := 0xFFFFFFFF, tag := .core, settle := [] }
    mayIssue s 0 computeStreams [.x 5, .x 0] [] = true ∧ mayIssue s 0 computeStreams [.x 5] [] = true ∧
    mayIssue s 0 computeStreams [.x 0] [.x 5] = true ∧ mayIssue s 0 computeStreams [.x 5, .x 0] [.x 5] = true ∧
    mayIssue s 0 computeStreams [.xs 26 2, .x 0] (groupLocs 26 2) = true ∧ releasing s 0 1 ∧
    mayIssue (setX full 5 0) 0 computeStreams [.x 5, .x 0] [] = true ∧
    (semAt (popped full 0) 0 4).count.toNat + 0 < 2 ^ 32 ∧ 2 ^ 32 ≤ (semAt (popped full 0) 0 4).count.toNat + 1 := by
  unfold releasing; decide +kernel
theorem witness_PeerFormsIssue :
    let s := live 0
    mayIssue s 0 computeStreams [.x 5, .x 6] [] = true ∧ (operand (setX s 6 3) 6).toNat ≤ 3 ∧ 3 < (operand (setX s 6 4) 6).toNat ∧
    releasing s 0 2 ∧ (me s).outst.length < 32 ∧ mayIssue s 0 computeStreams [.x 6] [.x 5] = true ∧
    mayIssue s 0 computeStreams [.x 5, .x 6] [.x 5] = true ∧ mayIssue s 0 computeStreams [.xs 26 2, .x 6] (groupLocs 26 2) = true ∧
    mayIssue s 0 computeStreams [.x 6] (groupLocs 26 2) = true ∧ syncCheck (popped s 0) 0 (stealRange (popped s 0) 1 3) [] = .ok := by
  unfold releasing; decide +kernel
/-- A count of exactly n, and one below it; n = 0 always passes. -/
theorem witness_SemaphoreWaitResult :
    let s := putSem (live 0) 0 4 { count := 5, tag := .core, settle := [] }
    mayIssue s 0 computeStreams [] [] = true ∧ 5 ≤ (semAt (waited s 0) 0 4).count.toNat ∧
    (semAt (waited s 0) 0 4).count.toNat < 6 ∧ 0 ≤ (semAt (waited (live 0) 0) 0 4).count.toNat := by decide +kernel

/-- A ring of four slots of 64 bytes at 0x10000, in mode m, with counts of claimed and filled slots. -/
def ringIn (m claimed filled : Nat) : State :=
  putRing (live 0) 0 1
    { RingState.zero with
      cfg := BitVec.ofNat 64 (0x10000 + 6 * 2 ^ 21 + 2 * 2 ^ 25 + m * 2 ^ 29), claimed := claimed, filled := filled, tail := claimed + filled }
theorem witness_RingResult :
    mayIssue (live 0) 0 computeStreams [.x 5] [] = true ∧ mayIssue (live 0) 0 computeStreams [] [.x 5] = true ∧
    ringCfgOk (ringAt (ringIn 1 0 0) 0 1).cfg = true ∧ ringCfgOk 0x60000000 = false ∧
    (ringMode (ringAt (popped (ringIn 1 1 0) 0) 0 1) = 1 ∧ ringClaimed (ringAt (popped (ringIn 1 1 0) 0) 0 1) 0 = true) ∧
    ringClaimed (ringAt (popped (ringIn 1 0 1) 0) 0 1) 0 = false ∧ ringMode (ringAt (popped (live 0) 0) 0 1) = 0 ∧
    releasing (ringIn 1 1 0) 0 1 ∧ releasing (ringIn 2 1 0) 0 2 ∧ (ringAt (popped (ringIn 1 0 1) 0) 0 1).filled ≠ 0 ∧
    (let y := ringAt (waited (ringIn 1 3 0) 0) 0 1
     y.claimed + y.filled < 2 ^ fld y.cfg 28 25) ∧
    (let y := ringAt (waited (ringIn 1 3 1) 0) 0 1
     2 ^ fld y.cfg 28 25 ≤ y.claimed + y.filled) ∧
    ringMode (ringAt (waited (ringIn 2 1 0) 0) 0 1) = 2 ∧ (ringAt (waited (ringIn 1 0 0) 0) 0 1).filled = 0 ∧
    ringMode (ringAt (waited (ringIn 1 3 1) 0) 0 1) = 1 ∧
    (let y := ringAt (waited (ringIn 2 0 4) 0) 0 1
     ringMode y ≠ 0 ∧ y.claimed = 0 ∧ 2 ^ fld y.cfg 28 25 ≤ y.claimed + y.filled) := by
  unfold releasing; decide +kernel
theorem witness_DequeResult :
    mayIssue (ringIn 2 0 1) 0 computeStreams [] (groupLocs 26 2) = true ∧
    mayIssue (ringIn 2 0 1) 0 computeStreams [.x 0] (groupLocs 26 2) = true ∧
    mayIssue (ringIn 2 0 1) 0 computeStreams [.x 0] [.x 26] = true ∧
    ringMode (ringAt (popped (ringIn 2 0 1) 0) 0 1) = 2 ∧ (ringAt (popped (ringIn 2 0 1) 0) 0 1).filled ≠ 0 ∧
    syncCheck (popped (ringIn 2 0 1) 0) 0 [⟨0, 0x10000, 8⟩] [] = .ok ∧ (ringAt (popped (ringIn 2 0 0) 0) 0 1).filled = 0 ∧
    syncCheck (popped (ringIn 2 0 0) 0) 0 [] [] = .ok ∧ (ringAt (popped (ringIn 2 1 0) 0) 0 1).claimed ≠ 0 ∧
    ringMode (ringAt (popped (ringIn 1 0 1) 0) 0 1) ≠ 2 := by decide +kernel
/-- The last decrement, an earlier one, and one of a count that is 0. -/
theorem witness_WaymarkDecrement :
    let w : Way := { sexp := 4, aexp := 2, spend := 1, apend := 0, ovr := false, err := false, phase := 15 }
    w.spend ≠ 0 ∧ w.spend - 1 = 0 ∧ w.apend = 0 ∧ ({ w with spend := 2 } : Way).spend - 1 ≠ 0 := by decide
/-- Counts at their largest, and one above; a waymark whose expected counts fill a field. -/
theorem witness_WaymarkResult :
    let s := live 0
    let t := setX s 6 0x810040
    let full := putWay t 0 0x10040 { sexp := 0, aexp := 0, spend := 2 ^ 32 - 1, apend := 0, ovr := false, err := false, phase := 0 }
    mayIssue t 0 computeStreams [.x 5, .x 6, .x 7] [] = true ∧ mayIssue t 0 computeStreams [.x 6] [] = true ∧
    mayIssue t 0 computeStreams [.x 6, .x 7] [] = true ∧ mayIssue t 0 computeStreams [.x 6] [.x 5] = true ∧
    (operand (setX t 5 0xFFFFF) 5).toNat < 2 ^ 20 ∧ 2 ^ 20 ≤ (operand (setX t 5 0x100000) 5).toNat ∧
    (operand (setX t 7 0xFFFFFFFF) 7).toNat < 2 ^ 32 ∧ 2 ^ 32 ≤ (operand (setX t 7 0x100000000) 7).toNat ∧
    spCheck (popped t 0) 0 0x810040 16 16 true = none ∧ bitAt (operand t 6) 23 = true ∧
    waySync (popped t 0) [] [⟨0, spOff 0x810040, 16⟩] = .ok ∧ waySync (waited t 0) [⟨0, spOff 0x810040, 16⟩] [] = .ok ∧
    mayIssue s 0 computeStreams [.x 6] [.x 5] = true ∧ bitAt (operand s 6) 23 = false ∧
    syncCheck (popped t 0) 0 [] [⟨0, spOff 0x810040, 16⟩] = .ok ∧ releasing t 0 1 ∧ releasing t 0 2 ∧
    spCheck (popped (setX s 6 0x210040) 0) 0 0x210040 16 16 true = none ∧ bitAt (operand (setX s 6 0x210040) 6) 23 = false ∧
    fld (0x210040 : Word) 63 24 = 0 ∧ (wayAt (popped full 0) 0 0x10040).spend + 0 < 2 ^ 32 ∧
    2 ^ 32 ≤ (wayAt (popped full 0) 0 0x10040).spend + 1 ∧ (wayAt (waited t 0) 0 0x10040).phase = (operand (setX t 7 16) 7).toNat % 16 ∧
    (wayAt (waited t 0) 0 0x10040).phase ≠ (operand (setX t 7 1) 7).toNat % 16 := by
  unfold releasing; decide +kernel

theorem witness_VectorTwoSourceResult : mayIssue (live 2) 0 [2] [.v 27, .v 1] [.v 27] = true := by decide +kernel
theorem witness_VectorLaneResults :
    mayIssue (live 2) 0 [2] [.v 3, .v 1, .v 2] [.v 3] = true ∧ mayIssue (live 2) 0 [2] [.v 1, .x 2] [.v 3] = true ∧
    mayIssue (live 2) 0 [2] [.v 1] [.v 3] = true ∧ isFlt (vctl 0).ty = false ∧ (vctl 6).ty = .flt fFP32 ∧
    (vctl 0x40).ty = .int true 8 ∧ (vctl 0x40).sat = true := by decide +kernel
theorem witness_VectorMaskResult :
    mayIssue (live 2) 0 [2] [] [] = true ∧ mayIssue (live 2) 0 [2] [.v 1, .v 2] [.m 3] = true ∧
    mayIssue (live 2) 0 [2] [.x 1] [.m 1] = true := by decide +kernel
/-- VTYPE FP32 and INT8; the last part of a conversion from 32 to 8 bits, and the first part that is too large. -/
theorem witness_VectorWholeResult :
    mayIssue (live 2) 0 [2] [.v 1] [.v 3] = true ∧ mayIssue (live 2) 0 [2] [.v 3, .v 1] [.v 3] = true ∧
    mayIssue (live 2) 0 [2] [.vs 26 2] [.v 26, .v 27] = true ∧ mayIssue (live 2) 0 [2] [.x 1] [.v 3] = true ∧
    mayIssue (live 2) 0 [2] [.v 1, .x 2] [.x 3] = true ∧ mayIssue (live 2) 0 [2] [.x 1, .x 2] [.v 3] = true ∧
    (vt (modStream (live 2) 2 fun st => { st with vtype := 6 })).ty = .flt fFP32 ∧ (vt (live 2)).ty ≠ .flt fFP32 ∧
    3 < max (tyBits (vtyOf 6)) (tyBits (vtyOf 0)) / min (tyBits (vtyOf 6)) (tyBits (vtyOf 0)) ∧
    max (tyBits (vtyOf 5)) (tyBits (vtyOf 0)) / min (tyBits (vtyOf 5)) (tyBits (vtyOf 0)) ≤ 2 := by decide +kernel
/-- The last group of 8 registers that fits, and the first that does not. -/
theorem witness_VectorMemoryResult :
    let s := live 2
    let lanes : List LaneAt := [(0, 0, (0x1FFFFF : Int))]
    mayIssue s 0 [2] [.x 1, .x 2] ((List.range 8).map fun k => .v (16 + k)) = true ∧
    mayIssue s 0 [2] [.vs 16 8, .x 1, .x 2] [] = true ∧ spCheck (popped s 0) 0 0x9FF800 (256 * 8) 64 false = none ∧
    spCheck (popped s 0) 0 0x9FF800 (256 * 8) 64 true = none ∧ (spCheck (popped s 0) 0 0x9FF840 (256 * 8) 64 true).isSome = true ∧
    syncCheck (popped s 0) 2 (laneRanges 0 1 lanes) [] = .ok ∧ syncCheck (popped s 0) 2 [] (laneRanges 0 1 lanes) = .ok ∧
    (me s).outst.length < 32 ∧ mayIssue s 0 [2] [.x 1, .x 2] [.v 3] = true ∧ mayIssue s 0 [2] [.x 1, .v 2] [.v 3] = true ∧
    mayIssue s 0 [2] [.v 3, .x 1, .v 2] [] = true ∧ lanesCheck (popped s 0) 0x800000 1 lanes false = none ∧
    lanesCheck (popped s 0) 0x800000 1 lanes true = none ∧
    (lanesCheck (popped s 0) 0x800000 1 [(0, 0, (0x200000 : Int))] false).isSome = true := by decide +kernel

/-- A group of 8 registers to and from core 1 of the cluster. -/
theorem witness_VectorMemoryResult_peer :
    let s := live 2
    spCheck (popped s 0) 0 0x3FF800 (256 * 8) 64 true = none ∧ spCheck (popped s 0) 0 0x3FF800 (256 * 8) 64 false = none ∧
    bitAt (0x3FF800 : Word) 23 = false ∧ (spTarget 0 0x3FF800).1 = 1 ∧
    syncCheck (popped s 0) 2 [] (laneRanges 1 1 [(0, 0, (0x1FF800 : Int))]) = .ok := by decide +kernel

/-- A command of core 0 that waits for nothing. -/
def command (i : Instr) (ops : List Word) (e : Engine) : Cmd :=
  { seq := 0, sid := 0, ins := i, ops := ops, image := [], rd := [], wr := [], engine := e, after := [], waitReq := [], prior := [],
    next := 0, err := false, start := false, hold := none, supp := [], swept := false, lost := [] }
def withCmds (s : State) (ks : List Cmd) : State := modCore s 0 fun c => { c with cmds := ks, seq := 1 }
/-- The window at 63 and at 64 commands, with and without the checker. -/
theorem witness_CommandIssue :
    let at_ (n : BitVec 32) := modCore (withCmds (live 0) [command (.nop 0) [] 8]) 0 fun c => { c with seq := n }
    let r : Rec :=
      { seq := 0, sid := 1, rd := [], wr := [⟨0, 0x10000, 64⟩], engine := 4, preds := [], wm := none, drained := false, settled := [] }
    let det := modCore (modGang (live 0) 0 fun g => { g with record := List.replicate 64 0xFF }) 0 fun c => { c with seq := 1, recs := [r] }
    (∃ k ∈ (coreAt (at_ 64) 0).cmds, 64 ≤ ((coreAt (at_ 64) 0).seq - k.seq).toNat) ∧
    (¬∃ k ∈ (coreAt (at_ 63) 0).cmds, 64 ≤ ((coreAt (at_ 63) 0).seq - k.seq).toNat) ∧ detOf (at_ 63) 0 = false ∧
    detOf det 0 = true ∧ (coreAt det 0).recs = [r] ∧ conflicts [⟨0, 0x1003F, 1⟩] [] r.rd r.wr = true ∧
    (streamAt det 0).pred = [] ∧ ((coreAt det 0).seq - r.seq).toNat < 64 ∧ kindOf 0 ∉ r.settled ∧ r.engine ≠ 8 := by decide +kernel

/-- A core with a command in flight: one whose footprint lies elsewhere, and one that writes the waymark's bytes. -/
theorem witness_WaymarkResult_inFlight :
    let k (lo : Nat) : Cmd := { command (.cpy 0 20 21 24 0) [] 4 with wr := [⟨0, lo, 64⟩] }
    let r (lo : Nat) : Rec :=
      { seq := 0, sid := 0, rd := [], wr := [⟨0, lo, 64⟩], engine := 4, preds := [], wm := none, drained := false, settled := [] }
    let s (lo : Nat) := modCore (setX (withCmds (live 0) [k lo]) 6 0x810040) 0 fun c => { c with recs := [r lo] }
    mayIssue (s 0x20000) 0 computeStreams [.x 6] [] = true ∧ waySync (popped (s 0x20000) 0) [] [⟨0, 0x10040, 16⟩] = .ok ∧
    waySync (popped (s 0x10040) 0) [] [⟨0, 0x10040, 16⟩] = .stall ∧
    syncCheck (popped (s 0x20000) 0) 0 [] [⟨0, 0x10040, 16⟩] = .ok := by decide +kernel
/-- The window with a command in flight, in both modes; a record that conflicts, settled and not. -/
theorem witness_CommandIssue_window :
    let k : Cmd := { command (.cpy 0 20 21 24 0) [] 4 with wr := [⟨0, 0x10000, 64⟩] }
    let r (settled : List Nat) : Rec :=
      { seq := 0, sid := 1, rd := [], wr := [⟨0, 0x10000, 64⟩], engine := 4, preds := [], wm := none, drained := false, settled := settled }
    let s (settled : List Nat) := modCore (withCmds (live 0) [k]) 0 fun c => { c with recs := [r settled] }
    let det (settled : List Nat) := modGang (s settled) 0 fun g => { g with record := List.replicate 64 0xFF }
    windowPasses (s []) 0 4 [⟨0, 0x10000, 64⟩] [] ∧ windowPasses (det [0]) 0 4 [⟨0, 0x10000, 64⟩] [] ∧
    windowPasses (det []) 0 4 [⟨0, 0x20000, 64⟩] [] ∧ ¬windowPasses (det []) 0 4 [⟨0, 0x10000, 64⟩] [] ∧
    (0 : BitVec 32) ∉ Machine.closure (cmdRecs (coreAt (det []) 0)) 64 (cmdPreds (det []) 0 4) := by
  unfold windowPasses; exact ⟨by decide +kernel, by decide +kernel, by decide +kernel, by decide +kernel, by decide +kernel⟩
/-- A tensor map of one row of 32 bytes at VA 0x10000, at 0x10000 of the scratchpad. -/
def mapBytes : List Byte :=
  leBytes 8 0x10000 ++ leBytes 4 32 ++ leBytes 4 1 ++ leBytes 4 1 ++ leBytes 4 0 ++ leBytes 16 0 ++ leBytes 2 32 ++ leBytes 2 1 ++
    leBytes 2 1 ++ leBytes 2 0 ++ [0x18] ++ leBytes 15 0
def mapState (k : Nat) : State :=
  setX (setX (modCore (live k) 0 fun c => { c with scratch := mwrite c.scratch 0x10000 mapBytes }) 21 0x810000) 20 0x820000
theorem witness_CopyResult :
    let s := mapState 0
    (windowPasses (popped s 0) 0 4 [⟨0, 0x10000, 64⟩] [⟨0, 0x20000, 32⟩] ∧ compOk 0 0 = true ∧ compCheck (popped s 0) 0 0 0 = none ∧ compOk 3 (0x00000100 <<< 32 ||| 0x830000) = true ∧
    compCheck (popped s 0) 0 3 0x830000 = none ∧ mayIssue s 0 [0, 3] [.x 20, .x 21, .xs 24 4] [] = true ∧
    mayIssue s 0 [0] [.x 20, .x 21, .xs 24 4] [] = true ∧ mayIssue (mapState 3) 0 [3] [.x 20, .x 21, .xs 24 4] [] = true ∧
    mayIssue s 0 [0] [.x 21, .xs 24 4] [] = true ∧
    (tmapOf mapBytes).b0 = 32 ∧
    spCheck (popped s 0) 0 0x820000 (hull (tmapOf mapBytes)) 32 true = none ∧ bitAt (operand s 20) 23 = true ∧
    spCheck (popped s 0) 0 0x9FFFE0 32 32 false = none ∧ bufPage (popped s 0) 0 0x810000 = 16384 ∧
    (∀ r < 4, codeHit (popped s 0) r 0x20000 (hull (tmapOf mapBytes)) = false) ∧ (operand s 21).toNat % 16384 = 0 ∧
    (operand s 21).toNat + 65535 * 16384 ≤ 2 ^ 56) ∧ mapReady s 0 20 21 8 mapBytes (popped s 0) :=
  ⟨by unfold windowPasses; decide +kernel, by unfold mapReady imageOpen; decide +kernel⟩
/-- The configuration of FP8 operands at M = N = K = 1, unscaled; the ends of the datum; a product and an attention. -/
theorem witness_MatrixResult :
    let s := setX (setX (live 1) 6 0x810000) 7 0x820000
    let p := popped s 0
    windowPasses p 1 8 [⟨0, 0x10000, 16⟩, ⟨0, 0x20000, 16⟩] [] ∧ mayIssue s 0 [1] [.x 6, .x 7] [] = true ∧ mayIssue s 0 [1] [.x 6] [] = true ∧ mayIssue s 0 [1] [] [] = true ∧
    tcfgOk 0 0 = true ∧ tcfgOk 0x20000 0 = false ∧ ((32767 : Word).toInt ≤ 32767 ∧ -32768 ≤ (-32768 : Word).toInt) ∧
    32767 < (32768 : Word).toInt ∧ (-32769 : Word).toInt < -32768 ∧ ownCheck p 1 0x9FFFE0 32 16 true = none ∧
    ownCheck p 1 0x9FFFFC 4 (outBytes 0) true = none ∧
    (let g := tcfg (cfgView s 0 0)
     (isBlock g.a || isBlock g.b) = false ∧ ownCheck p 1 0x810000 (g.m * aLine g.a g.k) 16 false = none ∧
     ownCheck p 1 0x820000 (g.n * bLine g.b g.k) 16 false = none ∧ mayIssue s 0 [1] [.x 6, .x 7] [] = true) ∧
    mayIssue s 0 [1] [.x 6, .x 8] [] = true ∧ mayIssue s 0 [1] [.xs 24 4] [] = true ∧
    (tcfg (cfgView p 0 0)).m = (tcfg (cfgView p 0 2)).m ∧ (tcfg (cfgView p 0 2)).k = (tcfg (cfgView p 0 0)).n := by
  unfold windowPasses; decide +kernel
/-- The first and the last sector of a copy of 64 bytes, one to a peer that is gone, and a copy with no sector left. -/
theorem witness_PorterSector :
    let k := command (.cpy 0 20 21 24 0) [0x820000, 0x810000, 64, 0, 0, 0] 4
    let gone := command (.cpy 0 20 21 24 0) [0x220000, 0x810000, 64, 0, 0, 0] 4
    let s := withCmds (live 0) [k]
    retires s 0 k ∧ k.next < sectorCount k ∧ k.stage = 0 ∧ k.start = false ∧ (peersOf 0 k).all (fun p => peerLive s 0 p.2) = true ∧
    ({ k with next := 1 } : Cmd).next < sectorCount { k with next := 1 } ∧ ¬({ k with next := 2 } : Cmd).next < sectorCount { k with next := 2 } ∧
    compKind k.ins % 2 = 0 ∧ (spTarget 0 (k.ops.getD 0 0)).1 = 0 ∧ codeHit s 0 0x20000 32 = false ∧
    codeHit s 0 0xFE0 32 = true ∧ retires (withCmds (live 0) [{ k with lost := [1] }]) 0 { k with lost := [1] } ∧ retires (withCmds (live 0) [gone]) 0 gone ∧
    ((peersOf 0 gone).find? fun p => !peerLive s 0 p.2).isSome = true ∧ lostNow s 0 k = [] ∧ lostNow s 0 gone = [1] ∧
    cmdReady s 0 { k with hold := some 3 } = false ∧ compKind (.cpy 0 20 21 24 1) % 2 = 1 ∧
    (let sent : Cmd := { k with stage := 1, start := true }
     let m : Remote := { id := 9, src := 0, dst := 8, track := 0, tries := 0, pa := 0, bytes := [], owner := .cmd 0 0 4 }
     let t := withCmds (live 0) [sent]
     retires t 0 sent ∧ sent.stage ≠ 0 ∧ remoteOut t (.cmd 0 0 4) = false ∧ remoteOut { t with remotes := [m] } (.cmd 0 0 4) = true ∧
       sent.next + 1 < sectorCount sent) := by unfold retires; decide +kernel
theorem witness_CommandRetire :
    let k := command (.mdat 0 0 6) [3] 8
    let c := { command (.cpy 0 20 21 24 2) [0x820000, 0x810000, 64, 0, 0, 0x0000010400000000] 4 with next := 2 }
    retires (withCmds (live 1) [k]) 0 k ∧ k.engine = 8 ∧ remoteOut (withCmds (live 1) [k]) (.cmd 0 0 8) = false ∧ retires (withCmds (live 0) [c]) 0 c ∧ sectorCount c ≤ c.next ∧
    migWaits (withCmds (live 0) [c]) 0 c.seq = false ∧ 2 ≤ compKind c.ins ∧ isTldm c.ins = false ∧ compKind (.cpy 0 20 21 24 1) < 2 := by
  unfold retires; decide +kernel
/-- The products and the attention, a bank command of one row that is read and one that faults, and a KVAPP of one row whose seat
was evicted, that finds no pool, or that waits for a page. -/
theorem witness_CommandRetire_rest :
    let m (i : Instr) := command i [0x810000, 0x820000, 0x830000, 0] 8
    let b := command (.bgemv 0 24) [0, 0, 0x810000, 0x820000, 0x09, 0] 6
    let a := command (.bgemva 0 24) [0, 0, 0x810000, 0x820000, 0x09, 0] 6
    let k := command (.kvapp 0 24) [0, 1, 0x810000, 0] 9
    let s := withCmds (mapped 3) [k]
    let on := setAreg s (dieBlock 0 + 0x05000000) 1
    let bank := modCore (withCmds (mapped 3) [b]) 0 fun c => { c with tlb := [{ ctx := 0, vpn := 0, leaf := 0x261 }] }
    ((∀ i ∈ [(.mma 0 0 6 7 0 0 : Instr), .mmaz 0 0 6 7 0 0, .mmas 0 0 6 7 0 0, .matt 0 2 8 1], retires (withCmds (live 1) [m i]) 0 (m i)) ∧
      retires bank 0 b ∧ retires (withCmds (mapped 3) [a]) 0 a ∧ remoteOut bank (.cmd 0 0 6) = false ∧ b.engine = 6 ∧
      retires s 0 k ∧ k.engine = 9 ∧ remoteOut s (.cmd 0 0 9) = false ∧ seatEvicted s 0 = false ∧ k.supp.contains 0 = false ∧
      seatEvicted { s with coach := { s.coach with evicted := [0] } } 0 = true ∧ ({ k with supp := [0] } : Cmd).supp.contains 0 = true ∧
      remoteOut s (.cmd 0 k.seq 4) = false ∧ fld (k.ops.getD 3 0) 55 40 = 0 ∧ incHeld s 0 0 (compSem (k.ops.getD 3 0)) 0 = false) ∧
    (∃ rs t, bankRows bank 0 b.ops = (.ok rs, t)) ∧ (∃ e t, bankRows (withCmds (live 3) [b]) 0 b.ops = (.error e, t)) ∧
    (∃ t, kvRows (kvBegin s 0 k) 0 k 1 = (.dry, t)) ∧ ∃ t, kvRows (kvBegin on 0 k) 0 k 1 = (.wait, t) := by
  unfold retires
  exact ⟨by decide +kernel, okPair (by decide +kernel), errPair (by decide +kernel), fstIs (by decide +kernel), fstIs (by decide +kernel)⟩

/-- A KVAPP with no row left, and one whose allocation has failed. -/
theorem witness_CommandRetire_kvapp :
    let k := command (.kvapp 0 24) [0, 1, 0x810000, 0] 9
    let s := modDie (setAreg (withCmds (mapped 3) [k]) (dieBlock 0 + 0x05000000) 1) 0 fun x =>
      { x with pool := { x.pool with free := [(0x10000, none)] } }
    let all := { k with next := 1 }
    let dry := { k with err := true }
    (retires (withCmds (mapped 3) [all]) 0 all ∧ retires (withCmds (mapped 3) [dry]) 0 dry ∧ canRaise s (dieOf 0) = true ∧
      compInc (k.ops.getD 3 0) = 0 ∧ remoteOut s (.cmd 0 0 4) = false) ∧
    ∃ t, kvRows (kvBegin s 0 all) 0 all (kvLeft all) = (.next, t) := by
  unfold retires
  exact ⟨by decide +kernel, fstIs (by decide +kernel)⟩

/-- A number at SEQ and one below it, with and without its command; a path of 4 and of 5. -/
theorem witness_OrderResult :
    let s := withCmds (live 0) [command (.cpy 0 20 21 24 0) [0x820000, 0x810000, 64, 0, 0, 0] 4]
    let w := waited (setX s 5 0) 0
    mayIssue (setX s 5 0) 0 computeStreams [.x 5] [] = true ∧ mayIssue s 0 computeStreams [.x 5, .x 6] [] = true ∧
    mayIssue s 0 computeStreams [] [] = true ∧ ((1 : BitVec 32) - (coreAt w 0).seq).toNat < 2 ^ 31 ∧
    ((0 : BitVec 32) - (coreAt w 0).seq).toNat ≥ 2 ^ 31 ∧ (∃ k ∈ (coreAt w 0).cmds, k.seq = 0) ∧
    (∃ k ∈ (coreAt (waited s 0) 0).cmds, k.engine = 4 ∧ 1 ≤ (reachedSeq (waited s 0) 0 - k.seq).toNat ∧
      (reachedSeq (waited s 0) 0 - k.seq).toNat ≤ 64 ∧ (restOf k).any (onPath (waited s 0) 0 4) = true) ∧
    (coreAt (waited (live 0) 0) 0).cmds = [] ∧ (4 : BitVec 3).toNat ≤ 4 ∧ 4 < (5 : BitVec 3).toNat := by decide +kernel
/-- A second core of the gang in the cluster. -/
def pair (k : Nat) : State := modCore (modGang (live k) 0 fun g => { g with w := 2 }) 1 fun c => { c with gang := some 0 }
theorem witness_BarrierResults :
    let done := putBarrier (pair 0) 0 3 { here := none, done := [0] }
    let here := putBarrier (pair 0) 0 3 { here := some 1, done := [] }
    let both := putBarrier here 1 3 { here := some 4, done := [] }
    mayIssue (live 0) 0 computeStreams [] [] = true ∧ mayIssue done 0 computeStreams [] [] = true ∧
    0 ∈ (barrierAt (waited done 0) 0 3).done ∧ (barrierAt (waited (live 0) 0) 0 3).here = none ∧
    quiet (waited (live 0) 0) 0 (fixedScope (waited (live 0) 0) 0 2) = true ∧ barrierCores (waited (live 0) 0) 0 = [0] ∧
    barrierCores (waited (pair 0) 0) 0 ≠ [0] ∧ (barrierAt (waited here 0) 0 3).here.isSome = true ∧
    (∃ m ∈ barrierCores here 0, (barrierAt here m 3).here = none) ∧
    (∀ m ∈ barrierCores both 0, (barrierAt both m 3).here ≠ none) ∧ (barrierCores both 0).Nodup := by decide +kernel
/-- A record of one core for die 0, queue 0, at 0x10000 of the scratchpad; join object at VA 0x40. -/
def recordBytes (join : Nat) : List Byte :=
  leBytes 16 0x1000 ++ leBytes 8 join ++ leBytes 8 0 ++ leBytes 8 0x100 ++ leBytes 16 0 ++ leBytes 8 0
def withRecord (join : Nat) : State :=
  setAreg (modCore (setX (mapped 0) 5 0x810000) 0 fun c => { c with scratch := mwrite [] 0x10000 (recordBytes join) }) (lqRegs 0 0 + 8) 0x106
theorem witness_SpawnJoinResult :
    let s := withRecord 0x40
    let w := waited s 0
    (mayIssue s 0 computeStreams [.x 5] [] = true ∧ mayIssue s 0 computeStreams [.x 5] [.x 6] = true ∧
    (operand (setX s 5 0) 5).toNat ≤ 0 ∧ 0 < (operand (setX s 5 1) 5).toNat ∧ 2 ^ 48 ≤ (operand (setX s 5 0x1000000000000) 5).toNat ∧
    ownCheck w 0 0x810000 64 64 false = none ∧ recordOk (ownRead w 0 0x10000 64) = true ∧
    recordOk (ownRead (waited (live 0) 0) 0 0x10000 64) = false ∧ ringRoom w (lqRegs 0 0) = true ∧ ringRoom w (lqRegs 0 1) = false ∧
    recQueue (ownRead w 0 0x10000 64) = (0, 0) ∧ quiet w 0 (fixedScope w 0 5) = true ∧ recJoin (ownRead w 0 0x10000 64) = 0x40 ∧
    placeOf 0x40 = .hbm 0 0 ∧ leNat (paRead w 0x40 4 0) = 0 ∧ bfld (paRead w 0x40 8 0) 0 4 = 0 ∧
    bfld (paRead (waited { s with mem := [(0x40, 1)] } 0) 0x40 8 0) 0 4 ≠ 0) ∧
    (∃ x t, access (endRegion w 0) (tlbId 0) (xctx w 0) 0x40 .wr = (.ok x, t) ∧ isFabric t x.pa = false) ∧
    (let far := modCore s 0 fun c => { c with tlb := [{ ctx := 0, vpn := 0, leaf := 0x1010000000061 }] }
     ∃ x t, access (endRegion (waited far 0) 0) (tlbId 0) (xctx (waited far 0) 0) 0x40 .wr = (.ok x, t) ∧ isFabric t x.pa = true ∧
       remoteOut t (.spawn 0 (streamAt t 0).pc) = false ∧ tokensReady far 0 0 = true ∧ workDone (streamAt t 0) = false ∧
       (sendRemote t (srcGlobal t 0) x.pa [] (.spawn 0 (streamAt t 0).pc)).isSome = true) ∧
    (∃ x t, access w (tlbId 0) (xctx w 0) 0x40 .rd = (.ok x, t)) :=
  ⟨by decide +kernel, okWith (by decide +kernel), okWith (by decide +kernel), okPair (by decide +kernel)⟩
/-- A record whose queue lies in the window of host 0, whose link is not trained. -/
theorem witness_SpawnJoinResult_host :
    let s := setAreg (withRecord 0x40) (lqRegs 0 0) 0x8000000000000
    let u := endRegion (waited s 0) 0
    ringRoom (waited s 0) (lqRegs 0 0) = true ∧
    hostUp u (ringPa u (lqRegs 0 0) 128 (ringTail u (lqRegs 0 0))) = false ∧
    hostUp (endRegion (waited (withRecord 0x40) 0) 0) 0 = true := by decide +kernel
/-- Core 63 and core 64; a slot that sends to core 1 now, one that does not, and no credit. -/
theorem witness_CircuitBankResult :
    let s := modDie (pair 3) 0 fun x => { x with send := [(0, 0x81)] }
    let late := modDie s 0 fun x => { x with slotCtr := 1 }
    let broke := modCore s 0 fun c => { c with credits := [(1, 0)] }
    let w := waited s 0
    mayIssue s 0 [3] [.x 5, .x 6] [] = true ∧ slotAssigned w 0 1 = true ∧ slotAssigned w 0 63 = false ∧ gangMember w 0 1 = true ∧
    gangMember (waited (modDie (live 3) 0 fun x => { x with send := [(0, 0x81)] }) 0) 0 1 = false ∧
    creditOf w 0 1 ≠ 0 ∧ csndSlotOf w 0 1 = (dieAt w 0).slotCtr.toNat ∧
    csndSlotOf (waited late 0) 0 1 ≠ (dieAt (waited late 0) 0).slotCtr.toNat ∧ creditOf (waited broke 0) 0 1 = 0 ∧
    mayIssue (pair 0) 0 [0] [.x 5] [.x 6] true = true ∧ gangMember (popped (pair 0) 0) 0 63 = false ∧
    gangMember (popped (pair 0) 0) 0 1 = true ∧ fld (0x09 : Word) 4 0 ∈ [0x09, 0x0C, 0x11, 0x12, 0x18, 0x19, 0x1A] ∧
    mayIssue s 0 [3] [.xs 24 4] [] = true ∧ windowPasses (popped s 0) 3 6 [⟨0, 0x10000, 64⟩] [⟨0, 0x20000, 64⟩] ∧
    (let ops : List Word := [0, 0, 0x810000, 0x820000, 0x09, 0]
     ownCheck (popped s 0) 3 0x810000 (bankSeats ops * bankXs (bankC ops)) 16 false = none ∧
     ownCheck (popped s 0) 3 0x820000 (bankSeats ops * bankR ops * 4) 16 true = none) := by unfold windowPasses; decide +kernel
/-- Indexes 15 and 16; an entry that is not valid is well formed, one that is valid and zero elsewhere is not. -/
theorem witness_PlatResult :
    let s := live 0
    mayIssue s 0 [0] [.x 5, .x 6] [.x 7] = true ∧ mayIssue (live 3) 0 [3] [.x 5, .x 6] [.x 7] = true ∧
    (operand (setX s 5 15) 5).toNat < 16 ∧ 16 ≤ (operand (setX s 5 16) 5).toNat ∧
    ownCheck (popped s 0) 0 0x810000 64 64 true = none ∧ ownCheck (popped (live 3) 0) 3 0x810000 64 64 false = none ∧
    syncCheck (popped s 0) 0 [] [⟨0, 0x10000, 64⟩] = .ok ∧ syncCheck (popped (live 3) 0) 3 [⟨0, 0x10000, 64⟩] [] = .ok ∧
    platOk 0 = true ∧ platOk (BitVec.ofNat 512 (2 ^ 47)) = false ∧ replatNames (popped (live 3) 0) 0 15 = false ∧
    (let r : Replat := { id := 0, ctx := 0, caravan := 0, src := 15, dst := 1, parts := [], stepping := false, missed := false, done := [] }
     replatNames (popped { live 3 with replats := [r] } 0) 0 15 = true) := by decide +kernel
/-- Two valid entries of one die, of 1 element in each dimension, and a caravan's gang that the mask names; a face set that is
clear, and one with a reserved bit set; a group of context 0. -/
theorem witness_PackageIssue :
    let e : BitVec 512 := BitVec.ofNat 512 (2 ^ 47 + 2 ^ 64 + (1 + 2 ^ 16 + 2 ^ 32 + 2 ^ 48 + 2 ^ 64) * 2 ^ 128)
    let s := { modGang (live 3) 0 (fun g => { g with caravan := some 0, record := leBytes 32 0 ++ leBytes 32 0x100 }) with
      plats := [(0, e), (1, e)] }
    let g := setAreg (live 3) (groupPa 5 0) 1
    mayIssue s 0 [3] [.x 5, .x 6] [] = true ∧ (gangOfCore (popped s 0) 0).isSome = true ∧
    ((gangOfCore (popped s 0) 0).map fun x => x.caravan.isSome && recMask x.record == 1) = some true ∧ windowPasses (popped s 0) 3 10 [] [] ∧
    (popped s 0).replats = [] ∧ (popped s 0).platUpds = [] ∧ platMem (popped s 0) 0 0 = e ∧ platMem (popped s 0) 0 1 = e ∧
    platValid e = true ∧ platMask e = 1 ∧ (∀ i < 5, platD e i = platD e i) ∧
    ownCheck (popped s 0) 3 0x810000 128 128 false = none ∧ faceImageOk (ownRead (popped s 0) 3 0x10000 128) = true ∧
    faceImageOk (List.replicate 128 0xFF) = false ∧ setInUse (popped s 0) 0 3 = false ∧
    (faceChecks (popped s 0) 3 (faceSet (popped s 0) 0 0 3) (selected (faceSet (popped s 0) 0 0 3) 63)).1 = none ∧
    mayIssue g 0 [3] [.x 5, .xs 24 4] [] = true ∧ bitAt (areg (popped g 0) (groupPa 5 0)) 0 = true ∧
    fld (areg (popped g 0) (groupPa 5 0)) 7 4 = fld (5 : Word) 15 12 ∧ fld (areg (popped g 0) (groupPa 5 0)) 13 8 = ctxOf (popped g 0) 0 ∧
    bitAt (areg (popped (live 3) 0) (groupPa 4095 0)) 0 = false ∧ gmcsOut (popped g 0) 3 < 16 := by unfold windowPasses; decide +kernel
/-- Seats 511 and 512, a seat with and without a request; rows 64 and 65; a STEPEND of the running and of another step. -/
theorem witness_RequestResults :
    let s := live 0
    let t := live 3
    let seated := { t with coach := { t.coach with seats := [(511, 0)] } }
    let held := withCmds t [command (.nop 0) [] 8]
    let work := modStream t 3 fun st => { st with phase := .held 0 true }
    (mayIssue s 0 [0] [.x 5] [] = true ∧ mayIssue s 0 [0] [.x 5, .x 6] [.x 7] = true ∧ mayIssue t 0 [3] [.x 5, .x 6] [] = true ∧
    mayIssue s 0 [0] [.x 5] (groupLocs 26 2) true = true ∧ mayIssue t 0 [3] [.xs 24 4] [] = true ∧ windowPasses (popped t 0) 3 9 [⟨0, 0x10000, 64 * 2048⟩] [] ∧
    vaOk 0x40 = true ∧ workDone (streamAt (waited t 0) 3) = false ∧ workDone (streamAt (waited work 0) 3) = true ∧
    (operand (setX s 5 511) 5).toNat < 512 ∧ 512 ≤ (operand (setX s 5 512) 5).toNat ∧
    ownCheck (waited s 0) 0 0x9FFF00 256 32 true = none ∧ syncCheck (waited s 0) 0 [] [⟨0, spOff 0x9FFF00, 256⟩] = .ok ∧
    seatEvicted (waited s 0) 511 = false ∧ seatSlot (popped t 0) 511 = none ∧ seatSlot (popped seated 0) 511 ≠ none ∧
    ownCheck (waited t 0) 3 0x9FFFE0 32 32 false = none ∧ syncCheck (waited t 0) 3 [⟨0, spOff 0x9FFFE0, 32⟩] [] = .ok ∧
    kvCompOk 0 = true ∧ ownCheck (popped t 0) 3 0x810000 (64 * 2048) 32 false = none ∧
    mayIssue t 0 [3] [.x 5] [] = true ∧ (coreAt (waited t 0) 0).cmds = [] ∧ storesOut (waited t 0) 3 = false ∧
    quiet (waited t 0) 3 (fixedScope (waited t 0) 0 7) = true ∧ (coreAt (waited held 0) 0).cmds ≠ [] ∧
    operand (setX t 5 0) 5 = stepNo (waited t 0) ∧ operand (setX t 5 1) 5 ≠ stepNo (waited t 0)) ∧
    ∃ bs u, vaRead (waited (mapped 0) 0) 0 (ctxOf (waited (mapped 0) 0) 0) 0x40 8256 .rd = (.ok bs, u) := by
  unfold windowPasses
  exact ⟨by decide +kernel, okPair (by decide +kernel)⟩

theorem witness_DecodeEncode :
    WellFormed (.add 0 3 1 2 0 0) ∧ encode (.add 0 3 1 2 0 0) = some 0x00861100 ∧ decode 0x00861100 = .ok (.add 0 3 1 2 0 0) := by
  unfold WellFormed; decide
/-- A stream's turn: it issues a word, meets a word that is none, may not issue, and holds; an event's turn; and no turn placed. -/
theorem witness_StepRunsDecoded :
    let s := { live 0 with agenda := [.issue 0] }
    let u := { turned s [] with cur := 0 }
    let bad := { modCore s 0 (fun c => { c with scratch := [(2, 0xC0), (3, 0x09)] }) with agenda := [.issue 0] }
    let holds := { modStream s 0 (fun st => { st with phase := .holding (.waitl 0) }) with agenda := [.issue 0] }
    s.agenda = .issue 0 :: [] ∧ (streamAt s 0).phase = .running ∧ canIssue u 0 = true ∧ ringSize u 0 ≠ 0 ∧
    decode (fetchWord u 0) = .ok (.nop 0) ∧ decode (fetchWord { turned bad [] with cur := 0 } 0) = .error .reservedMajor ∧
    decode 0x10100000 = .error .swTokens ∧ (∀ e ∈ s.gangs, e.2.killed.isSome = true → e.2.phase = .dying) ∧
    canIssue State.reset 0 = false ∧ (streamAt holds 0).phase = .holding (.waitl 0) ∧ encode (.dtickTick 0) = none ∧
    s.tripped = false ∧ State.reset.agenda = [] := by decide +kernel
theorem witness_CanonicalKept :
    let s := { State.reset with agenda := [.event (.dtickTick 0)] }
    Canonical s ∧ ∃ t, step s = .next t := ⟨by unfold Canonical; decide +kernel, _, rfl⟩
theorem witness_LegalityFaults :
    (encode (.vbcast 0 1 2)).isSome = true ∧ canIssue (live 0) 0 = true ∧
    kindOf 0 ∉ legalOn (.vbcast 0 1 2) ∧ canIssue (live 4) 2048 = true ∧ isSW 2048 = true ∧ tokensReady (landed (live 0)) 0 0 = true ∧
    (srcsFault (me (live 0)) [.x 28]).isSome = true := by decide +kernel
/-- Faults of class 1 and 2 of a gang's stream, with room; a die with 64 entries waiting. -/
theorem witness_FaultRaised :
    let f (c : BitVec 8) := coreFault 0 0 0 c 0 (live 0)
    let e : Entry :=
      { seq := 0, code := 0x20, cls := 1, die := 0, core := 0, agent := 0, gang := 0, seat := 0xFFFF, va := 0, pc := 0, leg := 0, tick := 0,
        dup := false, ctx := 0 }
    let full := modDie (live 0) 0 fun x => { x with unposted := List.replicate 64 e }
    (dieAt (live 0) 0).unposted.length < 64 ∧ 64 ≤ (dieAt full 0).unposted.length ∧ classOf 0x20 = 1 ∧ classOf 0x10 = 2 ∧ classOf 0xF0 = 4 ∧
    ([e, e, e] = [e, e] ++ [e] ∧ ∀ x ∈ ([] : List Entry), x.seq ≠ e.seq) ∧
    (f 0x20).gang < 64 ∧ (gangAt (live 0) 0).isSome = true ∧ ((gangAt (live 0) 0).map fun x => x.caravan) = some none ∧
    isSW 0 = false ∧ gangKey (live 0) 0 = some 0 := by decide +kernel
theorem witness_IssueFrames :
    placeOf 0x1E = .hbm 0 0 ∧ 0x1E % 32 + [(1 : Byte), 2].length ≤ 32 ∧ ¬(0x1F % 32 + [(1 : Byte), 2].length ≤ 32) ∧
    planeFmt (live 0) 0 = none ∧
    (match sendMem (popped (live 0) 0) 0 (.load true 8) ⟨0x40, ⟨0, 0, 0x61⟩⟩ 0x40 (some [.x 9]) with
      | .done _ _ => true
      | _ => false) = true := by decide +kernel
theorem witness_LandingEvents :
    let o : Outst := { id := 5, regs := [.x 9], val := some [wX 9 7] }
    let s := modStream (live 0) 0 fun st => { st with outst := [o] }
    let p : Push := { stream := 0, queues := [7], cond := .landed 0, rel := [], settle := [] }
    let q := modCore (live 0) 0 fun c => { c with pushes := [p] }
    let late := modGang (modStream s 0 fun st => { st with sinceSafe := 4097 }) 0 fun g => { g with preempt := true }
    let held := modStream late 0 fun st => { st with phase := .held 3 false }
    (streamAt held 0).phase = .held 3 false ∧ mustStop held 0 (streamAt held 0) = true ∧
    mustStop (modGang late 0 fun g => { g with stalled := true }) 0 (streamAt late 0) = false ∧
    ((gangOfCore late 0).map fun x => x.phase == .running && x.preempt && !x.stalled) = some true ∧
    (streamAt s 0).phase = .running ∧ mustStop s 0 (streamAt s 0) = false ∧ (streamAt late 0).phase = .running ∧
    mustStop late 0 (streamAt late 0) = true ∧ ((streamAt s 0).outst.find? fun o => o.id == 5) = some o ∧
    (streamAt (modStream s 0 fun st => { st with phase := .stopped }) 0).phase = .stopped ∧ (coreAt q 0).pushes[0]? = some p ∧
    pushReady q 0 p = true := by decide +kernel

/-- A load and a store of a Steward and of a stream, an atomic, and the datum forms, next at their home; an access that has not
arrived, and one to a peer that is live and to one that is gone. -/
theorem witness_AccessEvents :
    let s := mapped 0
    let run (op : ReqOp) : State := withReq s (sent s op 0x40)
    let e : Datum := datumOpen (.fin false 0 0) false
    let peer (c : Nat) : State := withReq s { sent s (.peer c (.load true 8 0)) 0 with leaf := 0 }
    performs (run (.load true 8)) (sent s (.load true 8) 0x40) ∧ performs (run (.store 8 1)) (sent s (.store 8 1) 0x40) ∧
    performs (withReq (live 4) (sent (live 4) (.load true 8) 0x40)) (sent (live 4) (.load true 8) 0x40) ∧ isSW 2048 = true ∧
    performs (run (.atomic (.aadd 0 5 6 0 0) 1 0)) (sent s (.atomic (.aadd 0 5 6 0 0) 1 0) 0x40) ∧
    performs (run (.kvmap 1)) (sent s (.kvmap 1) 0x40) ∧ placeOf 0x40 = .hbm 0 0 ∧ leafRepl 0x61 = false ∧
    reqReady s { sent s (.load true 8) 0x40 with arrived := false } = false ∧
    aget (dieAt (modDie s 0 fun x => { x with datum := [(0x40, e)] }) 0).datum 0x40 = some e ∧ aget (dieAt s 0).datum 0x40 = none ∧
    datumRoom s 0 0 = some false ∧ performs (peer 0) { sent s (.peer 0 (.load true 8 0)) 0 with leaf := 0 } ∧
    liveFor s 0 (ctxOf s 0) = true ∧ liveFor s 1 (ctxOf s 0) = false ∧ legRuns s 0 = true ∧ legRuns State.reset 0 = false ∧
    codeHit s 0 0xFFF 1 = true ∧ codeHit s 0 0x10000 1 = false ∧ codeHit s 0 0x10000 16 = false ∧ xctx s 0 = 0 ∧
    ({ s with scopeUpds := [⟨0, 8⟩] } : State).scopeUpds[0]? = some ⟨0, 8⟩ ∧
    (dieAt (modDie s 0 fun x => { x with mig := [⟨0x4000, 0, 0, 5, 0, 0⟩] }) 0).mig[0]? = some ⟨0x4000, 0, 0, 5, 0, 0⟩ ∧
    gangKey s 0 = some 0 := by unfold performs; decide +kernel

/-- A REPL page, a home in carved storage, the Atlas, an untrained host, an access that was overtaken by a store of its core; a
store of 8 bytes and one of a vector to a peer; a second access behind one that holds for a fault. -/
theorem witness_AccessEvents_homes :
    let s := mapped 0
    let load (s : State) (pa : Nat) : Req := sent s (.load true 8) pa
    let at_ (pa : Nat) : Bool := reqReady (withReq s (load s pa)) (load s pa)
    let bytes : List (Nat × Byte) := (List.range 8).map fun i => (0x10000 + i, 7)
    let peer (n : Nat) : Req := { sent s (.peer 1 (.store bytes)) 0 with id := n, leaf := 0 }
    let two (h : Option Nat) : State := { s with requests := [{ peer 7 with hold := h }, peer 8] }
    at_ 0x40 = true ∧ at_ 0x8000000040 = true ∧ placeOf 0x8000000040 ≠ .atlas ∧ hostUp s 0x8000000040 = true ∧
    placeOf 0x9000000000 = .atlas ∧ at_ 0x9000000000 = true ∧ atlasHeld s 0x9000000000 (leBytes 8 0) = false ∧
    hostUp s 0x8000000000040 = false ∧ isFabric s 0x8000000000040 = false ∧ at_ 0x8000000000040 = true ∧
    leafRepl 0x461 = true ∧ ({ load s 0x40 with stale := true } : Req).stale = true ∧ legRuns s 0 = true ∧
    reaches (two none) (peer 8) = false ∧ reaches (two (some 3)) (peer 8) = true ∧ inOrder (two (some 3)) (peer 8) = false ∧
    liveTo s 0 1 = false ∧ liveTo (pair 0) 0 1 = true ∧ inOrder { pair 0 with requests := [{ peer 7 with hold := some 3 }, peer 8] } (peer 8) = false ∧
    (∀ b ∈ bytes, codeHit (pair 0) 1 b.1 1 = false) := by decide +kernel

/-- An unresolved entry of the running gang. -/
def entry (code : BitVec 8) (seat : Nat) : Entry :=
  { seq := 3, code := code, cls := 1, die := 0, core := 0, agent := 0, gang := 0, seat := seat, va := 0, pc := 0, leg := 0, tick := 0,
    dup := false, ctx := 0 }
theorem witness_FaultEvents :
    let s := setAreg (modDie (live 0) 0 fun x => { x with unposted := [{ entry 0x20 0 with seq := 4 }], unresolved := [entry 0x40 0] }) (fqRegs 0 + 8) 0x106
    let seat := modDie (live 0) 0 fun x => { x with unresolved := [entry 0x20 5], resumable := [0] }
    (dieAt s 0).unposted = [{ entry 0x20 0 with seq := 4 }] ∧ ringEn s (fqRegs 0) = true ∧ ringRoom s (fqRegs 0) = true ∧ ringEn (live 0) (fqRegs 0) = false ∧
    entryFits (entry 0x20 0xFFFF) ∧ findEntry s 0 4 = none ∧ findEntry s 0 3 = some (entry 0x40 0) ∧ isTranslation 0x40 = false ∧
    isTranslation 0x20 = true ∧ findEntry seat 0 3 = some (entry 0x20 5) ∧ (gangAt s 0).isSome = true ∧
    ((gangAt s 0).map fun x => x.phase) = some .running ∧ (dieAt seat 0).resumable = [0] ∧
    ((gangAt (modGang s 0 fun g => { g with phase := .heldFor, asked := true }) 0).map fun x =>
      x.phase == .heldFor && x.caravan.isNone && x.asked) = some true ∧ (∃ e ∈ (dieAt seat 0).unresolved, e.gang = 0) ∧ (dieAt (live 0) 0).unresolved = [] ∧ canRaise (live 0) 0 = true ∧
    gangKey (live 0) 0 = some 0 ∧ gangKey (live 0) 1 = none ∧ placeOf (localPa (live 0) 0x40) = .hbm 0 0 := by
  unfold entryFits; decide +kernel

/-- A translation fault, a later one of the same page with DUP, and one of another page; a fault queue in the window of a host. -/
theorem witness_FaultEvents_retry :
    let e (n : Nat) (va : Word) (dup : Bool) : Entry := { entry 0x20 0xFFFF with seq := n, va := va, dup := dup }
    let s := modDie (live 0) 0 fun x => { x with unresolved := [e 3 0x40 false, e 4 0x48 true, e 5 0x4000 false] }
    let q := setAreg (setAreg (modDie s 0 fun x => { x with unposted := [e 5 0x4000 false] }) (fqRegs 0 + 8) 0x106) (fqRegs 0) 0x8000000000000
    findEntry s 0 3 = some (e 3 0x40 false) ∧ isTranslation (e 3 0 false).code = true ∧
    (((postedOpen s 0).dropWhile fun x => x.seq != 3).drop 1) = [e 4 0x48 true, e 5 0x4000 false] ∧
    ringEn q (fqRegs 0) = true ∧ ringRoom q (fqRegs 0) = true ∧ hostUp q (ringPa q (fqRegs 0) 32 (ringTail q (fqRegs 0))) = false := by
  decide +kernel

/-- A queue of die 0 with one record of one core at its head, and the die ONLINE. -/
def queued : State :=
  let s := setAreg (setAreg (setAreg State.reset (dstatePa 0) 2) (lqRegs 0 0 + 8) 0x106) (lqRegs 0 0 + 24) 1
  { s with mem := mwrite [] 0 (queueEntry (recordBytes 0) 0 0) }
/-- A caravan of die 0 and die 1 that both hold their rectangles. -/
def gathered : State :=
  let s := setAreg (setAreg State.reset (lqRegs 0 8 + 8) 0x106) (lqRegs 0 8 + 24) 1
  let rec2 := leBytes 16 0x1000 ++ leBytes 16 0 ++ leBytes 8 0x100300 ++ leBytes 24 0
  let g := { probeGang with phase := .heldFor }
  { s with mem := mwrite [] 0 (queueEntry rec2 0 0), gangs := [(0, g), (64, g)] }
theorem witness_LegEvents_legs :
    let placed := modGang (mapped 0) 0 fun g => { g with phase := .placed }
    let x := { probeGang with phase := .placed }
    let ends := forN 4 (fun k s => modStream s k fun st => { st with phase := .ended }) (live 0)
    (gangAt placed 0 = some x ∧ x.phase = .placed ∧ x.hold = none ∧ x.stalled = false ∧ x.resume = false ∧
      (memberLoads placed 0 x).1.isSome = true ∧ gangDone (live 0) 0 probeGang = false ∧ gangDone ends 0 probeGang = true ∧
      gangAt ends 0 = some probeGang ∧ probeGang.caravan = none ∧ probeGang.dropJoin = false ∧
      bfld (leBytes 16 0) 0 4 = 0 ∧ bfld (leBytes 4 1 ++ [0x20] ++ leBytes 11 1) 5 1 % 2 = 1) ∧
    joinOut ends [(0, probeGang)] = false ∧
    ∃ t, joinUpdate ends 0 0 0 (BitVec.ofNat 64 (recJoin probeGang.record)) none 0 = .ok (some t) :=
  ⟨by decide +kernel, by decide +kernel, _, rfl⟩
/-- A join object in another package: its update is on its way, or waits for a place among 256. -/
theorem witness_LegEvents_join :
    let here (s : State) : Option Bool := match joinUpdate s 0 0 0 0x40 none 0 with
      | .ok (some t) => some (joinOut t [(0, probeGang)])
      | .ok none => none
      | .error _ => some false
    here (farPage 0) = some true ∧ here (farPage 256) = none ∧ joinOut (farPage 1) [(0, probeGang)] = true := by decide +kernel
theorem witness_LegEvents_dispatch :
    let c : Cand := ⟨0, 0, queueEntry (recordBytes 0) 0 0⟩
    let full := forN 64 (fun i s => modCore s i fun x => { x with offline := true }) queued
    let pre := modGang (live 0) 0 fun g => { g with preempt := true, record := leBytes 48 0 ++ leBytes 8 0x1000 ++ leBytes 8 0 }
    let stop (h : Phase) := forN 4 (fun k s => modStream s k fun st => { st with phase := h }) pre
    dieState (cleaned State.reset 0) 0 ≠ 2 ∧ dieState (cleaned queued 0) 0 = 2 ∧ candidates (cleaned queued 0) 0 = [c] ∧
    (freeRects (cleaned queued 0) 0 c).length = 64 ∧ freeRects (cleaned full 0) 0 c = [] ∧ candidates (cleaned full 0) 0 = [c] ∧
    (dieAt (cleaned full 0) 0).target = none ∧ candidates (cleaned (setAreg State.reset (dstatePa 0) 2) 0) 0 = [] ∧
    (headOf gathered (lqRegs 0 8)).isSome = true ∧ ((headOf gathered (lqRegs 0 8)).map fun bs => headOk (lqRegs 0 8) bs) = some true ∧
    ((headOf gathered (lqRegs 0 8)).map fun bs => maskDies (recMask bs)) = some [0, 1] ∧
    (gangAt pre 0).isSome = true ∧ ((gangAt pre 0).map fun x => decide (saveVa x ≠ 0 ∧ x.phase = .running ∧ x.preempt = true)) = some true ∧
    safePoint (stop .ended) 0 = true ∧ saveIdle (stop .ended) 0 = true ∧ saveIdle (stop .stopped) 0 = true ∧ safePoint (stop .stopped) 0 = false ∧
    (List.range 4).all (fun k => atRest (stop .stopped) k) = true ∧
    ((gangAt pre 0).map fun x => comeToRest (stop .stopped) 0 x) = some true ∧
    ((gangAt pre 0).map fun x => comeToRest pre 0 x) = some false ∧ ((gangAt pre 0).map fun x => x.stopping || x.stalled) = some false ∧
    ((gangAt (modGang pre 0 fun g => { g with stopping := true, stalled := true }) 0).map fun x => x.stopping && x.stalled) = some true ∧
    ((gangAt (modGang pre 0 fun g => { g with phase := .placed }) 0).map fun x => x.phase != .running) = some true ∧
    saveVa probeGang = 0 ∧ gangKey pre 0 = some 0 ∧ isSW 0 = false ∧ (dieAt (modDie pre 0 fun x => { x with lastPre := some 0 }) 0).lastPre = some 0 ∧
    (dieAt pre 0).lastPre = none := by decide +kernel
/-- A code image of four rings of 1,024 words without a word, at VA 0, and the header of a save at 0x1000; the first two pages of
context 0 are mapped for reading, writing and execution. A leg starts there, afresh or from its save. -/
def imaged (x : Gang) (sv : Save) : State :=
  let s := paged 0xE1
  let m := mwrite (mwrite s.mem 0x4C008 (leBytes 8 0x40E1)) 0 [1]
  { s with
    mem := [24, 40, 56, 72].foldl (fun m a => mwrite m a [10]) (mwrite m 0x1008 (leBytes 8 77)), gangs := [(0, x)], saves := [(0x1000, sv)] }
def starting : Gang := { probeGang with phase := .placed, record := leBytes 48 0 ++ leBytes 8 0x1000 ++ leBytes 8 0 }
def restarting : Gang := { starting with resume := true }
def kept : Save :=
  { full := false, streams := (List.range 4).map fun k => (k, Stream.zero), cores := [(0, { Core.zero with ringLog := #v[10, 10, 10, 10] })],
    receives := [], slip := 5 }
/-- A leg that loads and starts; one that is restored, and one whose core's saved rings pass the mapped pages. -/
theorem witness_LegEvents_starts :
    let s := imaged restarting kept
    let u := (memberLoads s 0 restarting).2
    let n := u.nextId
    let v := { u with nextId := 2 * n + 1, freeCtr := u.freeCtr + 1 }
    let long : Save := { kept with cores := [(0, { Core.zero with ringLog := #v[16, 16, 16, 16] })] }
    (∃ t, memberLoads (imaged starting kept) 0 starting = (none, t)) ∧ memberLoads s 0 restarting = (none, u) ∧
    ((membersOf 0 restarting).headD 0 = 0 ∧ aget u.saves (saveKey u 0 restarting) = some kept) ∧
    (∃ bs t, vaRead u 0 0 0x1000 16 .wr = (.ok bs, t)) ∧ (∃ w, memberResumes v 0 restarting kept n = .ok w) ∧
    ∃ e, memberResumes v 0 restarting long n = .error e := by
  exact ⟨fstIs (by decide +kernel), pairIs (by decide +kernel), by decide +kernel, okPair (by decide +kernel),
    okIs (by decide +kernel), errIs (by decide +kernel)⟩
/-- A gang with its save area at VA 0x1000, of whose save n writes were made. -/
def saving (n : Nat) : Gang :=
  { probeGang with preempt := true, progress := n, record := leBytes 48 0 ++ leBytes 8 0x1000 ++ leBytes 8 0 }
/-- All its writes were made. -/
def savedAll : Gang := { saving 0 with progress := (saveWrites State.reset 0 (saving 0) false).length }
theorem save_ends : saveRun State.reset 0 savedAll false = (none, State.reset) := by
  apply saveRun_done
  unfold savedAll
  rw [saveWrites_progress]
theorem save_faults : ∃ c va u, saveRun State.reset 0 (saving 0) false = (some (0, c, va), u) ∧ c ≠ notYet := by
  obtain ⟨e, u, h⟩ : ∃ e u, access State.reset 0 0 0x1000 .wr = (.error e, u) := errPair (by decide +kernel)
  have he : e.1 = 0x20 := by
    have : (access State.reset 0 0 0x1000 .wr).1 = .error (0x20, 0x1000) := by decide +kernel
    rw [h] at this; injection this with this; rw [this]
  exact ⟨e.1, e.2, u, saveRun_faults (ms := []) rfl (by decide) (by decide) h, by rw [he]; decide⟩
theorem save_waits : ∃ va u, saveRun (farPage 256) 0 (saving 0) false = (some (0, notYet, va), u) := by
  obtain ⟨x, u, h, hh, hf, hd, ht⟩ : ∃ x u, access (farPage 256) 0 0 0x1000 .wr = (.ok x, u) ∧ homeReached u 0 x = true ∧
      isFabric u x.pa = true ∧ homeGlobal u x.pa = some 8 ∧ 256 ≤ trackedOut u (globalDie u 0) 8 := okWith (by decide +kernel)
  exact ⟨0, u, saveRun_waits (ms := []) rfl (by decide) (by decide) h hh hf hd ht⟩
theorem witness_LegEvents_saves :
    (∃ c va u, saveRun State.reset 0 (saving 0) false = (some (0, c, va), u) ∧ c ≠ notYet) ∧
    (∃ va u, saveRun (farPage 256) 0 (saving 0) false = (some (0, notYet, va), u)) ∧
    saveRun State.reset 0 savedAll false = (none, State.reset) ∧ saveOut State.reset 0 = false ∧
    saveOut { State.reset with
      remotes := [{ id := 9, src := 0, dst := 8, track := 0, tries := 0, pa := 0, bytes := [], owner := .save 0 0 }] } 0 = true :=
  ⟨save_faults, save_waits, save_ends, by decide +kernel, by decide +kernel⟩

theorem witness_ClockAndSnapshotEvents :
    let set (v : Word) := setAreg State.reset snapctl v
    gangAt (live 0) 0 = some probeGang ∧ probeGang.tick.toNat < 2 ^ 48 - 1 ∧ State.reset.snapPend = none ∧
    ({ State.reset with snapPend := some 2 } : State).snapPend = some 2 ∧ bitAt (areg (set 0x80) snapctl) 7 = true ∧
    bitAt (areg (set 0) snapctl) 7 = false ∧ fld (areg (set 0) snapctl) 55 8 = 0 ∧
    fld (areg (setAreg (set 0x500) ptickPa 5) snapctl) 55 8 ≠ 0 ∧
    fld (areg (setAreg (set 0x500) ptickPa 5) ptickPa) 47 0 = fld (areg (setAreg (set 0x500) ptickPa 5) snapctl) 55 8 := by
  decide +kernel

/-- Pages of a neighbour on both sides of the limit of 192. -/
theorem witness_CircuitAndPackageEvents_units :
    let x := fun (f : Die → Die) => dieAt (modDie State.reset 0 f) 0
    let pages (n : Nat) : List (Word × Option Nat) := (List.range n).map fun i => (BitVec.ofNat 64 i, none)
    tableOk (aput (dieAt State.reset 0).sendNext 255 0x81) = true ∧ (dieAt State.reset 0).slotCtr = 0 ∧
    (x fun d => { d with slotCtr := 1 }).slotCtr ≠ 0 ∧ (x fun d => { d with circuits := [(0, 63, 7)] }).circuits[0]? = some (0, 63, 7) ∧
    (x fun d => { d with returns := [(0, 63)] }).returns[0]? = some (0, 63) ∧
    (x fun d => { d with pool := { d.pool with ask := some 2, reply := some [5] } }).pool.ask = some 2 ∧
    192 ≤ (pages 192).length ∧ (pages 191).length < 192 := by decide +kernel
/-- A KVAPP that waits for the last neighbour's answer: none, and pages that it takes one of. -/
theorem witness_CircuitAndPackageEvents_lend :
    let k := command (.kvapp 0 24) [0, 1, 0x810000, 0] 9
    let s (reply : List Word) : State := modDie (setAreg (withCmds (mapped 3) [k]) (dieBlock 0 + 0x05000000) 1) 0 fun x =>
      { x with pool := { x.pool with ask := some 2, reply := some reply, waiter := some (0, 0) } }
    let t := modPool (s [0]) 0 fun q => { q with ask := none, reply := none, waiter := none, free := q.free ++ [(0, some 4)] }
    ((dieAt (s []) 0).pool.ask = some 2 ∧ (dieAt (s []) 0).pool.reply = some [] ∧ (dieAt (s [0]) 0).pool.reply = some [0] ∧
      (dieAt (s []) 0).pool.waiter = some (0, 0) ∧ cmdAt (modPool (s []) 0 fun q => { q with ask := none, reply := none, waiter := none }) 0 0 = some k ∧
      cmdAt t 0 0 = some k ∧ seatEvicted t 0 = false ∧ seatEvicted { t with coach := { t.coach with evicted := [0] } } 0 = true) := by decide +kernel
theorem witness_CircuitAndPackageEvents_package :
    let u : PlatUpd := { id := 0, key := 5, old := 0, dies := [0] }
    let e : BitVec 512 := BitVec.ofNat 512 (2 ^ 47 + 2 ^ 64 + (1 + 2 ^ 16 + 2 ^ 32 + 2 ^ 48 + 2 ^ 64) * 2 ^ 128)
    let r : Replat :=
      { id := 0, ctx := 0, caravan := 0, src := 0, dst := 1, parts := [(0, 0, 0, 0, 0)], stepping := false, missed := false, done := [] }
    let k := command (.replat 0 5 6) [0, 1, 0] 10
    let of_ (h : GangPhase) (t : State) : State := modGang t 0 fun g => { g with caravan := some 0, phase := h }
    let s := { of_ .running (withCmds (mapped 3) [k]) with plats := [(0, e), (1, e)], replats := [r] }
    let dying := { of_ .dying s with replats := [{ r with parts := [] }] }
    let odd := { r with parts := [(0, 0, 0, 0, 0), (0, 0, 0, 1, 0)] }
    let b := { command (.bndx 0 5 6) [0, 0] 5 with image := List.replicate 193 0 }
    let first := modDie (withCmds (live 3) [b, { b with seq := 1 }]) 0 fun x => { x with boundsQ := [(0, 1)] }
    let p : Packet :=
      { id := 0, src := 0, dst := 0, at_ := 0, seq := 0, resent := false, response := false, payload := .gmc 0 3 0 5 0 (leBytes 32 0) 0 0 0, detour := [],
        queued := none, flits := 0 }
    let g := { mapped 0 with packets := [p] }
    ({ State.reset with platUpds := [u] } : State).platUpds[0]? = some u ∧ s.replats[0]? = some r ∧
    maskDies (platMask (platMem s 0 0)) = [0] ∧ partsLive s r = true ∧ partsAgree s r = true ∧ cmdAt s 0 0 = some k ∧ cmdReady s 0 k = true ∧
    slotHolds s 0 r = false ∧ stepAt s { r with stepping := true } 0 = none ∧ replatDies s r = [0] ∧
    (liveParts (of_ .dying s) r).length = 1 ∧ liveParts (withCmds (mapped 3) [k]) r = [] ∧ (∀ p ∈ ({ r with parts := [] } : Replat).parts, p.1 ≠ 0) ∧
    (∃ e ∈ dying.gangs, e.2.caravan = some r.caravan ∧ e.2.phase = .dying) ∧ (∀ e ∈ State.reset.gangs, e.2.caravan ≠ some r.caravan) ∧
    partsAgree s odd = false ∧ r.parts.all (fun p => canRaise s p.1) = true ∧ (lineWith (withCmds (live 3) [b]) 0 b = [] ++ (0, b.seq) :: []) ∧
    boundsNew first 0 b ∧ lineWith first 0 b = [(0, 1), (0, 0)] ∧ (cmdAt first 0 1).map boundsDone = some false ∧
    boundsNew (withCmds (live 3) [b]) 0 b ∧ homeGlobal s 0x40 = some 0 ∧ reachable s 0 0 = true ∧ reachable s 0 1 = false ∧
    codeHit (setAreg g (groupPa 5 9) 0x10000) 0 0x10000 32 = false ∧ codeHit g 0 0 32 = true ∧ g.packets[0]? = some p ∧ liveFor g 0 (fld (areg g (groupPa 5 0)) 13 8) = true ∧
    liveFor (setAreg g (groupPa 5 0) 0x100) 0 (fld (areg (setAreg g (groupPa 5 0) 0x100) (groupPa 5 0)) 13 8) = false ∧
    fld (0x11 : Word) 63 14 = 0 ∧ fld (0x11 : Word) 3 1 = 0 ∧ fld (0x1FFFE0 : Word) 31 0 % 32 = 0 ∧
    (walkAccess (mapped 0) 0 0 0 .rd).isOk = false := by
  unfold boundsNew; decide +kernel
/-- A REPLICA entry of 64 elements of 8 bits on die 0, at a VA. -/
def plat64 (base : Nat) : BitVec 512 :=
  BitVec.ofNat 512 (2 * 2 ^ 40 + 2 * 2 ^ 42 + 2 ^ 47 + 2 ^ 64 + 64 * 2 ^ 128 + (2 ^ 16 + 2 ^ 32 + 2 ^ 48 + 2 ^ 64) * 2 ^ 128 +
    64 * 2 ^ 208 + (2 ^ 16 + 2 ^ 32 + 2 ^ 48 + 2 ^ 64) * 2 ^ 208 + base * 2 ^ 320 + 64 * 2 ^ 384)
/-- A step of 64 bytes from page 0 to page 0, and one of 0 bytes; the compiled schedule of the same entries; a write that is out.
Which of the two a slot holds is the opaque `Config.compiled`, so each state has one of the two answers about it. -/
theorem witness_CircuitAndPackageEvents_steps :
    let r : Replat :=
      { id := 0, ctx := 0, caravan := 0, src := 0, dst := 1, parts := [(0, 0, 0, 0, 0)], stepping := true, missed := false, done := [] }
    let k := command (.replat 0 5 6) [0, 1, 0] 10
    let at_ (len : Nat) : State :=
      { withCmds (modCore (setAreg (setAreg (paged 0x61) (dieBlock 0 + 0x01008008) 1) (dieBlock 0 + 0x01008040) (BitVec.ofNat 64 (len * 2 ^ 16))) 0
          fun c => { c with gang := some 0 }) [k]
        with plats := [(0, plat64 0), (1, plat64 0x1000)], replats := [r], gangs := [(0, { probeGang with caravan := some 0 })] }
    let s := at_ 64
    let m : Remote := { id := 9, src := 0, dst := 8, track := 0, tries := 0, pa := 0, bytes := [], owner := .replat 0 0 }
    (platOk (plat64 0) = true ∧ blockBytes (plat64 0) = 64 ∧ s.replats[0]? = some r ∧ partsLive s r = true ∧ cmdAt s 0 0 = some k ∧
      remoteOut s (.replat 0 0) = false ∧ remoteOut { s with remotes := [m] } (.replat 0 0) = true ∧
      (stepAt s r 0).map (fun t => (bfld t 1 1, bfld t 2 4, bfld t 6 8, bfld t 14 8)) = some (0, 64, 0, 0) ∧
      (stepAt (at_ 0) r 0).map (fun t => bfld t 2 4) = some 0 ∧ replatDies s r = [0] ∧
      walkAccess s 0 0 0 .rd = .ok ⟨0, ⟨0, 0, 0x61⟩⟩ ∧ walkAccess s 0 0 0x1000 .wr = .ok ⟨0x1000, ⟨0, 0, 0x61⟩⟩ ∧
      homeGlobal s 0x1000 = some 0 ∧ reachable s 0 0 = true ∧ isFabric s 0x1000 = false ∧ platMem s 0 1 = plat64 0x1000 ∧
      shardSectors s r 0 = [(0, 128), (0, 129)] ∧ (shardBytes s r 0 0 128).isOk = true ∧
      (routerWrite s 0 0 0 0x1000 (leBytes 32 0)).isOk = true ∧ (routerWrite s 0 0 0 0x4000 (leBytes 32 0)).isOk = false ∧
      platElem (plat64 0) 0 0 = some (0, 0, 0, 0) ∧ blockRows (plat64 0) = 1) ∧
    ∀ (s : State) (r : Replat), dormosSlots s r = false ∨ dormosSlots s r = true :=
  ⟨by decide +kernel, fun s r => by cases dormosSlots s r <;> simp⟩

/-- 12 ways and 13; an empty window, and one that names a reserved format; a log size of 6, 16 and 17. -/
theorem witness_AtlasWrites :
    fld (12 : Word) 3 0 ≤ 12 ∧ 12 < fld (13 : Word) 3 0 ∧ windowOk 0 0 0 0 0 = true ∧ windowOk 0 0 0 0 0x300 = false ∧
    windowOpen State.reset 0 = true ∧ windowOpen (live 0) 0 = false ∧ fld (areg (setAreg State.reset (lqRegs 7 7 + 8) 6) (lqRegs 7 7 + 8)) 4 0 ≠ 0 ∧
    fld (areg State.reset (lqRegs 7 7 + 8)) 4 0 = 0 ∧ 6 ≤ fld (6 : Word) 4 0 ∧ fld (16 : Word) 4 0 ≤ 16 ∧ 16 < fld (17 : Word) 4 0 ∧
    (∀ k < 24, linkState State.reset (trunkDie k) (2 * trunkDim k + 1) = 0) ∧
    (∀ i < 3, fld (0x0100 : Word) (1 + 2 * i) (2 * i) ≤ fld (0x0100 : Word) (9 + 2 * i) (8 + 2 * i)) ∧
    fld (0x0100 : Word) 9 8 < fld (0x0102 : Word) 1 0 ∧ csemOwner State.reset 1 ≠ some 0 ∧ csemOwner State.reset 6 ≠ some 1 := by decide +kernel

/-- With a P of 1 no partner fits; with one of 2 in x the neighbour of package 0 holds coordinate 1. -/
theorem witness_LinkEvents_partner :
    let far := setAreg State.reset (ioBlock 0 + 0x04000100) 0x0100
    partnerOk State.reset 0 = false ∧ partnerOk far 0 = false ∧
    partnerOk (putTrunk far 0 { trunkAt far 0 with partner := 0x0101 }) 0 = true ∧ linkState far 0 1 = 0 := by decide +kernel
theorem witness_LinkEvents_links :
    let s (n : Nat) := setAreg State.reset (linkPa 0 0) (BitVec.ofNat 64 n)
    let p : Packet :=
      { id := 0, src := 0, dst := 1, at_ := 0, seq := 0, resent := false, response := false, payload := .req 7, detour := [], queued := none, flits := 0 }
    let q := { p with queued := some 0 }
    let t := { setLink State.reset 0 0 2 with packets := [p] }
    linkState (setLink State.reset 0 0 2) 0 0 = 2 ∧ linkState State.reset 0 6 = 0 ∧ linkState (setLink State.reset 0 1 1) 0 1 = 1 ∧
    t.packets[0]? = some p ∧ packetBehind t p false = false ∧
    packetBehind { t with packets := [{ p with id := 1 }, p] } p false = true ∧ firstDim 0 1 = some 0 ∧
    nextHop { State.reset with packets := [p] } p 0 = none ∧ (nextHop t p 0).isSome = true ∧ linkFor t 0 0 0 % 2 = 0 ∧
    slotsFree t 0 0 ≥ 2 ∧ packetBehind { t with packets := [q] } q false = false ∧ packetBehind { t with packets := [q] } q true = false ∧
    (q.at_ % 8 ^^^ 2 ^ (0 / 16)) = q.dst ∧ (s 0).tripped = false ∧
    (let far := { q with dst := 3 }
     let back := { far with id := 1, at_ := 1, queued := none }
     packetBehind { t with packets := [far] } far false = false ∧ far.at_ / 8 * 8 + (far.at_ % 8 ^^^ 2 ^ (0 / 16)) ≠ far.dst ∧
       takenBefore { t with packets := [back, far] } { far with at_ := 1 } = true ∧
       takenBefore { t with packets := [far] } { far with at_ := 1 } = false) := by decide +kernel
/-- The 8th and the 9th try of a tracked store to another package; a new and a known number; a NAK after 8 replays; an ACK ahead. -/
theorem witness_LinkEvents_flits :
    let far := setAreg State.reset (ioBlock 0 + 0x04000100) 0x0100
    let r := sent far (.store 8 1) 0x1010000000040
    let held := { far with tracked := [⟨8, 0, 3, 0⟩] }
    let m : Remote := { id := 9, src := 0, dst := 8, track := 0, tries := 0, pa := 0x1010000000040, bytes := [], owner := .cmd 0 0 4 }
    let out := { far with remotes := [m] }
    let pk : Packet :=
      { id := 1, src := 0, dst := 8, at_ := 0, seq := 0, resent := false, response := false, payload := .req 7, detour := [], queued := none,
        flits := 3 }
    let k := setLink State.reset (trunkDie 0) (2 * trunkDim 0 + 1) 2
    reqAt (withReq far r) 7 = some r ∧ isTracked (withReq far r) r = true ∧ (homeGlobal far r.pa).isSome = true ∧ { r with tries := 7 }.tries < 8 ∧ 8 ≤ { r with tries := 8 }.tries ∧ r.arrived = true ∧ r.hold = none ∧
    isFabric far r.pa = true ∧ isFabric far 0x40 = false ∧ reqAt out 9 = none ∧ out.remotes.find? (fun m => m.id == 9) = some m ∧
    (out.packets.filter fun p => p.payload == .put 9).length ≤ m.tries ∧ ((homeGlobal far 0x40).getD 0) % 8 = 0 ∧
    (∃ t ∈ held.tracked, t.src = 8 ∧ t.dst = 0 ∧ t.seq = 3) ∧ (∀ t ∈ held.tracked, ¬(t.src = 8 ∧ t.dst = 1 ∧ t.seq = 3)) ∧ 0 < pk.flits ∧ 8 / 8 ≠ packageId State.reset ∧
    (let on := setAreg far (dstatePa 0) 2
     recordHome on 0x40 = 0 ∧ trackedTarget on 16 0x40 = true ∧ trackedTarget far 16 0x40 = false ∧ trackedTarget (live 0) 17 0 = true ∧
       trackedTarget on 17 0 = false ∧ (trackedEffect on 16 0x41 31 5 0 (leBytes 31 5)).isSome = true ∧
       trackedEffect on 16 0x41 32 5 0 (leBytes 32 5) = none ∧ (trackedEffect on 0 0x40 8 5 0 []).isSome = true ∧
       (trackedEffect (live 0) 17 0 8 4 1 []).isSome = true ∧ (semAt (live 0) 0 4).count.toNat + 0xFFFFFFFF < 2 ^ 32 ∧
       2 ^ 32 ≤ (semAt (putSem (live 0) 0 4 { count := 1, tag := .core, settle := [] }) 0 4).count.toNat + 0xFFFFFFFF) ∧
    paFault (setAreg far (dstatePa 0) 2) 0x40 = none ∧ trunkUp k 0 = true ∧ trunkUp State.reset 0 = false ∧
    (trunkAt k 0).resendFrom = none ∧ (trunkAt k 0).replay = [] ∧ (trunkAt k 0).txState = 0 ∧ (trunkAt k 0).rxState = 0 ∧
    (trunkAt k 0).txCount - (trunkAt k 0).keyStart < 2 ^ 48 ∧
    (trunkAt (putTrunk k 0 { trunkAt k 0 with txCount := 1, replay := [(0, none, [], 8)] }) 0).ackSeen < 1 ∧
    extend16 (trunkAt k 0).rxCount (bfld (leBytes 128 0) 0 2) = (trunkAt k 0).rxCount ∧
    (trunkAt k 0).txNext = none ∧ (trunkAt (putTrunk k 0 { trunkAt k 0 with txNext := some 1 }) 0).txNext ≠ none := by decide +kernel

/-- A packet that leaves for the next package, with and without room; a flit of a later and of an earlier count, and of the other
EPOCH with and without a NEXTKEY. -/
theorem witness_LinkEvents_outward :
    let far := setLink (setAreg State.reset (ioBlock 0 + 0x04000100) 0x0100) (trunkDie 0) (2 * trunkDim 0 + 1) 2
    let p : Packet :=
      { id := 1, src := trunkDie 0, dst := 8 + trunkDie 0, at_ := trunkDie 0, seq := 0, resent := false, response := false, payload := .req 7
        detour := [], queued := none, flits := 0 }
    let s := { far with packets := [p] }
    let full := { far with packets := p :: (List.range 8).map fun i => { p with id := i + 2, queued := some 1000 } }
    let flit (n : Nat) (epoch : Byte) : List Byte := leBytes 4 n ++ [epoch] ++ leBytes 123 0
    let t := trunkAt s 0
    firstDim p.at_ p.dst = some (trunkDim 0) ∧ packetBehind s p false = false ∧
    ((nextHop s p (trunkDim 0)).map fun h => linkFor s (p.at_ % 8) h.1.dim h.1.dir % 2) = some 1 ∧
    ((nextHop s p (trunkDim 0)).map fun h => trunkKey (p.at_ % 8) h.1.dim) = some 0 ∧
    2 ≤ slotsFree s p.at_ 1000 ∧ slotsFree full p.at_ 1000 < 2 ∧ trunkUp s 0 = true ∧ (flit 1 0).length = 128 ∧
    t.rxCount < extend16 t.rxCount (bfld (flit 1 0) 0 2) ∧ extend16 1 (bfld (flit 0 0) 0 2) < 1 ∧
    bfld (flit 0 0) 4 1 % 2 = t.rxEpoch.toNat ∧ bfld (flit 0 1) 4 1 % 2 ≠ t.rxEpoch.toNat ∧
    extend16 t.rxCount (bfld (flit 0 1) 0 2) = t.rxCount ∧ t.rxNext = none ∧ ({ t with rxNext := some 1 } : Trunk).rxNext = some 1 := by
  decide +kernel

theorem witness_HostEvents_messages :
    let up := { State.reset with hostLinks := vset State.reset.hostLinks 3 { trained := true, cxl := false, msix := true } }
    let w (v : Word) := areg (setAreg up (msixEntry 3 63 + 8) v) (msixEntry 3 63 + 8)
    let link (s : State) := vget s.hostLinks 3 { trained := false, cxl := false }
    (link up).trained = true ∧ (link up).msix = true ∧ (link State.reset).trained = false ∧
    (link { up with hostLinks := vset up.hostLinks 3 { trained := true, cxl := false } }).msix = false ∧
    (streamAt State.reset 2048).phase ≠ .halted ∧ (streamAt State.reset 2079).phase = .halted ∧ 32 ≤ (32 : Word).toNat ∧
    (63 : Word).toNat < 64 ∧ (31 : Word).toNat < 32 ∧ 64 ≤ (64 : Word).toNat ∧ bitAt (w 0x100000000) 32 = true ∧ bitAt (w 0) 32 = false ∧
    csemOwner State.reset 15 = none ∧ csemOwner { State.reset with csem := vset State.reset.csem 15 (some 1) } 15 = some 1 ∧
    paFault up 0x40 = some 0x22 ∧ paFault (setAreg up (dstatePa 0) 2) 0x40 = none ∧ atlasHeld up (groupPa 5 0) (leBytes 8 1) = false ∧
    windowPa (link up) 0 0xFFFFFFFF = some 0x90FFFFFFFF ∧ windowPa (link up) 0 0x100000000 = none ∧
    windowPa (link up) 2 0x81FFFFFFFF = some 0x81FFFFFFFF ∧ windowPa (link up) 2 0x8200000000 = none ∧ windowPa (link up) 1 0 = none ∧
    windowPa { link up with cxl := true } 1 0x7FFFFFFFFF = some 0x7FFFFFFFFF := by
  decide +kernel
/-- A descriptor of 64 bytes and one of 9,217; a controller below a PCIe link, and none; a write that is still out. -/
theorem witness_HostEvents_ports :
    let desc (op n : Nat) := leBytes 8 0x1000 ++ leBytes 4 n ++ [0, BitVec.ofNat 8 op] ++ leBytes 18 0
    let ring (storage : Bool) (op n : Nat) (s : State) : State :=
      { setAreg (setAreg s (portRing 0 storage 7 + 8) 0x106) (portRing 0 storage 7 + 24) 1 with mem := mwrite s.mem 0 (desc op n) }
    let both := { State.reset with hostLinks := (List.range 4).foldl (fun v i => vset v i { trained := true, cxl := false }) State.reset.hostLinks }
    let m : Remote := { id := 9, src := 0, dst := 8, track := 0, tries := 0, pa := 0, bytes := [], owner := .port 0 false 7 }
    let op (storage : Bool) (s : State) := (portHead s (portRing 0 storage 7)).map fun b => (bfld b 13 1, bfld b 8 4, bfld b 14 2)
    (op false (ring false 0 64 State.reset) = some (0, 64, 0) ∧ op false (ring false 0 9217 State.reset) = some (0, 9217, 0) ∧
      op false (ring false 1 64 State.reset) = some (1, 64, 0) ∧ portHead State.reset (portRing 0 false 7) = none ∧
      nvmeOn both = true ∧ nvmeOn State.reset = false ∧ op true (ring true 2 0 both) = some (2, 0, 0) ∧
      remoteOut { State.reset with remotes := [m] } (.port 0 false 7) = true ∧ remoteOut both (.port 0 true 7) = false) ∧
    (∃ e u, vaRead (ring false 0 64 State.reset) (portTlb 0 false) 0 0x1000 64 .rd = (.error e, u)) ∧
    (∃ e u, vaWrite (ring false 1 64 State.reset) (portTlb 0 false) 0 0x1000 (leBytes 64 0) = (.error e, u)) ∧
    (let io := setLink (setAreg (tlbPut (ring false 0 64 State.reset) (portTlb 0 false) [⟨0, 0, 0x61⟩]) (dstatePa 0) 2) 0 6 2
     (∃ bs u, vaRead io (portTlb 0 false) 0 0x1000 64 .rd = (.ok bs, u)) ∧
       ∃ x u, vaWrite io (portTlb 0 false) 0 0x1000 (leBytes 64 0) = (.ok x, u)) :=
  ⟨by decide +kernel, errPair (by decide +kernel), errPair (by decide +kernel), okPair (by decide +kernel), okPair (by decide +kernel)⟩

/-- A port's ring in the window of a host that is not trained; vectors pending as MSI-X is enabled. -/
theorem witness_HostEvents_ring :
    let r := portRing 0 false 7
    let s := setAreg (setAreg (setAreg State.reset (r + 8) 0x106) (r + 24) 1) r 0x8000000000000
    (portHead s r).isSome = true ∧ hostGo s 0 (ringPa s r 32 (ringHead s r)) = false ∧ remoteOut s (.port 0 false 7) = false ∧
    hostGo State.reset 0 0 = true ∧ bitAt (areg (setAreg State.reset (msixPba 3) 1) (msixPba 3)) 0 = true := by decide +kernel

/-- The parts of an image are the opaque `Config.imageParts`, so whether it is good is open: each image is good or is not. -/
theorem witness_BootAndDieEvents :
    let s (n : Nat) := setDieState State.reset 7 n
    (∀ img, ∃ pk sig hdr body ver, Config.imageParts img = (pk, sig, hdr, body, ver)) ∧
    State.reset.boot = .off ∧ State.reset.flash = [] ∧ ({ State.reset with flash := [1] } : State).flash ≠ [] ∧
    ({ State.reset with boot := .waitImage } : State).boot = .waitImage ∧
    dieState (s 0) 7 = 0 ∧ dieState (s 1) 7 = 1 ∧ dieState (s 2) 7 = 2 ∧ dieState (s 3) 7 = 3 ∧ dieState (s 4) 7 = 4 ∧
    legOnDie (s 3) 7 = false ∧ legOnDie (setDieState (live 0) 0 3) 0 = true ∧ linkPeer 7 0 = some 6 ∧
    dieServes (setDieState (s 1) 6 2) 6 = true :=
  ⟨fun _ => ⟨_, _, _, _, _, rfl⟩, by decide +kernel⟩

/-- Every host link is trained, so the Coach reaches all memory (R462); and a write of its own is on its way, so it waits. -/
def reaching : State :=
  { State.reset with hostLinks := (List.range 4).foldl (fun v i => vset v i { trained := true, cxl := false }) State.reset.hostLinks }
def stopped (s : State) : State :=
  { s with remotes := [{ id := 9, src := 0, dst := 8, track := 0, tries := 0, pa := 0, bytes := [], owner := .hw 0 }] }
theorem reaches_all (s : State) (h : !hwBusy s 0 && hostsClear s) (pas : List Nat) : coachReach s pas = true := by
  simp only [Bool.and_eq_true] at h
  simp [coachReach, h.1, h.2]
theorem reaches_coach (s : State) (f : Coach → Coach) (h : !hwBusy s 0 && hostsClear s) (pas : List Nat) :
    coachReach (modCoach s f) pas = true := reaches_all _ h pas
theorem waits_all (s : State) (h : hwBusy s 0 = true) (pas : List Nat) : coachReach s pas = false := by simp [coachReach, h]
/-- Every context of die 0 maps VA 0 to PA 0, where the request of slot 0 stands: its id and its state. -/
def request (id n : Nat) : State :=
  let t := [(0x40000, 0x44001), (0x44000, 0x48001), (0x48000, 0x4C001), (0x4C000, 0x61)].foldl
    (fun m (e : Nat × Nat) => mwrite m e.1 (leBytes 8 e.2)) []
  { reaching with
    mem := mwrite (mwrite t 0 (leBytes 8 id)) 9 (leBytes 1 n)
    coach := { Coach.zero with seats := [(511, 0)] }
    atlas := aput ((List.range 64).map fun c => ((dieBlock 0 + 0x02001000 + 8 * c) / 8, (0x40001 : BitVec 64))) (dstatePa 0 / 8) 2 }
theorem request_root (id n : Nat) : rootOf (request id n) 0 coachCtxN = 0x40001 := by
  have h : ∀ c < 64, rootOf (request id n) 0 c = 0x40001 := by
    simp only [rootOf, areg, request]
    decide +kernel
  exact h _ Config.coachCtx.isLt
/-- The walk from die 0 by the root of `request`. -/
abbrev walkNear (s : State) (v : Nat) : Except (BitVec 8 × Word) (BitVec 64) :=
  walk s (fun d => reachable s (globalDie s 0) d) 0x40001 (BitVec.ofNat 64 v)
/-- Pages 0 and 256 bytes of a TR are mapped for the Coach, and its tables begin at VA 0. -/
abbrev trMapped (s : State) (q : Nat) : Prop :=
  (walkNear s (256 * q) = .ok 0x61 ∧ walkNear s (256 * q + 128) = .ok 0x61) ∧
  (paFault s (256 * q) = none ∧ paFault s (256 * q + 128) = none) ∧ leafForm s 0x61 = none ∧
  areg s (coachBase + 0x28) = 0 ∧ areg s (coachBase + 0x30) = 0
/-- The record of slot 0 or 1 as the Coach reads it, whatever its context. -/
theorem tr_read (s : State) (q : Nat) (hq : q < 2) (hr : rootOf s 0 coachCtxN = 0x40001) (h : trMapped s q) :
    trRead s q = paRead s (256 * q) 128 0 ++ paRead s (256 * q + 128) 128 0 := by
  have ha : inAtlas 97#64 = false := by decide
  obtain ⟨f0, f1⟩ := h.2.1
  have hw : ∀ v ∈ [256 * q, 256 * q + 128], walkAccess s 0 coachCtxN (BitVec.ofNat 64 v) .rd =
      .ok ⟨v, { ctx := coachCtxN, vpn := 0, leaf := 0x61 }⟩ := by
    intro v hv
    have hv' : walk s (fun d => reachable s (globalDie s 0) d) 0x40001 (BitVec.ofNat 64 v) = .ok 0x61 := by
      simp at hv
      rcases hv with rfl | rfl
      · exact h.1.1
      · exact h.1.2
    rw [walkAccess, hr, hv']
    simp only [h.2.2.1]
    obtain rfl | rfl : q = 0 ∨ q = 1 := by omega
    all_goals
      simp at hv
      rcases hv with rfl | rfl <;>
        simp_all [leafBarred, hasRight, leafPa, leafFrame, pageBits, leafSize, fld, bitAt, hostUp, placeOf]
  have hp : pieces (256 * q) 256 = [(256 * q, 128), (256 * q + 128, 128)] := by
    obtain rfl | rfl : q = 0 ∨ q = 1 := by omega
    all_goals decide
  simp only [trRead, h.2.2.2.1, h.2.2.2.2, hwRead, ite_self]
  simp [hp, hw]
  rfl
theorem request_read (id n q : Nat) (hq : q < 2) (h : trMapped (request id n) q) :
    trRead (request id n) q = paRead (request id n) (256 * q) 128 0 ++ paRead (request id n) (256 * q + 128) 128 0 :=
  tr_read _ q hq (request_root id n) h
/-- A slot whose record holds a request in a state, and one that is free. -/
theorem request_in (id n : Nat) (h : trMapped (request id n) 0)
    (hb : bfld (paRead (request id n) 0 128 0 ++ paRead (request id n) 128 128 0) 0 8 = id ∧
      trState (paRead (request id n) 0 128 0 ++ paRead (request id n) 128 128 0) = n) :
    bfld (trRead (request id n) 0) 0 8 = id ∧ trState (trRead (request id n) 0) = n := by
  rw [request_read id n 0 (by decide) h]; exact hb
theorem witness_CoachEvents_commands :
    bfld (trRead (request 0 0) 0) 0 8 = 0 ∧ (bfld (trRead (request 7 0) 0) 0 8 = 7 ∧ trState (trRead (request 7 0) 0) = 0) ∧
    trState (trRead (request 7 1) 0) = 1 ∧ trState (trRead (request 7 2) 0) = 2 ∧ trState (trRead (request 7 6) 0) = 6 ∧
    ({ (request 7 1).coach with seats := [(511, 0)] }.seats.find? fun e => e.2 == 0) = some (511, 0) :=
  ⟨(request_in 0 0 (by decide +kernel) (by decide +kernel)).1, request_in 7 0 (by decide +kernel) (by decide +kernel),
    (request_in 7 1 (by decide +kernel) (by decide +kernel)).2, (request_in 7 2 (by decide +kernel) (by decide +kernel)).2,
    (request_in 7 6 (by decide +kernel) (by decide +kernel)).2, by decide⟩
/-- Every leg queue has room, so a step can be launched, whatever its record. -/
def roomy : State :=
  setAreg ((List.range 64).foldl (fun s i => setAreg s (lqRegs (i / 8) (i % 8) + 8) 0x106) reaching) (lqRegs 0 8 + 8) 0x106
theorem launches (s : State) (b : Bool) (n : Nat) (h : ∀ d < 8, ∀ q < 8, ringRoom s (lqRegs d q) = b)
    (h8 : ringRoom s (lqRegs 0 8) = b) : canLaunch s n = b := by
  have hd : ∀ m, (maskDies m).headD 0 < 8 := by
    intro m
    have : ∀ d ∈ maskDies m, d < 8 := by intro d hd; simp [maskDies] at hd; exact hd.1
    cases hl : maskDies m with
    | nil => simp
    | cons a l => exact this a (by simp [hl])
  simp only [canLaunch, recQueue]
  split
  · exact h8
  · exact h _ (hd _) _ (by simp only [recPrio, nfld]; omega)
theorem roomy_launches (f : Coach → Coach) (n : Nat) : canLaunch (modCoach roomy f) n = true := by
  have h : ∀ d < 8, ∀ q < 8, ringRoom roomy (lqRegs d q) = true := by decide +kernel
  have h8 : ringRoom roomy (lqRegs 0 8) = true := by decide +kernel
  exact launches _ _ _ h h8
theorem full_waits (f : Coach → Coach) (n : Nat) : canLaunch (modCoach reaching f) n = false := by
  have h : ∀ d < 8, ∀ q < 8, ringRoom reaching (lqRegs d q) = false := by decide +kernel
  have h8 : ringRoom reaching (lqRegs 0 8) = false := by decide +kernel
  exact launches _ _ _ h h8
/-- A ring with an entry, rings with and without room, and the phases; the join object stands at the opaque `Config.stepJoin`,
so each state has one of the two answers about it. -/
theorem witness_CoachEvents_steps :
    let on := [subRing, accRing, cplRing].foldl (fun s r => setAreg s (r + 8) 0x106) (setAreg reaching coachBase 1)
    let s := setAreg on (subRing + 24) 1
    let ph (p : CoachPhase) := modCoach on fun c => { c with phase := p }
    (coachOn s = true ∧ coachOn State.reset = false ∧ ringEn s subRing = true ∧ ringHead s subRing ≠ ringTail s subRing ∧
    coachRoom s accRing = true ∧ coachRoom s cplRing = true ∧ coachRoom State.reset accRing = false ∧ s.coach.phase = .idle ∧
    s.coach.accepting = none ∧ s.hwOut = [] ∧ s.coach.cmds = [] ∧ (ph .begin).coach.phase = .begin ∧
    submissionBad (leBytes 256 0) = true ∧
    submissionBad (leBytes 8 1 ++ leBytes 60 0 ++ leBytes 4 1 ++ leBytes 8 0 ++ leBytes 4 4096 ++ leBytes 172 0) = false ∧
    (ph .running).coach.phase = .running ∧ (ph (.records 3)).coach.phase = .records 3 ∧ (ph .verdict).coach.phase = .verdict ∧
    verdictFor (ph .verdict) 0 = true ∧ verdictFor (ph .verdict) 1 = false ∧ fld (areg on coachBase) 31 16 ≤ on.coach.ends.length ∧
    bitAt (areg on coachBase) 1 = false ∧ bitAt (areg (setAreg on coachBase 3) coachBase) 1 = true ∧ on.coach.reruns < 4 ∧
    (modCoach (ph .commit) fun c => { c with journal := some { complete := false, trs := [], evicted := [] } }).coach.phase = .commit ∧
    (ph .relaunch).coach.phase = .relaunch ∧ on.coach.dissents = 0) ∧
    (∀ p pas, coachReach (ph p) pas = true) ∧ (∀ pas, coachReach s pas = true) ∧
    ∀ t, bfld (joinNow t) 5 1 % 2 = 0 ∨ bfld (joinNow t) 5 1 % 2 = 1 :=
  ⟨by decide +kernel, fun _ => reaches_coach _ _ (by decide +kernel), reaches_all _ (by decide +kernel), fun t => by omega⟩
/-- A TR of 256 bytes in each of its turns: seated, refilling, with a last token and a stop token. -/
theorem witness_CoachEvents_commit :
    let tr (refill : Byte) : List Byte := patch (patch (List.replicate 256 0) 9 [1]) 11 [refill]
    let s (f : Coach → Coach) : State := modCoach reaching fun c => f { c with digest := List.replicate 32 0, seats := [(511, 0)] }
    let staged := s fun c => { c with staged := [⟨511, 0, BitVec.ofNat 64 (2 ^ 48 + 7)⟩] }
    (tr 0).length = 256 ∧ (s id).coach.digest.length = 32 ∧ trState (tr 0) = 1 ∧ trRefill (tr 1) = true ∧ trRefill (tr 0) = false ∧
    ((s fun c => { c with seatFaults := [(511, 0x20)] }).coach.seatFaults.find? fun f => f.1 == 511) = some (511, 0x20) ∧
    (trCtx (tr 0), trSeq (tr 0)) ∈ (s fun c => { c with lost := [(0, 0)] }).coach.lost ∧
    511 ∈ (s fun c => { c with evicted := [511] }).coach.evicted ∧ (s id).coach.evicted = [] ∧ (s id).coach.lost = [] ∧ (∃ e ∈ (s fun c => { c with dry := [(511, 0)] }).coach.dry, e.1 = 511) ∧
    (s id).coach.dry = [] ∧ stagedOf staged 511 = [BitVec.ofNat 64 (2 ^ 48 + 7)] ∧ bitAt (BitVec.ofNat 64 (2 ^ 48 + 7) : Word) 48 = true ∧
    bfld (tr 0) 16 4 + seatRows (s id) 511 (tr 0) < 2 ^ 32 ∧ bfld (tr 0) 24 4 = 0 ∧ bfld (tr 0) 44 4 = 0 := by decide +kernel
/-- A command that waits behind another, one whose TR is not reached; a submission whose record is still to be written; a second
dissent. -/
theorem witness_CoachEvents_waits :
    let c (f : Coach → Coach) : State := modCoach (setAreg reaching coachBase 1) f
    (c fun c => { c with cmds := [(1, 0)] }).coach.cmds ≠ [] ∧ (c fun c => { c with cmds := [(1, 0)] }).hwOut = [] ∧
    (∀ pas, coachReach (c fun c => { c with cmds := [(1, 0)] }) pas = true) ∧
    (c fun c => { c with accepting := some (leBytes 16 7) }).coach.accepting = some (leBytes 16 7) ∧
    (∀ pas, coachReach (c fun c => { c with accepting := some (leBytes 16 7) }) pas = true) ∧
    verdictFor (c fun c => { c with phase := .verdict, dissents := 1 }) 0 = true ∧
    (c fun c => { c with phase := .verdict, dissents := 1 }).coach.dissents ≠ 0 ∧
    (∀ pas, coachReach (c fun c => { c with phase := .verdict, dissents := 1 }) pas = true) ∧
    (∀ pas, coachReach (stopped reaching) pas = false) ∧ ({ reaching with hwOut := [(0, 0x1010000000000, [0])] } : State).hwOut ≠ [] :=
  ⟨by decide, by decide, reaches_all _ (by decide +kernel), by decide, reaches_all _ (by decide +kernel), by decide +kernel, by decide,
    reaches_all _ (by decide +kernel), waits_all _ (by decide +kernel), by decide⟩
/-- A TRLD of a seated request whose TR the Coach reaches, and does not reach; one whose TR was committed and changed since. -/
theorem witness_RequestResults_trld :
    let s := { live 0 with hostLinks := reaching.hostLinks, coach := { (live 0).coach with seats := [(511, 0)] } }
    let old := { s with coach := { s.coach with committed := [(0, List.replicate 256 7)] } }
    (∀ pas, coachReach (waited s 0) pas = true) ∧ (∀ pas, coachReach (waited (stopped s) 0) pas = false) ∧
    (seatSlot (waited s 0) 511 = some 0 ∧ aget (waited s 0).coach.committed 0 = none ∧
      aget (waited old 0).coach.committed 0 = some (List.replicate 256 7) ∧ seatEvicted (waited s 0) 511 = false) :=
  ⟨reaches_all _ (by decide +kernel), waits_all _ (by decide +kernel), by decide +kernel⟩
/-- Slot 0 holds a request in a seat, and slot 1 is the lowest free one. -/
theorem witness_CoachEvents_slot :
    slotFree (request 7 1) 1 = true ∧ (∀ r, r < 1 → slotFree (request 7 1) r = false) ∧ ∀ pas, coachReach (request 7 1) pas = true := by
  have h : bfld (trRead (request 7 1) 1) 0 8 = 0 := by rw [request_read 7 1 1 (by decide) (by decide +kernel)]; decide +kernel
  refine ⟨?_, fun r hr => ?_, reaches_all _ (by decide +kernel)⟩
  · simp only [slotFree, h]; decide
  · obtain rfl : r = 0 := by omega
    simp [slotFree, request]
/-- A peer SINCW on its way, an acquire that the accesses and the commands of its stream wait for, and a stream with none. -/
theorem witness_acquires :
    let s := withReq (mapped 0) (sent (mapped 0) (.peer 1 (.sincw 4 1)) 0)
    acqWaits (popped s 0) 0 = true ∧ acqWaits (popped (mapped 0) 0) 0 = false ∧ acqWaits (waited s 0) 0 = true ∧
    mayIssue s 0 [0, 4] [.x 10] [.x 11] true = true ∧ mayIssue s 0 memStreams [.x 5, .x 6] [] = true ∧
    ownCheck (popped s 0) 0 0x810000 128 128 false = none ∧ ownCheck (waited s 0) 0 0x810000 64 64 false = none := by decide +kernel
/-- A release that a store on its way keeps from being complete. -/
theorem witness_SemaphoreOwnResult_waits :
    let s := withReq (mapped 0) (sent (mapped 0) (.store 8 1) 0x40)
    mayIssue s 0 computeStreams [.x 5, .x 0] [] = true ∧ quiet (popped s 0) 0 (fixedScope (popped s 0) 0 1) = false := by decide +kernel
/-- A CSR of each kind as it is read and written; one that only reads on a compute stream and on SW. -/
theorem witness_CsrResult_values :
    gangOfCore (popped (live 0) 0) 0 = some probeGang ∧ (0xC, (0 : Word)) ∈ csrHeld (popped (live 0) 0) probeGang ∧
    (0x404, (0x40 : Word)) ∈ csrSwHeld (popped (live 4) 0) ∧ mayIssue (live 0) 0 allStreams [] [.x 5] = true ∧
    mayIssue (live 4) 0 [4] [.x 5] [] = true ∧ fld (6 : Word) 63 7 = 0 ∧ fld (6 : Word) 3 0 ≤ 6 ∧ canIssue (live 0) 0 = true ∧
    canIssue (live 4) 2048 = true := by decide +kernel
/-- A stream that holds while its gang is frozen; a result that comes to a stream at its end, in a freeze and after it; a write
without a result. -/
theorem witness_LandingEvents_phases :
    let ice (s : State) := modGang s 0 fun g => { g with stalled := true }
    let o : Outst := { id := 5, regs := [.x 9], val := some [wX 9 7] }
    let at_ (h : Phase) := modStream (live 0) 0 fun st => { st with phase := h, outst := [o, { o with id := 6, val := none }] }
    let end_ := at_ .ending
    frozen (ice (live 0)) 0 = true ∧ frozen (live 0) 0 = false ∧ frozen (ice end_) 0 = true ∧ frozen end_ 0 = false ∧
    (streamAt end_ 0).phase = .ending ∧ (streamAt (at_ (.holding (.waitl 0))) 0).phase = .holding (.waitl 0) ∧
    (∀ h ∈ [Phase.ending, .running, .stopped, .held 3 false, .trapped 3 0, .holding (.waitl 0)],
      (streamAt (at_ h) 0).outst.find? (fun o => o.id == 5) = some o) ∧
    (∀ q ∈ (streamAt end_ 0).outst, q.id = 6 → q.val = none) := by decide +kernel
/-- A TLDM to both cores of a cluster at its end, with a count that is full at one of them, and a die with no room for its entry. -/
theorem witness_CommandRetire_counts :
    let k := { command (.tldm 0 20 21 24 2) [0x820000, 0x810000, 0, 0, 0, 0x0000010400000000] 4 with image := mapBytes, next := 1 }
    let s := withCmds (pair 0) [k]
    let e := entry 0x20 0
    let full := modDie (putSem s 1 4 { count := 0xFFFFFFFF, tag := .core, settle := [] }) 0 fun x => { x with unposted := List.replicate 64 e }
    retires s 0 k ∧ sectorCount k ≤ k.next ∧ isTldm k.ins = true ∧ 2 ≤ compKind k.ins ∧
    remoteOut s (.cmd 0 k.seq (cmdAgent k.engine)) = false ∧ fld (k.ops.getD 5 0) 36 32 = 4 ∧ fld (k.ops.getD 5 0) 55 40 = 1 ∧
    peerLost s 0 k 1 = false ∧ peerLost s 0 k 2 = true ∧ canRaise s 0 = true ∧ canRaise full 0 = false ∧
    (semAt full 1 4).count.toNat + 1 = 2 ^ 32 ∧ (semAt s 1 4).count.toNat + 1 < 2 ^ 32 := by unfold retires; decide +kernel
/-- A load of a REPL page: whose line is on its way for another load of its core, that comes back with the line, and whose slice
holds none, with its home in the own slice and on another die. -/
theorem witness_AccessEvents_replicas :
    let s := mapped 0
    let r : Req := { sent s (.load true 8) 0x40 with leaf := 0x461 }
    let back : Req := { r with id := 8, fetched := true }
    let far : Req := { r with pa := 0x1000000040 }
    isRepl r.leaf r.pa = true ∧ r.fetched = false ∧ back.fetched = true ∧ lineComing { s with requests := [r, back] } r = true ∧
    lineComing (withReq s r) r = false ∧ isSW r.sid = false ∧ (dieAt s 0).replicas = [] ∧ homeGlobal s r.pa = some (srcGlobal s r.sid) ∧
    (homeGlobal s far.pa).isSome = true ∧ homeGlobal s far.pa ≠ some (srcGlobal s far.sid) ∧ ownHome s 0 r.pa = true ∧ ownHome s 0 far.pa = false ∧
    inSlice r = true ∧ inSlice back = false ∧ isRepl 0x461 0x8000000000040 = false := by decide +kernel
/-- A slice with no replica of a line gives none, whatever is evicted. -/
theorem witness_AccessEvents_noReplica (s : State) (c pa : Nat) (h : (dieAt s (dieOf c)).replicas = []) : (replHit s c pa).1 = none := by
  have h' : (dieAt (freeVal s 1).2 (dieOf c)).replicas = [] := h
  simp only [replHit]
  split
  · simp [h']
  · rfl
/-- A packet that came before, and a tracked one that crossed a package edge. -/
theorem witness_LinkEvents_resent :
    let far := setAreg State.reset (ioBlock 0 + 0x04000100) 0x0100
    let r := sent far (.store 8 1) 0x1010000000040
    let p : Packet :=
      { id := 1, src := 0, dst := 1, at_ := 0, seq := 3, resent := true, response := false, payload := .req 7, detour := [], queued := some 0
        flits := 0 }
    let s := { modDie State.reset 1 fun x => { x with window := [(0, 3)] } with packets := [p] }
    (p.src, p.seq) ∈ (dieAt s (p.dst % 8)).window ∧ (p.src, p.seq) ∉ (dieAt (modDie s 1 fun x => { x with window := [] }) (p.dst % 8)).window ∧
    s.packets[0]? = some p ∧ packetBehind s p false = false ∧ packetBehind s p true = false ∧
    p.at_ / 8 * 8 + (p.at_ % 8 ^^^ 2 ^ (0 / 16)) = p.dst ∧ reqAt s 7 = none ∧ isTracked (withReq far r) r = true ∧ 8 / 8 ≠ packageId far ∧
    isFabric far r.pa = true ∧ inSlice r = false := by decide +kernel
/-- A flit that goes again, and a request to send again what the buffer no longer holds; a full buffer and one with room; the last
count of a key; the states of a rollover, before the switch point and at it. -/
theorem witness_LinkEvents_states :
    let k := setLink State.reset (trunkDie 0) (2 * trunkDim 0 + 1) 2
    let t := trunkAt k 0
    let again : Trunk := { t with resendFrom := some 4, replay := [(3, none, [], 0), (4, none, [], 7)] }
    let old : Trunk := { again with resendFrom := some 5 }
    let full : Trunk := { t with replay := List.replicate 1024 (0, none, [], 0) }
    trunkUp k 0 = true ∧ again.replay.find? (fun e => decide (4 ≤ e.1)) = some (4, none, [], 7) ∧
    (∀ e ∈ old.replay, e.1 < 5) ∧ 1024 ≤ full.replay.length ∧ t.replay.length < 1024 ∧ t.resendFrom = none ∧
    2 ^ 48 ≤ ({ t with txCount := 2 ^ 48 } : Trunk).txCount - t.keyStart ∧
    (let armed : Trunk := { t with txState := 1, switch := 7, txNext := some 1 }
     armed.txCount ≠ armed.switch ∧ ({ armed with txCount := 7 } : Trunk).txCount = armed.switch) ∧
    ({ t with txState := 2, txNext := some 1 } : Trunk).txState = 2 ∧
    (∃ e ∈ ({ again with replay := [(4, none, [], 8)] } : Trunk).replay, 4 ≤ e.1 ∧ 8 ≤ e.2.2.2) ∧
    (∀ e ∈ again.replay, ¬(4 ≤ e.1 ∧ 8 ≤ e.2.2.2)) := by decide +kernel
/-- A flit whose tag holds, under any key and nonce: 112 bytes of a head and its tag; and the counts that its ACKSEEN names, on
both sides of a switch. -/
theorem witness_LinkEvents_tags (key nonce h : List Byte) (hh : h.length = 112) :
    let f := h ++ gcmTag key nonce (h.take 8) ((h.drop 8).take 104)
    gcmTag key nonce (f.take 8) ((f.drop 8).take 104) = f.drop 112 ∧
    (let head : List Byte := leBytes 4 0 ++ [1] ++ leBytes 2 1 ++ leBytes 105 0
     head.length = 112 ∧ bfld head 4 1 % 2 = 1 ∧ bfld head 4 1 / 2 % 2 = 0 ∧ extend16 1 (bfld head 5 2) = 1 ∧ extend16 0 (bfld head 0 2) = 0 ∧
       ((0 : Nat) ≤ 1 ∧ ¬((2 : Nat) ≤ 1))) := by
  refine ⟨?_, by decide⟩
  have h1 : ∀ t : List Byte, (h ++ t).take 8 = h.take 8 := fun t => List.take_append_of_le_length (by omega)
  have h2 : ∀ t : List Byte, ((h ++ t).drop 8).take 104 = (h.drop 8).take 104 := by
    intro t
    rw [List.drop_append_of_le_length (by omega), List.take_append_of_le_length (by simp; omega)]
  have h3 : ∀ t : List Byte, (h ++ t).drop 112 = t := by intro t; rw [← hh]; simp
  simp only [h1, h2, h3]
/-- The bytes that one move of a step of 64 bytes to the line at 0x1000 moves, in its first and in its last move, lie in one line. -/
theorem witness_CircuitAndPackageEvents_moves :
    ∀ n ∈ [0, 1],
      let dst := platBase (plat64 0x1000)
      let lo := max dst ((dst / 32 + n) * 32)
      let hi := min (dst + 64) ((dst / 32 + n + 1) * 32)
      let from_ := platBase (plat64 0) + (lo - dst)
      lo < hi ∧ from_ / 128 = (from_ + (hi - lo) - 1) / 128 ∧ 64 ≤ blockBytes (plat64 0x1000) := by decide +kernel
/-- Slot 0 of the map of die 0 holds a page of the request in the seat, and the die's pool was dry. -/
def pooled (n : Nat) (flags : Byte) : State :=
  let s := request 7 n
  { s with
    mem := mwrite (mwrite s.mem 0x4000007 [0x80]) 0x4000011 [flags], coach := { s.coach with dry := [(511, 0)] }
    atlas := aput s.atlas ((dieBlock 0 + 0x05000000) / 8) 0x4000001 }
theorem pooled_read (n : Nat) (f : Byte) (h : trMapped (pooled n f) 0) :
    trRead (pooled n f) 0 = paRead (pooled n f) 0 128 0 ++ paRead (pooled n f) 128 128 0 := by
  have hr : ∀ c < 64, rootOf (pooled n f) 0 c = 0x40001 := by
    simp only [rootOf, areg, pooled, request]
    decide +kernel
  exact tr_read _ 0 (by decide) (hr _ Config.coachCtx.isLt) h
/-- A seated request that holds a page of the dry die; a page of its own, one of a lender that serves and one of a lender that has
left; and a die with no map, where no sequence holds a slot. -/
theorem witness_CoachEvents_victims :
    let s := pooled 1 0
    let k := kvGet s 0x4000000
    (trState (trRead s 0) = 1 ∧ (511, 0) ∈ s.coach.seats ∧ kvAny s 0 (fun k => k.key % 2 ^ 24 == trSeq (trRead s 0)) = true) ∧
    (k.used = true ∧ k.del = false ∧ k.key % 2 ^ 24 = 0 ∧ k.borrowed = false) ∧
    ((kvGet (pooled 1 2) 0x4000000).borrowed = true ∧ (kvGet (pooled 1 2) 0x4000000).lender = 0 ∧ dieServes (pooled 1 2) 0 = true ∧
      (dieAt (pooled 1 2) 0).pool.free.length = 0) ∧
    ((kvGet (pooled 1 6) 0x4000000).lender = 1 ∧ dieServes (pooled 1 6) 1 = false) ∧
    (∀ d, d < 8 → kvAny State.reset d (fun k => k.key % 2 ^ 24 == 5) = false) := by
  have h := pooled_read 1 0 (by decide +kernel)
  have hs : trState (trRead (pooled 1 0) 0) = 1 ∧ trSeq (trRead (pooled 1 0) 0) = 0 := by rw [h]; decide +kernel
  refine ⟨⟨hs.1, by decide, ?_⟩, by decide +kernel, by decide +kernel, by decide +kernel, by decide +kernel⟩
  simp only [hs.2, kvAny, Bool.and_eq_true, List.any_eq_true]
  exact ⟨by decide +kernel, 0, List.mem_range.2 (by decide), by decide +kernel⟩
/-- A request that is admitted to the lowest seat, first or again, one whose rows are too many, and seats that are all taken. -/
theorem witness_CoachEvents_admission :
    let t (n : Byte) : List Byte := patch (patch (List.replicate 256 0) 9 [n]) 80 [1]
    let full := modCoach State.reset fun c => { c with seats := (List.range 512).map fun k => (k, k) }
    (t 0).length = 256 ∧ trState (t 0) = 0 ∧ trState (t 3) = 3 ∧ bfld (t 0) 80 4 = 1 ∧ seatSlot State.reset 0 = none ∧
    (65534 + 1 ≤ 65535 ∧ ((fld (areg State.reset coachBase) 39 32 * ((1 + 63) / 64) : Nat) : Int) ≤ 0) ∧ ¬(65535 + 1 ≤ 65535) ∧
    (∀ k, k < 512 → seatSlot full k ≠ none) ∧ trRefill (patch (t 1) 11 [1]) = true ∧
    7 ∈ ({ Coach.zero with refilling := [7] } : Coach).refilling := by decide +kernel
/-- A seat whose TR is mapped has 256 bytes; a template is 64 bytes, mapped or not. -/
theorem witness_CoachEvents_map :
    (∀ e ∈ (request 7 1).coach.seats, (trRead (request 7 1) e.2).length = 256) ∧ seatSlot (request 7 1) 511 = some 0 ∧
    seatSlot (request 7 1) 0 = none ∧ (hwRead State.reset 0 coachCtxN (areg State.reset (coachBase + 0x10)).toNat 64).length = 64 := by
  refine ⟨?_, by decide, by decide, ?_⟩
  · have he : (request 7 1).coach.seats = [(511, 0)] := rfl
    rw [he]
    intro e h
    obtain rfl : e = (511, 0) := by simpa using h
    rw [request_read 7 1 0 (by decide) (by decide +kernel)]
    decide +kernel
  · have h0 : areg State.reset (coachBase + 0x10) = 0 := by decide
    have hr : ∀ c < 64, rootOf State.reset 0 c = 0 := by decide +kernel
    have hw : walkAccess State.reset 0 coachCtxN 0 .rd = .error (0x20, 0) := by
      have hroot : rootOf State.reset 0 coachCtxN = 0 := hr _ Config.coachCtx.isLt
      rw [walkAccess, hroot]; rfl
    rw [h0]
    show (hwRead State.reset 0 coachCtxN 0 64).length = 64
    have hp : pieces 0 64 = [(0, 64)] := by decide
    simp only [hwRead, hp, List.flatMap_cons, List.flatMap_nil, List.append_nil]
    show (match walkAccess State.reset 0 coachCtxN 0 .rd with
      | .ok x => paRead State.reset x.pa 64 (leafKey x.via.leaf)
      | .error _ => openBytes State.reset 64).length = 64
    rw [hw]
    simp [openBytes]
theorem records_wait (s : State) (q : Nat) (l : List Nat) (h : coachRoom s cplRing = false) :
    writeRecords s (q :: l) = modCoach s fun c => { c with records := q :: l } := by simp [writeRecords, h]
/-- A boundary with a record and no room for it, one with room, and one without a record, reached and not; queues with and without
room. Whether a seat is taken after admission rests on what the TRs hold, so each state has one of the two answers about it. -/
theorem witness_CoachEvents_boundary :
    let s := modCoach reaching fun c => { c with records := [0], phase := .records 1 }
    (∀ pas, coachReach s pas = true) ∧ coachRoom s cplRing = false ∧ (writeRecords s s.coach.records).coach.records ≠ [] ∧
    coachRoom (setAreg s (cplRing + 8) 0x106) cplRing = true ∧ (writeRecords reaching []).coach.records = [] ∧
    (∀ pas, coachReach (writeRecords reaching []) pas = true) ∧ (∀ pas, coachReach (stopped reaching) pas = false) ∧
    (∀ f n, canLaunch (modCoach roomy f) n = true) ∧ (∀ f n, canLaunch (modCoach reaching f) n = false) ∧
    ∀ t : State, t.coach.seats = [] ∨ t.coach.seats ≠ [] :=
  ⟨reaches_coach _ _ (by decide +kernel), by decide +kernel, by
    have h : coachRoom (modCoach reaching fun c => { c with records := [0], phase := .records 1 }) cplRing = false := by decide +kernel
    show (writeRecords _ [0]).coach.records ≠ []
    rw [records_wait _ 0 [] h]; decide, by decide +kernel, rfl, reaches_coach _ _ (by decide +kernel), waits_all _ (by decide +kernel),
    roomy_launches, full_waits, fun t => by by_cases h : t.coach.seats = [] <;> simp [h]⟩
end Sys2Proof.Tests
end

section
/-! The scalar forms of chapter 04 (R62 to R84): what each shape of form does once its word may issue, that the model's results
are those the spec writes, and the words of the forms; from these, the statements about the ALU, the immediates, MADD, SELZ and
the upper immediates, and the branches, jumps and LOOP. -/
namespace Sys2Proof

/-! ### Words of SHI, JR and LOOP (R79, R83, R84) -/

/-- A word that the first check rejects is no instruction. -/
theorem decode_error {w : IWord} {r : Reject} (h : decodeRaw w = .error r) : decode w = .error r := by
  rw [decode, h]
/-- The selector of SHI with four bits that are 0 before the amount. -/
theorem shi_word (tk : Tok) (d a : Reg) (sel : BitVec 2) (amt : BitVec 6) :
    tk ++ 0x0A#6 ++ d ++ a ++ (sel ++ 0#4) ++ amt = tk ++ 0x0A#6 ++ d ++ a ++ (sel ++ 0#4 ++ amt : BitVec 12) := by
  apply BitVec.eq_of_toNat_eq
  simp only [append_val]
  ring
theorem decodeRaw_shi {w : IWord} (h : w.extractLsb' 22 6 = 0x0A) : decodeRaw w = decodeShi w := by
  simp [decodeRaw, bits, h]
/-- R79: the selector 3, and a bit of [9:6] that is not 0, are rejected. -/
theorem decodeShi_error {w : IWord} (h : w.extractLsb' 10 2 = 3 ∨ w.extractLsb' 6 4 ≠ 0) : ∃ r, decodeShi w = .error r := by
  unfold decodeShi need bits
  rcases h with h | h
  · exact ⟨.reservedFunction, by simp [h]⟩
  · have hb : (w.extractLsb' 6 4 == 0#4) = false := by simpa using h
    simp only [hb, Bool.false_eq_true, if_false]
    split <;> exact ⟨_, rfl⟩

/-- R83, R84: a JR or a LOOP with a d field that is not 0 is rejected. -/
theorem decodeRaw_jr_loop_error {w : IWord} (hm : w.extractLsb' 22 6 = 0x11 ∨ w.extractLsb' 22 6 = 0x12)
    (hd : w.extractLsb' 17 5 ≠ 0) : decodeRaw w = .error .nonzeroField := by
  have hb : (w.extractLsb' 17 5 == 0#5) = false := by simpa using hd
  rcases hm with hm | hm <;> simp [decodeRaw, bits, need, hm, hb]
theorem decodeRaw_loop (tk : Tok) (a : Reg) (imm : BitVec 12) :
    decodeRaw (tk ++ 0x12#6 ++ 0#5 ++ a ++ imm) = .ok (.loop tk a imm) := by
  have hv : (tk ++ 0x12#6 ++ 0#5 ++ a ++ imm).toNat = (((tk.toNat * 64 + 18) * 32 + 0) * 32 + a.toNat) * 4096 + imm.toNat := by
    simp only [append_val]; rfl
  generalize tk ++ 0x12#6 ++ 0#5 ++ a ++ imm = w at hv
  have htk := tk.isLt
  have ha := a.isLt
  have himm := imm.isLt
  have h22 : bits w 22 6 = 0x12#6 := bits_val w _ (by simp; omega)
  have h28 : bits w 28 4 = tk := bits_val w _ (by omega)
  have h17 : bits w 17 5 = 0#5 := bits_val w _ (by simp; omega)
  have h12 : bits w 12 5 = a := bits_val w _ (by omega)
  have h0 : bits w 0 12 = imm := bits_val w _ (by omega)
  simp [decodeRaw, need, h22, h28, h17, h12, h0]
theorem illFormed_loop {tk : Tok} {a : Reg} {imm : BitVec 12} (h : imm.toInt ≤ 0) :
    illFormed (.loop tk a imm) = some .badImmediate := by
  have hn : ¬(1 ≤ imm.toNat ∧ imm.toNat ≤ 2047) := by
    rw [BitVec.toInt_eq_toNat_cond] at h
    split at h <;> omega
  simp only [illFormed, firstFailing]
  rw [if_neg (by simpa using hn)]

end Sys2Proof

namespace Sys2Proof.Machine
open Sys2Proof Sys2Proof.Claims

/-! ### The code ring at issue (R42) -/

theorem popOne_ringLog (k : Nat) (c : Core) (q : Nat) : (popOne k c q).ringLog = c.ringLog := by
  unfold popOne; split <;> rfl
theorem foldl_popOne_ringLog (k : Nat) (qs : List Nat) (c : Core) : (qs.foldl (popOne k) c).ringLog = c.ringLog := by
  induction qs generalizing c with
  | nil => rfl
  | cons q r ih => exact (ih _).trans (popOne_ringLog k c q)
/-- A change of a core that leaves its ring sizes keeps the ring size of every stream. -/
theorem ringSize_modCore {s : State} {c : Nat} {f : Core → Core} (hf : (f (coreAt s c)).ringLog = (coreAt s c).ringLog)
    (j : Nat) : ringSize (modCore s c f) j = ringSize s j := by
  unfold ringSize
  by_cases h : coreOf j = c
  · subst h; simp [hf]
  · simp [coreAt_putCore_ne _ _ h]
theorem ringSize_endRegion (s : State) (g j : Nat) : ringSize (endRegion s g) j = ringSize s j := by
  have hc (c : Nat) : coreAt (endRegion s g) c = coreAt s c := by rw [coreAt, endRegion_cores]; rfl
  unfold ringSize; rw [hc]
theorem ringSize_acquire (s : State) (i j : Nat) : ringSize (acquire s i) j = ringSize s j := by
  unfold acquire
  rw [ringSize_endRegion]
  split
  · rfl
  · exact ringSize_modCore rfl j
theorem ringSize_takePops (s : State) (i j : Nat) (tk : Tok) : ringSize (takePops s i tk) j = ringSize s j := by
  unfold takePops
  split
  · rfl
  · rw [ringSize_acquire]
    exact ringSize_modCore (foldl_popOne_ringLog _ _ _) j
@[simp] theorem ringSize_popped (s : State) (tk : Tok) (j : Nat) : ringSize (popped s tk) j = ringSize s j :=
  ringSize_takePops _ _ _ _
/-- The ring index that a form computes at issue is that of the statements. -/
theorem popped_ringPc (s : State) (tk : Tok) (v : Int) : ringPc (popped s tk) s.cur v = wrapped s v := by
  simp [ringPc, wrapped]
theorem popped_nextPc (s : State) (tk : Tok) : nextPc (popped s tk) s.cur = wrapped s ((me s).pc.toNat + 1) := by
  rw [nextPc, popped_me, popped_ringPc]

/-! ### What each shape of form does when its word may issue (R40, R62) -/

theorem locX_eq (d : Reg) : locX d = if d = 0 then [] else [.x d.toNat] := rfl
theorem dstNw_eq (d : Reg) (nw : BitVec 1) : dstNw d nw = if nw = 1 ∨ d = 0 then [] else [.x d.toNat] := by
  unfold dstNw; rw [locX_eq]
  by_cases hn : nw = 1
  · rw [if_pos hn, if_pos (.inl hn)]
  · simp only [hn, if_false, false_or]
theorem dstNw_zero (d : Reg) : dstNw d 0 = if d = 0 then [] else [.x d.toNat] := rfl

/-- A form whose body lands one scalar result completes with that landing. -/
theorem issue_landX {f : Form} {tk : Tok} {body : State → Res} {s : State} {nw : Bool} {d : Reg} {v : Word} {lat : Nat}
    (hi : f.illegal = false) (hw : f.waits = false) (h : mayIssue s tk f.legal f.srcs f.dsts f.var = true)
    (hb : body (popped s tk) = landX (popped s tk) s.cur nw d.toNat v lat) :
    issue f tk body s = .next (landing s tk nw d v lat) :=
  issue_done hi hw h hb
theorem scalar2_result {s : State} {tk : Tok} {d a b : Reg} {nw : BitVec 1} (lat : Nat) (f : Word → Word → Word)
    (h : mayIssue s tk allStreams [.x a.toNat, .x b.toNat] (dstNw d nw) = true) :
    scalar2 lat f tk d a b nw s = .next (landing s tk (nw == 1) d (f (operand s a) (operand s b)) lat) :=
  issue_landX rfl rfl h (by simp only [popped_cur, popped_readX])
theorem scalar3_result {s : State} {tk : Tok} {d a b : Reg} {nw : BitVec 1} (lat : Nat) (f : Word → Word → Word → Word)
    (h : mayIssue s tk allStreams [.x d.toNat, .x a.toNat, .x b.toNat] (dstNw d nw) = true) :
    scalar3 lat f tk d a b nw s =
      .next (landing s tk (nw == 1) d (f (operand s d) (operand s a) (operand s b)) lat) :=
  issue_landX rfl rfl h (by simp only [popped_cur, popped_readX])
theorem scalar1_result {s : State} {tk : Tok} {d a : Reg} {nw : BitVec 1} (f : Word → Word)
    (h : mayIssue s tk allStreams [.x a.toNat] (dstNw d nw) = true) :
    scalar1 f tk d a nw s = .next (landing s tk (nw == 1) d (f (operand s a)) 1) :=
  issue_landX rfl rfl h (by simp only [popped_cur, popped_readX])
theorem scalar0_result {s : State} {tk : Tok} {d : Reg} (f : State → Word)
    (h : mayIssue s tk allStreams [] (locX d) = true) :
    scalar0 f tk d s = .next (landing s tk false d (f (popped s tk)) 1) :=
  issue_landX rfl rfl h (by simp only [popped_cur])
theorem branch_result {s : State} {tk : Tok} {a b : Reg} {off : BitVec 9} (c : Nat)
    (h : mayIssue s tk allStreams [.x a.toNat, .x b.toNat] [] = true) :
    branch c tk a b off s = .next (jumped s tk
      (if condHolds c (operand s a) (operand s b) then some (wrapped s ((me s).pc.toNat + off.toInt)) else none)) := by
  unfold branch
  by_cases hc : condHolds c (operand s a) (operand s b) = true
  · rw [if_pos hc]
    refine issue_done rfl rfl h ?_
    simp only [popped_cur, popped_readX]
    rw [if_pos hc, popped_me, popped_ringPc]
  · rw [if_neg hc]
    refine issue_done rfl rfl h ?_
    simp only [popped_cur, popped_readX]
    rw [if_neg hc]

/-! ### The results as the spec writes them (R73, R76, R77) -/

theorem sltVal_eq (a b : Word) : sltVal a b = if a.toInt < b.toInt then 1 else 0 := by
  simp [sltVal, boolWord, BitVec.slt]
theorem sltuVal_eq (a b : Word) : sltuVal a b = if a.toNat < b.toNat then 1 else 0 := by
  simp [sltuVal, boolWord, BitVec.ult]
theorem minVal_eq (a b : Word) : minVal a b = if a.toInt < b.toInt then a else b := by simp [minVal, BitVec.slt]
theorem maxVal_eq (a b : Word) : maxVal a b = if b.toInt < a.toInt then a else b := by simp [maxVal, BitVec.slt]
theorem minuVal_eq (a b : Word) : minuVal a b = if a.toNat < b.toNat then a else b := by simp [minuVal, BitVec.ult]
theorem maxuVal_eq (a b : Word) : maxuVal a b = if b.toNat < a.toNat then a else b := by simp [maxuVal, BitVec.ult]
/-- The two halves of ROTR meet without overlap, and an amount of 0 gives a itself. -/
theorem rotrVal_eq (a b : Word) : rotrVal a b = a.rotateRight (b.toNat % 64) := by
  have hlt : shOf b < 64 := Nat.mod_lt _ (by decide)
  rw [BitVec.rotateRight_def, rotrVal]
  change _ = a >>> (shOf b % 64) ||| a <<< (64 - shOf b % 64)
  rw [Nat.mod_eq_of_lt hlt]
  by_cases h0 : shOf b = 0
  · simp [h0]
  · rw [Nat.mod_eq_of_lt (by omega)]
theorem mulVal_eq (a b : Word) : mulVal a b = BitVec.ofInt 64 (a.toInt * b.toInt) := by
  simp [mulVal, BitVec.ofInt_mul]
/-- Bits [127:64] of a 128-bit integer are its quotient by 2^64. -/
theorem toBits_high (v : Int) : (toBits 128 v).extractLsb' 64 64 = BitVec.ofInt 64 (v / 2 ^ 64) := by
  apply BitVec.eq_of_toNat_eq
  simp only [toBits, BitVec.extractLsb'_toNat, BitVec.toNat_ofInt, Nat.shiftRight_eq_div_pow]
  omega
theorem mulhVal_eq (a b : Word) : mulhVal a b = BitVec.ofInt 64 (a.toInt * b.toInt / 2 ^ 64) := toBits_high _

theorem bitAt_eq_getLsbD {w : Nat} (v : BitVec w) (i : Nat) : bitAt v i = v.getLsbD i := by
  rw [bitAt, BitVec.getLsbD, Nat.testBit_eq_decide_div_mod_eq]; rfl
theorem bitsDown_eq (a : Word) : bitsDown a = (List.range 64).map fun i => a.getLsbD (63 - i) := by
  simp only [bitsDown, bitAt_eq_getLsbD]
/-- The bits of a word, bit 0 first. -/
theorem bitsDown_reverse (a : Word) : (bitsDown a).reverse = (List.range 64).map fun i => a.getLsbD i := by
  have hr : (List.range 64).reverse = (List.range 64).map (63 - ·) := by decide
  rw [bitsDown_eq, ← List.map_reverse, hr, List.map_map]
  refine List.map_congr_left fun i hi => ?_
  have : i < 64 := List.mem_range.1 hi
  change a.getLsbD (63 - (63 - i)) = _
  rw [show 63 - (63 - i) = i by omega]
theorem clzVal_eq (a : Word) :
    clzVal a = BitVec.ofNat 64 (((List.range 64).takeWhile fun i => !a.getLsbD (63 - i)).length) := by
  rw [clzVal, bitsDown_eq, List.takeWhile_map, List.length_map]; rfl
theorem ctzVal_eq (a : Word) :
    ctzVal a = BitVec.ofNat 64 (((List.range 64).takeWhile fun i => !a.getLsbD i).length) := by
  rw [ctzVal, bitsDown_reverse, List.takeWhile_map, List.length_map]; rfl
theorem popcVal_eq (a : Word) :
    popcVal a = BitVec.ofNat 64 (((List.range 64).filter fun i => a.getLsbD i).length) := by
  rw [popcVal, ← List.length_reverse, ← List.filter_reverse, bitsDown_reverse, List.filter_map, List.length_map]; rfl

/-- The value that BREV has summed after bits 0 to k − 1. -/
def brevSum (a : Word) (k : Nat) : Nat :=
  (List.range k).foldl (fun n i => if bitAt a i then n + 2 ^ (63 - i) else n) 0
theorem brevVal_eq_brevSum (a : Word) : brevVal a = BitVec.ofNat 64 (brevSum a 64) := rfl
/-- Bit k of a is bit 63 − k of its reverse. -/
theorem bitAt_eq_reverse_div (a : Word) {k : Nat} (h : k < 64) :
    (if bitAt a k then 1 else 0) = a.reverse.toNat / 2 ^ (63 - k) % 2 := by
  have hb : bitAt a k = a.reverse.getLsbD (63 - k) := by
    rw [bitAt_eq_getLsbD, BitVec.getLsbD_reverse, BitVec.getMsbD_eq_getLsbD]
    rw [show 64 - 1 - (63 - k) = k by omega]
    simp [show 63 - k < 64 by omega]
  rw [hb, BitVec.getLsbD, Nat.testBit_eq_decide_div_mod_eq]
  rcases Nat.mod_two_eq_zero_or_one (a.reverse.toNat / 2 ^ (63 - k)) with h2 | h2 <;> simp [h2]
/-- After bits 0 to k − 1 of a the sum holds the top k bits of its reverse. -/
theorem brevSum_eq (a : Word) {k : Nat} (h : k ≤ 64) :
    brevSum a k = 2 ^ (64 - k) * (a.reverse.toNat / 2 ^ (64 - k)) := by
  induction k with
  | zero => simp [brevSum, Nat.div_eq_of_lt a.reverse.isLt]
  | succ k ih =>
    have hs : brevSum a (k + 1) = brevSum a k + 2 ^ (63 - k) * (if bitAt a k then 1 else 0) := by
      simp only [brevSum, List.range_succ, List.foldl_append, List.foldl_cons, List.foldl_nil]
      split <;> simp
    have hp : 2 ^ (64 - k) = 2 ^ (63 - k) * 2 := by rw [← pow_succ]; congr 1; omega
    rw [hs, ih (by omega), bitAt_eq_reverse_div a (by omega), show 64 - (k + 1) = 63 - k by omega, hp,
      ← Nat.div_div_eq_div_mul, Nat.mul_assoc, ← Nat.mul_add, Nat.div_add_mod]
theorem brevVal_eq (a : Word) : brevVal a = a.reverse := by
  rw [brevVal_eq_brevSum, brevSum_eq a le_rfl]; simp

/-! ### The immediates (R78, R79) -/

theorem sltVal_sx64 (x : Word) (i : BitVec 12) : sltVal x (sx64 i) = if x.toInt < i.toInt then 1 else 0 := by
  rw [sltVal_eq, sx64, BitVec.toInt_signExtend_of_le (by decide)]
theorem shOf_zx64 (amt : BitVec 6) : shOf (zx64 amt) = amt.toNat := by
  simp only [shOf, zx64, BitVec.toNat_setWidth]; omega

/-! ### The conditions of the branches (R81) -/

theorem not_slt_eq (a b : Word) : (!a.slt b) = decide (b.toInt ≤ a.toInt) := by simp [BitVec.slt, ← decide_not]
theorem not_ult_eq (a b : Word) : (!a.ult b) = decide (b.toNat ≤ a.toNat) := by simp [BitVec.ult, ← decide_not]

/-! ### The forms and their meanings -/

/-- The form means the model's two-source shape with the result `v`, which is the form's own. -/
def MeansAlu2 (f : Alu2) : Prop :=
  ∃ v, (∀ a b, v a b = f.val a b) ∧
    ∀ tk d a b nw s, exec (f.ins tk d a b nw) s = scalar2 f.lat v tk d a b nw s
theorem alu2Forms_mean : ∀ f ∈ alu2Forms, MeansAlu2 f := by
  simp only [alu2Forms, List.forall_mem_cons, List.not_mem_nil, false_imp_iff, implies_true, and_true]
  exact ⟨⟨sllVal, fun _ _ => rfl, by intros; rfl⟩, ⟨srlVal, fun _ _ => rfl, by intros; rfl⟩,
    ⟨sraVal, fun _ _ => rfl, by intros; rfl⟩, ⟨sltVal, sltVal_eq, by intros; rfl⟩, ⟨sltuVal, sltuVal_eq, by intros; rfl⟩,
    ⟨minVal, minVal_eq, by intros; rfl⟩, ⟨maxVal, maxVal_eq, by intros; rfl⟩, ⟨minuVal, minuVal_eq, by intros; rfl⟩,
    ⟨maxuVal, maxuVal_eq, by intros; rfl⟩, ⟨rotrVal, rotrVal_eq, by intros; rfl⟩, ⟨mulVal, mulVal_eq, by intros; rfl⟩,
    ⟨mulhVal, mulhVal_eq, by intros; rfl⟩, ⟨mulhuVal, fun _ _ => rfl, by intros; rfl⟩,
    ⟨divVal, fun _ _ => rfl, by intros; rfl⟩, ⟨divuVal, fun _ _ => rfl, by intros; rfl⟩,
    ⟨remVal, fun _ _ => rfl, by intros; rfl⟩, ⟨remuVal, fun _ _ => rfl, by intros; rfl⟩⟩

theorem aluWideForms_mean : ∀ f ∈ aluWideForms, ∀ tk d a b w nw s,
    exec (f.ins tk d a b w nw) s = aluWide f.val tk d a b w nw s := by
  simp only [aluWideForms, List.forall_mem_cons, List.not_mem_nil, false_imp_iff, implies_true, and_true]
  exact ⟨by intros; rfl, by intros; rfl, by intros; rfl, by intros; rfl, by intros; rfl, by intros; rfl⟩

/-- The form means the model's one-source shape with the result `v`, which is the form's own. -/
def MeansAlu1 (f : Alu1) : Prop :=
  ∃ v, (∀ a, v a = f.val a) ∧ ∀ tk d a nw s, exec (f.ins tk d a nw) s = scalar1 v tk d a nw s
theorem alu1Forms_mean : ∀ f ∈ alu1Forms, MeansAlu1 f := by
  simp only [alu1Forms, List.forall_mem_cons, List.not_mem_nil, false_imp_iff, implies_true, and_true]
  exact ⟨⟨clzVal, clzVal_eq, by intros; rfl⟩, ⟨ctzVal, ctzVal_eq, by intros; rfl⟩, ⟨popcVal, popcVal_eq, by intros; rfl⟩,
    ⟨brevVal, brevVal_eq, by intros; rfl⟩, ⟨bswpVal, fun _ => rfl, by intros; rfl⟩⟩

/-- The form means the model's one-source shape, always with a register result. -/
def MeansAluI (f : AluI) : Prop :=
  ∃ v, (∀ a, v a = f.val a) ∧ ∀ tk d a s, exec (f.ins tk d a) s = scalar1 v tk d a 0 s
theorem immForms_mean (imm : BitVec 12) (amt : BitVec 6) : ∀ f ∈ immForms imm amt, MeansAluI f := by
  simp only [immForms, List.forall_mem_cons, List.not_mem_nil, false_imp_iff, implies_true, and_true]
  exact ⟨⟨fun x => x + sx64 imm, fun _ => rfl, by intros; rfl⟩, ⟨fun x => x &&& sx64 imm, fun _ => rfl, by intros; rfl⟩,
    ⟨fun x => x ||| sx64 imm, fun _ => rfl, by intros; rfl⟩, ⟨fun x => x ^^^ sx64 imm, fun _ => rfl, by intros; rfl⟩,
    ⟨fun x => sltVal x (sx64 imm), fun x => sltVal_sx64 x imm, by intros; rfl⟩,
    ⟨fun x => sltuVal x (sx64 imm), fun x => sltuVal_eq x _, by intros; rfl⟩,
    ⟨fun x => sllVal x (zx64 amt), fun x => congrArg (x <<< ·) (shOf_zx64 amt), by intros; rfl⟩,
    ⟨fun x => srlVal x (zx64 amt), fun x => congrArg (x >>> ·) (shOf_zx64 amt), by intros; rfl⟩,
    ⟨fun x => sraVal x (zx64 amt), fun x => congrArg x.sshiftRight (shOf_zx64 amt), by intros; rfl⟩⟩

/-- The form means the model's branch on a condition, which is the form's own. -/
def MeansBranch (f : Branch) : Prop :=
  ∃ c, (∀ a b, condHolds c a b = f.cond a b) ∧ ∀ tk a b off s, exec (f.ins tk a b off) s = branch c tk a b off s
theorem branchForms_mean : ∀ f ∈ branchForms, MeansBranch f := by
  simp only [branchForms, List.forall_mem_cons, List.not_mem_nil, false_imp_iff, implies_true, and_true]
  exact ⟨⟨0, fun _ _ => rfl, by intros; rfl⟩, ⟨1, fun _ _ => rfl, by intros; rfl⟩, ⟨2, fun _ _ => rfl, by intros; rfl⟩,
    ⟨3, not_slt_eq, by intros; rfl⟩, ⟨4, fun _ _ => rfl, by intros; rfl⟩, ⟨5, not_ult_eq, by intros; rfl⟩,
    ⟨6, fun _ _ => rfl, by intros; rfl⟩, ⟨7, fun _ _ => rfl, by intros; rfl⟩⟩

/-! ### Two-source ALU forms (R73, R74, R76, R77) -/

theorem aluTwoSourceResult : AluTwoSourceResult := by
  intro f hf tk d a b nw s h
  obtain ⟨v, hv, he⟩ := alu2Forms_mean f hf
  rw [he, scalar2_result f.lat v (by rwa [dstNw_eq]), hv]

theorem aluWideResult : AluWideResult := by
  intro f hf tk d a b w nw s k v writes h
  rw [aluWideForms_mean f hf, aluWide, issue_eq rfl rfl h]
  simp only [popped_cur, popped_me]
  rfl

/-- Settles O1: every form is the model's two-source or wide shape, and the model's results are those of R73, R76 and R77. -/
theorem aluResult : Obligations.AluResult := ⟨aluTwoSourceResult, aluWideResult⟩

/-! ### One-source and immediate forms (R76, R78, R79) -/

theorem aluOneSourceResult : AluOneSourceResult := by
  intro f hf tk d a nw s h
  obtain ⟨v, hv, he⟩ := alu1Forms_mean f hf
  rw [he, scalar1_result v (by rwa [dstNw_eq]), hv]

theorem immediateResult : ImmediateResult := by
  intro imm amt f hf tk d a s h
  obtain ⟨v, hv, he⟩ := immForms_mean imm amt f hf
  rw [he, scalar1_result v (by rwa [dstNw_zero]), hv]; rfl

theorem immediateWords : ImmediateWords := by
  intro tk d a imm amt w
  refine ⟨rfl, rfl, rfl, rfl, rfl, rfl, ?_, ?_, ?_, fun hm hs => ?_⟩
  · exact congrArg some (shi_word tk d a 0 amt)
  · exact congrArg some (shi_word tk d a 1 amt)
  · exact congrArg some (shi_word tk d a 2 amt)
  · obtain ⟨r, hr⟩ := decodeShi_error hs
    exact ⟨r, decode_error ((decodeRaw_shi hm).trans hr)⟩

/-- Settles O2: every form is the model's one-source shape with the result the spec writes, and its word is the encoder's. -/
theorem oneSourceResult : Obligations.OneSourceResult := ⟨aluOneSourceResult, immediateResult, immediateWords⟩

/-! ### MADD, SELZ and the upper immediates (R76, R80)

Every clause but LPC's holds in every state, and LPC's in every ring of 1 to 2^18 words. The statement asks it of every state,
though, and a PC has 18 bits, so that LPC's index is cut in a longer ring, which R42 does not allow and the state does. -/

theorem maddSelz_result {s : State} {tk : Tok} {d a b : Reg} {nw : BitVec 1}
    (h : mayIssue s tk allStreams [.x d.toNat, .x a.toNat, .x b.toNat] (dstNw d nw) = true) :
    exec (.madd tk d a b nw) s = .next (landing s tk (nw == 1) d (operand s d + operand s a * operand s b) 3) ∧
    exec (.selz tk d a b nw) s =
      .next (landing s tk (nw == 1) d (if operand s b = 0 then operand s a else operand s d) 1) := by
  change scalar3 3 maddVal tk d a b nw s = _ ∧ scalar3 1 selzVal tk d a b nw s = _
  rw [scalar3_result _ _ h, scalar3_result _ _ h]
  exact ⟨rfl, rfl⟩
theorem lsi_result {s : State} {tk : Tok} {d : Reg} {imm : BitVec 17}
    (h : mayIssue s tk allStreams [.x d.toNat] (locX d) = true) :
    exec (.lsi tk d imm) s = .next (landing s tk false d ((operand s d <<< 17) ||| imm.setWidth 64) 1) := by
  change execLsi tk d imm s = _
  exact issue_landX rfl rfl h (by simp only [popped_cur, popped_readX]; rfl)
theorem lhi_result {s : State} {tk : Tok} {d : Reg} {imm : BitVec 17} (h : mayIssue s tk allStreams [] (locX d) = true) :
    exec (.lhi tk d imm) s = .next (landing s tk false d (imm.signExtend 64 <<< 12) 1) := by
  change scalar0 (fun _ => lhiVal imm) tk d s = _
  rw [scalar0_result _ h]; rfl
theorem upperWords : UpperWords := fun _ _ _ => ⟨rfl, rfl, rfl⟩

/-- In a ring of 1 to 2^18 words a PC holds every ring index. -/
theorem zx64_wrapped {s : State} {v : Int} (h0 : 0 < ringSize s s.cur) (h : ringSize s s.cur ≤ 2 ^ 18) :
    zx64 (wrapped s v) = BitVec.ofNat 64 (v % (ringSize s s.cur : Int)).toNat := by
  have hlo := Int.emod_nonneg v (b := (ringSize s s.cur : Int)) (by omega)
  have hhi := Int.emod_lt_of_pos v (b := (ringSize s s.cur : Int)) (by omega)
  apply BitVec.eq_of_toNat_eq
  simp only [zx64, wrapped, BitVec.toNat_setWidth, BitVec.toNat_ofNat]
  omega
theorem lpc_result {s : State} {tk : Tok} {d : Reg} {imm : BitVec 17} (h0 : 0 < ringSize s s.cur)
    (hr : ringSize s s.cur ≤ 2 ^ 18) (h : mayIssue s tk allStreams [] (locX d) = true) :
    exec (.lpc tk d imm) s =
      .next (landing s tk false d (BitVec.ofNat 64 (((me s).pc.toNat + imm.toInt) % (ringSize s s.cur : Int)).toNat) 1) := by
  change scalar0 (fun s => zx64 (ringPc s s.cur ((streamAt s s.cur).pc.toNat + imm.toInt))) tk d s = _
  rw [scalar0_result _ h]
  simp only [popped_cur, popped_me, popped_ringPc, zx64_wrapped h0 hr]

/-- Core 0 of die 0 runs a leg whose code ring on stream 0 has 2^19 words; R42 allows at most 65,536. -/
def longRing : State :=
  let s := modCore (putGang State.reset 0 probeGang) 0 fun c => { c with gang := some 0, ringLog := #v[19, 10, 10, 10] }
  { modStream s 0 (fun st => { st with phase := .running }) with cur := 0 }
/-- The scalar results that stream 0 has in flight after an outcome. -/
def inFlight (o : Out) : List Word :=
  match o with
  | .next t => (streamAt t 0).flying.map fun f => f.latch.setWidth 64
  | _ => []
theorem longRing_mayIssue : mayIssue longRing 0 allStreams [] [.x 5] = true := by decide +kernel
/-- `LPC x5, -1` at index 0 lands the low 18 bits of the ring's last index. -/
theorem longRing_lpc : inFlight (exec (.lpc 0 5 (-1)) longRing) = [2 ^ 18 - 1] := by decide +kernel
/-- The statement names the last index itself. -/
theorem longRing_claimed :
    inFlight (.next (landing longRing 0 false 5
      (BitVec.ofNat 64 (((me longRing).pc.toNat + (-1 : BitVec 17).toInt) % (ringSize longRing longRing.cur : Int)).toNat) 1)) =
      [2 ^ 19 - 1] := by
  decide +kernel

/-- Refutes O3: in a code ring of 2^19 words (`longRing`), which the statement does not exclude, `LPC x5, -1` at index 0 lands
2^18 − 1, and the statement asks for 2^19 − 1. -/
theorem not_threeSourceAndUpperResult : ¬ Obligations.ThreeSourceAndUpperResult := by
  rintro ⟨h, -⟩
  obtain ⟨-, -, hupper⟩ := h 0 5 0 0 0 (-1) longRing
  obtain ⟨-, hlpc⟩ := hupper longRing_mayIssue
  have hland := congrArg inFlight hlpc
  rw [longRing_lpc, longRing_claimed] at hland
  exact absurd hland (by decide)

/-! ### Branches, jumps and LOOP (R81 to R84) -/

theorem branchResult : BranchResult := by
  intro f hf tk a b off s h
  obtain ⟨c, hc, he⟩ := branchForms_mean f hf
  rw [he, branch_result c h, hc]

theorem j_result {s : State} {tk : Tok} (off : BitVec 22) (h : mayIssue s tk allStreams [] [] = true) :
    exec (.j tk off) s = .next (jumped s tk (some (wrapped s ((me s).pc.toNat + off.toInt)))) := by
  change execJ tk off s = _
  exact issue_done rfl rfl h (by simp only [popped_cur, popped_me, popped_ringPc])
/-- The link is the index after the jump, and lands with a latency of 1 (R82). -/
theorem jl_result {s : State} {tk : Tok} (off : BitVec 22) (h : mayIssue s tk allStreams [] [.x 26] = true) :
    exec (.jl tk off) s =
      .next (let link := (wrapped s ((me s).pc.toNat + 1)).setWidth 64
        let (id, t) := landIn (popped s tk) s.cur [wX 26 link] (link.setWidth 2048) 1
        retire (landed s) t s.cur tk { push := .landed id, jump := some (wrapped s ((me s).pc.toNat + off.toInt)) }) := by
  change execJl tk off s = _
  rw [execJl, issue_eq rfl rfl h]
  simp only [popped_cur, popped_me, popped_ringPc, popped_nextPc]
  rfl
theorem jr_result {s : State} {tk : Tok} {a : Reg} {imm : BitVec 12} (h : mayIssue s tk allStreams [.x a.toNat] [] = true)
    (ht : 0 ≤ (operand s a).toInt + imm.toInt ∧ (operand s a).toInt + imm.toInt < ringSize s s.cur) :
    exec (.jr tk a imm) s = .next (jumped s tk (some (BitVec.ofNat 18 ((operand s a).toInt + imm.toInt).toNat))) := by
  change execJr tk a imm s = _
  refine issue_done rfl rfl h ?_
  simp only [popped_cur, popped_readX, ringSize_popped]
  rw [if_neg (by omega)]
/-- A target outside the ring is Ring Bounds (R83). -/
theorem jr_fault {s : State} {tk : Tok} {a : Reg} {imm : BitVec 12} (h : mayIssue s tk allStreams [.x a.toNat] [] = true)
    (ht : ¬(0 ≤ (operand s a).toInt + imm.toInt ∧ (operand s a).toInt + imm.toInt < ringSize s s.cur)) :
    exec (.jr tk a imm) s = .next (raiseAt (undoPops (popped s tk) (landed s) s.cur tk) s.cur 0x05 0) := by
  change execJr tk a imm s = _
  refine issue_fault rfl rfl h ?_
  simp only [popped_cur, popped_readX, ringSize_popped]
  rw [if_pos (by omega)]

theorem jumpResult : JumpResult := by
  intro tk a off imm s
  refine ⟨j_result off, jl_result off, fun h => ⟨jr_result h, jr_fault h⟩, fun h => ?_⟩
  change execLoop tk a imm s = _
  exact issue_done rfl rfl h (by simp only [popped_cur, popped_me, popped_ringPc, popped_nextPc]; rfl)

theorem branchJumpWords : BranchJumpWords := by
  intro tk a b off9 off22 imm w
  refine ⟨?_, rfl, rfl, rfl, rfl, fun hm hd => ⟨_, decode_error (decodeRaw_jr_loop_error hm hd)⟩, fun h => ?_, rfl⟩
  · simp only [branchForms, List.zipIdx_cons, List.zipIdx_nil, List.forall_mem_cons, List.not_mem_nil, false_imp_iff,
      implies_true, and_true]
    exact ⟨rfl, rfl, rfl, rfl, rfl, rfl, rfl, rfl⟩
  · rw [decode, decodeRaw_loop]
    simp only [illFormed_loop h]

/-- Settles O4: each form's body is run once from the state with its pops taken, where the ring and the PC are those at issue. -/
theorem branchJumpResult : Obligations.BranchJumpResult := ⟨branchResult, jumpResult, branchJumpWords⟩

end Sys2Proof.Machine
end

section
/-! The vector forms of chapter 07 that write VTYPE or a mask register (R154, R160, R161): what their bodies see of the vector
state at issue, the landing of a mask, and the three shapes of form. -/
namespace Sys2Proof.Machine
open Sys2Proof Sys2Proof.Claims

/-! ### The vector state at issue (R147, R149): pops change none of it -/

theorem popped_ctlOf (s : State) (tk : Tok) : ctlOf (popped s tk) = vt s := by
  rw [ctlOf, popped_cur, popped_me]; rfl
theorem active_me (s : State) (m : BitVec 2) (i : Nat) : active (me s) m i = on s m i := rfl
theorem vl_me (s : State) (r : Reg) (i : Nat) : vl (vt s) (me s) r i = elem s r i := rfl

/-! ### The landing of a mask (R50, R160) -/

/-- A form whose body lands a mask of VTYPE's lanes completes with that landing. -/
theorem issue_landM {f : Form} {tk : Tok} {body : State → Res} {s : State} {d : Reg} {p : Nat → Bool}
    (hi : f.illegal = false) (hw : f.waits = false) (h : mayIssue s tk f.legal f.srcs f.dsts f.var = true)
    (hb : body (popped s tk) = landM (popped s tk) d p (tyLanes (vt s).ty)) :
    issue f tk body s = .next (maskResult s tk d p) := by
  rw [issue_eq hi hw h, hb, landM, popped_cur]; rfl

/-! ### VCFG, the compares and VMSK -/

/-- VTYPE is written in the issue slot, and nothing lands (R154). -/
theorem vcfg_result {s : State} {tk : Tok} (sat : BitVec 1) (rnd : BitVec 2) (ty : BitVec 4)
    (h : mayIssue s tk [2] [] [] = true) :
    exec (.vcfg tk sat rnd ty) s =
      .next (retire (landed s) (modStream (popped s tk) s.cur fun st => { st with vtype := (sat ++ rnd ++ ty).setWidth 64 })
        s.cur tk {}) := by
  change execVcfg tk sat rnd ty s = _
  exact issue_done rfl rfl h (by rw [popped_cur])
/-- The four compares are one shape, with the number `k` of the relation. -/
theorem compare2_result {s : State} {tk : Tok} {d a b : Reg} {m : BitVec 2} (k : Nat)
    (h : mayIssue s tk [2] [.v a.toNat, .v b.toNat] [.m d.toNat] = true) :
    compare2 k tk d a b m s =
      .next (maskResult s tk d fun i => on s m i && laneCmp (vt s).ty k (elem s a i) (elem s b i)) :=
  issue_landM rfl rfl h (by simp only [popped_ctlOf, popped_cur, popped_me, active_me, vl_me])
theorem vmsk_result {s : State} {tk : Tok} {d a : Reg} (h : mayIssue s tk [2] [.x a.toNat] [.m d.toNat] = true) :
    exec (.vmsk tk d a) s =
      .next (maskResult s tk d fun i => decide (i < min (operand s a).toNat (tyLanes (vt s).ty))) := by
  change execVmsk tk d a s = _
  exact issue_landM rfl rfl h (by simp only [popped_ctlOf, popped_cur, popped_readX])

/-- Settles O27: each form's body, run from the state with its pops taken, sees the operands, the mask and VTYPE of the
statement, and lands a mask of VTYPE's lanes. -/
theorem vectorMaskResult : Obligations.VectorMaskResult := by
  intro tk d a b m s
  refine ⟨fun h sat rnd ty => vcfg_result sat rnd ty h, fun h => ?_, vmsk_result⟩
  change compare2 0 tk d a b m s = _ ∧ compare2 1 tk d a b m s = _ ∧ compare2 2 tk d a b m s = _ ∧
    compare2 3 tk d a b m s = _
  exact ⟨compare2_result 0 h, compare2_result 1 h, compare2_result 2 h, compare2_result 3 h⟩

end Sys2Proof.Machine
end
